-- ==== Sys2Proof/Word.lean ====
section
/-! DEFINITION. The word types of the G2: bytes, 32-bit lane elements, 64-bit words and 52-bit
addresses (R2, R4, R46, R94). -/

namespace Sys2Proof

/-- A byte of memory. -/
abbrev Byte := BitVec 8

/-- A 32-bit lane element (R46). -/
abbrev Word := BitVec 32

/-- A 64-bit word: an instruction word, a register pair, a special register (R236, R48, R86). -/
abbrev Dword := BitVec 64

/-- A 16-byte granule of memory (R97, R103). -/
abbrev Granule := BitVec 128

/-- A 52-bit virtual address, as a program counter or a cursor holds it (R92, R94). -/
abbrev Addr := BitVec 52

end Sys2Proof
end

