-- ==== Sys2Proof/Config.lean ====
section
/-! DEFINITION. What the manual leaves to the device, and the free values: constants without a value,
which nothing can evaluate (log 2, 20). -/

namespace Sys2Proof.Config

/-- A free value: which of the results that the error bound of an approximating function admits is returned, by
function (0 `frcp`, 1 `frsq`, 2 `fexp2`, 3 `flog2`, 4 `fsin`, 5 `fcos`) and input bits. Every G2 returns the
same bits for the same input (R304) (log 2, DESIGN CHOICE). -/
opaque approx : Nat → BitVec 32 → Nat

/-- A free value: the handle in PWAIT or CWAIT while a wait list is not empty (R165) (log 2, DESIGN CHOICE). -/
opaque waitHandle : Nat → BitVec 32

/-- A free value: a lane of a bypass latch, with its poison, that a partial write of a fresh latch leaves
without a result (R22, R294) (log 2, DESIGN CHOICE). -/
opaque latchLane : Nat → BitVec 33

/-- A free value: a byte that a FOLIO write leaves, poisoned, where its source could not be read (R382) (log 2,
DESIGN CHOICE). -/
opaque folioByte : Nat → BitVec 8

/-- A free value: the bits, always poisoned, that an engine reads of a scratchpad word of a lost parity group,
by bank × 1,536 + row (R133) (log 2, DESIGN CHOICE). -/
opaque lostWord : Nat → BitVec 128

/-- A free value: whether a restartable team is flushed and placed again when its grid is pre-empted, which is the
scheduler's choice (R230) (log 2, DESIGN CHOICE). -/
opaque flush : Nat → Bool

/-- A free value: words of an SPDM answer, by request and argument (R400) (log 20, DESIGN CHOICE). -/
opaque spdmAnswer : Nat → Nat → List Nat

/-- A free value: the SHAKE256 digest of what a measurement is of (R400) (log 20, DESIGN CHOICE). -/
opaque digest : Nat → List Nat → List Nat

/-- A free value: a Falcon-1024 signature by the identity key (R400) (log 20, DESIGN CHOICE). -/
opaque signature : List Nat → List Nat

/-- Bytes of one HBM stack (R113); physical addresses divide over the stacks in ascending order (log 7, DESIGN
CHOICE). -/
def stackBytes : Nat := 80 * 2 ^ 30

/-- Bytes of an L2 home slice; a die has 32 of them (R1). -/
def sliceBytes : Nat := 4 * 2 ^ 20

/-- Bytes of device HBM (R113). -/
def hbmBytes : Nat := 8 * stackBytes

/-- Bytes of one Folio bank group (R110). -/
def bankGroupBytes : Nat := 2 ^ 30

end Sys2Proof.Config
end

