-- ==== Sys2Proof/Syntax.lean ====
section
/-! DEFINITION. The instructions of Eweux and the events of spec/opcode_table.json as syntax: one
constructor of `Instr` for each row of the table. An instruction form carries the fields of its
format that the manual gives it (R239 to R254); an event carries what the outside world or the
machine names in it. -/

namespace Sys2Proof

/-! ## Field types -/

/-- Element types, in the order of their codes (R46). -/
inductive Ty where
  | b32 | s32 | n32 | f32 | f16 | bf16 | e4m3 | e5m2 | l6 | s16 | n16 | s8 | n8 | s64 | n64 | b64
deriving DecidableEq, Repr

/-- Rounding modes of the ROUND field (R53). -/
inductive Rnd where
  | rne | rz | ru | rd
deriving DecidableEq, Repr

/-- Scopes (R142). The reserved codes 110 and 111 decode to no instruction. -/
inductive Scope where
  | grp | core | clu | die | dev | sys
deriving DecidableEq, Repr

/-- Order suffixes (R143). -/
inductive Order where
  | relaxed | acq | rel | acqRel
deriving DecidableEq, Repr

/-- Cache behaviours of the M format (R105). -/
inductive Cache where
  | dflt | stream | keep | home
deriving DecidableEq, Repr

/-- A 10-bit operand field (R20). `u i` is k(i) in group code and s(i) in Stoker code; `res c` is a
code that R20 reserves. -/
inductive Opnd where
  | v (i : Nat) | n (i : Nat) | u (i : Nat) | b (i : Nat)
  | lane | tlane | width | core | groupix
  | imm | zero
  | res (code : Nat)
deriving DecidableEq, Repr

/-- The DST field of a compare: p0 to p15 is code 0 to 15, any other code is not admitted (R238). -/
inductive PDst where
  | p (i : BitVec 4)
  | bad (code : Nat)
deriving DecidableEq, Repr

/-- Compare codes (R255). -/
inductive CmpCode where
  | eq | ne | lt | le | gt | ge | un | ord
deriving DecidableEq, Repr

/-- Atomic operation codes (R255). -/
inductive AtomOp where
  | add | min | max | and | or | xor | xchg | inc | fadd | fmin | fmax
deriving DecidableEq, Repr

/-- Engine counter classes (R208). -/
inductive EngClass where
  | vm | ci | co | mx | fx
deriving DecidableEq, Repr

/-- MODE of the X format (R252); `res3` passes decode and is refused at acceptance with 0x13. -/
inductive MMode where
  | ovr | acc | sacc | res3
deriving DecidableEq, Repr

/-- Kinds of injected error (R364). -/
inductive ErrKind where
  | ue | ce
deriving DecidableEq, Repr

/-- Direction of a copy (R253). -/
inductive CopyDir where
  | into | out
deriving DecidableEq, Repr

/-- SIZE of `cp` (R253). -/
inductive CopySize where
  | b4 | b8 | b16
deriving DecidableEq, Repr

/-! ## Operand records, one for each shape of instruction -/

/-- Register forms of classes 1, 3, 4 and 5 in the V format (R239). W is not held: it is set exactly
when DST is b0 (R22, R237). -/
structure VArgs where
  ty   : Ty
  rnd  : Rnd
  sat  : Bool
  neg1 : Bool
  neg2 : Bool
  func : BitVec 4
  dst  : Opnd
  s1   : Opnd
  s2   : Opnd
  s3   : Opnd
deriving DecidableEq, Repr

/-- Immediate forms in the VI format (R240). -/
structure VIArgs where
  ty  : Ty
  rnd : Rnd
  sat : Bool
  dst : Opnd
  s1  : Opnd
  s2  : Opnd
  imm : BitVec 16
deriving DecidableEq, Repr

/-- VI forms whose S2 holds a function code in bits 19:16: `sel` and `ksel` (R240). -/
structure VFArgs where
  ty  : Ty
  rnd : Rnd
  sat : Bool
  dst : Opnd
  s1  : Opnd
  fn  : BitVec 4
  imm : BitVec 16
deriving DecidableEq, Repr

/-- Compares in the V format (R283, R297, R303). -/
structure CmpArgs where
  ty   : Ty
  cc   : CmpCode
  neg1 : Bool
  neg2 : Bool
  pd   : PDst
  s1   : Opnd
  s2   : Opnd
deriving DecidableEq, Repr

/-- Compares in the VI format. -/
structure CmpIArgs where
  ty  : Ty
  cc  : CmpCode
  pd  : PDst
  s1  : Opnd
  imm : BitVec 16
deriving DecidableEq, Repr

/-- `kli`, `ctrrd` and `srd`: a type, a destination and the immediate (R285, R360, R361). -/
structure DImmArgs where
  ty  : Ty
  dst : Opnd
  imm : BitVec 16
deriving DecidableEq, Repr

/-- `swr` and `tlbinv`: a type, a source and the immediate (R361, R362). -/
structure SImmArgs where
  ty  : Ty
  src : Opnd
  imm : BitVec 16
deriving DecidableEq, Repr

/-- The G format (R250). -/
structure GArgs where
  pd   : BitVec 4
  ps1  : BitVec 4
  ps2  : BitVec 4
  ng1  : Bool
  ng2  : Bool
  func : BitVec 4
  reg  : Opnd
deriving DecidableEq, Repr

/-- The M format (R241) of `ld`, `st`, `pf`, `cwb`, `cinv`, `kld` and `kst`. -/
structure MArgs where
  ty    : Ty
  scope : Scope
  cache : Cache
  order : Order
  cap   : BitVec 4
  data  : Opnd
  index : Opnd
  shift : BitVec 3
  imm   : BitVec 16
deriving DecidableEq, Repr

/-- The DATA field of `ldc` and `stc` (R241): TYPE 0 names a quad, TYPE 1 a c register. -/
inductive CapData where
  | quad (o : Opnd)
  | creg (i : BitVec 4)
deriving DecidableEq, Repr

/-- `ldc` and `stc` (R323). -/
structure LdcArgs where
  scope : Scope
  cache : Cache
  order : Order
  cap   : BitVec 4
  data  : CapData
  index : Opnd
  shift : BitVec 3
  imm   : BitVec 16
deriving DecidableEq, Repr

/-- `shpld` (R354). -/
structure ShpldArgs where
  slot  : BitVec 4
  cap   : BitVec 4
  index : Opnd
  shift : BitVec 3
  imm   : BitVec 16
deriving DecidableEq, Repr

/-- `errinj` (R364). -/
structure ErrinjArgs where
  kind  : ErrKind
  cap   : BitVec 4
  index : Opnd
  shift : BitVec 3
  imm   : BitVec 16
deriving DecidableEq, Repr

/-- `atom` in the A format (R242). -/
structure AtomArgs where
  ty    : Ty
  scope : Scope
  op    : AtomOp
  cap   : BitVec 4
  dst   : Opnd
  index : Opnd
  data  : Opnd
  order : Order
  imm7  : BitVec 7
deriving DecidableEq, Repr

/-- `red`: `atom` without a destination. -/
structure RedArgs where
  ty    : Ty
  scope : Scope
  op    : AtomOp
  cap   : BitVec 4
  index : Opnd
  data  : Opnd
  order : Order
  imm7  : BitVec 7
deriving DecidableEq, Repr

/-- `cas`: `atom` without an operation. -/
structure CasArgs where
  ty    : Ty
  scope : Scope
  cap   : BitVec 4
  dst   : Opnd
  index : Opnd
  data  : Opnd
  order : Order
  imm7  : BitVec 7
deriving DecidableEq, Repr

/-- The Q format (R171). -/
structure QArgs where
  esize  : BitVec 4
  scope  : Scope
  blk    : Bool
  cap    : BitVec 4
  data   : Opnd
  status : BitVec 4
  aux    : Opnd
deriving DecidableEq, Repr

/-- `cbnd` (R327). -/
structure CbndArgs where
  cd   : BitVec 4
  cs   : BitVec 4
  base : Opnd
  len  : Opnd
deriving DecidableEq, Repr

/-- `cadr`, `cinc` and `cprm` (R328). -/
structure CopArgs where
  cd : BitVec 4
  cs : BitVec 4
  s1 : Opnd
deriving DecidableEq, Repr

/-- `cget` (R330). -/
structure CgetArgs where
  sel : BitVec 4
  dst : Opnd
  cs  : BitVec 4
deriving DecidableEq, Repr

/-- `ctst` (R331). -/
structure CtstArgs where
  sel : BitVec 4
  dst : Opnd
  cs  : BitVec 4
  x   : Opnd
deriving DecidableEq, Repr

/-- The three forms of `cmov` (R329). -/
inductive CmovForm where
  | cc (cd cs : BitVec 4)
  | cq (cd : BitVec 4) (quad : Opnd)
  | qc (quad : Opnd) (cs : BitVec 4)
deriving DecidableEq, Repr

/-- The T format (R244). -/
structure TArgs where
  ty     : Ty
  tile   : BitVec 6
  data   : Opnd
  row    : Opnd
  colblk : BitVec 3
deriving DecidableEq, Repr

/-- `bra` (R245): `cond` is none when UNC is set, and otherwise the predicate and its negation. -/
structure BraArgs where
  cond : Option (BitVec 4 × Bool)
  off  : BitVec 44
deriving DecidableEq, Repr

/-- `call` (R245). -/
structure CallArgs where
  frame : BitVec 10
  off   : BitVec 44
deriving DecidableEq, Repr

/-- `fspawn` (R245). -/
structure FspawnArgs where
  status : BitVec 4
  base   : Opnd
  off    : BitVec 40
deriving DecidableEq, Repr

/-- The strand header (R247). -/
structure StrandArgs where
  vlo   : BitVec 10
  vhi   : BitVec 10
  klo   : BitVec 7
  khi   : BitVec 7
  pmask : BitVec 16
deriving DecidableEq, Repr

/-- The predicate block (R248). -/
structure PbArgs where
  pred    : BitVec 4
  comp    : Bool
  count   : BitVec 3
  pattern : BitVec 8
deriving DecidableEq, Repr

/-- `bar` and `barv` (R251). -/
structure BarArgs where
  id    : BitVec 4
  count : Opnd
deriving DecidableEq, Repr

/-- The X format (R252). -/
structure MmaArgs where
  tile   : BitVec 6
  mode   : MMode
  causal : Bool
  aslot  : BitVec 4
  bslot  : BitVec 4
  gamma  : Opnd
  coord  : Opnd
  ta     : Bool
  tb     : Bool
deriving DecidableEq, Repr

/-- `cp` in the Y format (R253). -/
structure CpArgs where
  dir   : CopyDir
  size  : CopySize
  scope : Scope
  scap  : BitVec 4
  dcap  : BitVec 4
  sidx  : Opnd
  didx  : Opnd
  soff  : BitVec 10
  doff  : BitVec 10
deriving DecidableEq, Repr

/-- `cpt` in the Y format (R253). -/
structure CptArgs where
  dir   : CopyDir
  scope : Scope
  src   : BitVec 4
  dst   : BitVec 4
  coord : Opnd
deriving DecidableEq, Repr

/-- `wait` (R254). -/
structure WaitArgs where
  cls    : EngClass
  thresh : BitVec 6
deriving DecidableEq, Repr

/-- `loop` (R254). -/
structure LoopArgs where
  level : BitVec 2
  count : Opnd
  body  : BitVec 12
deriving DecidableEq, Repr

/-! ## What events name -/

/-- An issuing party: a group, or the Stoker of a core (R139). -/
inductive Party where
  | group (g : Nat)
  | stoker (core : Nat)
deriving DecidableEq, Repr

/-- PCI Express AtomicOps (R392). -/
inductive HostOp where
  | fetchAdd | swap | cas
deriving DecidableEq, Repr

/-- A peer's request, executed at this device's home (R115, R395). -/
inductive PeerReq where
  | load (pa : Nat) (size : Nat)
  | store (pa : Nat) (bytes : List Byte)
  | atomic (pa : Nat) (ty : Ty) (op : AtomOp) (operand : Dword)
  | cas (pa : Nat) (ty : Ty) (cmp new : Dword)
deriving DecidableEq, Repr

/-- What a host read names: device memory from an address on (R118), or the registers of the virtual function's BAR0
from an offset on (R393). -/
inductive HostAddr where
  | memory (pa : Nat)
  | register (offset : Nat)
deriving DecidableEq, Repr

/-- The slack of a member of a collective group for a numbered round (R397). -/
structure RoundSlack where
  round : Nat
  slack : Nat
deriving DecidableEq, Repr

/-- The regulators' readings of one damper interval as energy in units of 2^-20 J (R214): of each cluster, L2 slice (those of
D0, then those of D1), HBM channel and Folio bank group, of the rails that partitions share, and each partition's traffic
on those. -/
structure Readings where
  clusters : List Nat
  slices   : List Nat
  channels : List Nat
  folio    : List Nat
  shared   : Nat
  traffic  : List Nat
deriving DecidableEq, Repr

/-- What a patrol scrub's read of a sector finds (R406). -/
inductive ScrubResult where
  | clean | corrected | uncorrectable
deriving DecidableEq, Repr

/-- A partition's share of the device (R387): physical clusters, slices of each die, channels and
Folio bank groups. -/
structure PartMap where
  clusters : List Nat
  slices0  : List Nat
  slices1  : List Nat
  channels : List Nat
  folio    : List Nat
deriving DecidableEq, Repr

/-- A work queue's configuration: element size and capacity as base-two logarithms (R187). -/
structure WorkQueueCfg where
  index  : Nat
  eszlog : Nat
  caplog : Nat
deriving DecidableEq, Repr

/-- What the physical function or Yilup sets for a partition (R387, R389, R397), or the device rung that the physical
function starts (R394). -/
inductive PartCfg where
  | slice (ns : Nat)
  | workQueue (q : WorkQueueCfg)
  | collective (members : List Nat)
  | partMap (m : PartMap)
  | deviceRung
deriving DecidableEq, Repr

/-- A Yilup MAP command (R401): read the partition map, or set one partition's share. -/
inductive MapCmd where
  | read
  | set (part : Nat) (m : PartMap)
deriving DecidableEq, Repr

/-- A signed firmware image (R400): version, and whether its Falcon-1024 signature verifies. -/
structure Image where
  version : Nat
  digest  : Nat
  valid   : Bool
deriving DecidableEq, Repr

/-! ## The instructions and events -/

/-- One constructor for each row of spec/opcode_table.json: the rows whose instruction or event carries
fields in the table's order, then the rows without fields. -/
inductive Instr where
  -- class 0: control, fibres and strands (R263 to R280)
  | pb (a : PbArgs)
  | bra (a : BraArgs)
  | brx (target : Opnd)
  | call (a : CallArgs)
  | ret (link : Opnd)
  | strand (a : StrandArgs)
  | activeSetEntry (g : Nat)
  | rcvTimeout (g : Nat) (lanes : List Nat)
  | yieldExpiry (g : Nat) (lanes : List Nat)
  | pause (n : BitVec 16)
  | pauseExpiry (g : Nat) (lanes : List Nat)
  | fspawn (a : FspawnArgs)
  | trap (n : BitVec 16)
  -- class 1: uniform scalar (R281 to R287)
  | kmov (a : VArgs)
  | kadd (a : VArgs)
  | kaddImm (a : VIArgs)
  | ksub (a : VArgs)
  | ksubImm (a : VIArgs)
  | kmul (a : VArgs)
  | kmulImm (a : VIArgs)
  | kmulh (a : VArgs)
  | kmulhImm (a : VIArgs)
  | kand (a : VArgs)
  | kandImm (a : VIArgs)
  | kor (a : VArgs)
  | korImm (a : VIArgs)
  | kxor (a : VArgs)
  | kxorImm (a : VIArgs)
  | kshl (a : VArgs)
  | kshlImm (a : VIArgs)
  | kshr (a : VArgs)
  | kshrImm (a : VIArgs)
  | ksar (a : VArgs)
  | ksarImm (a : VIArgs)
  | kmin (a : VArgs)
  | kminImm (a : VIArgs)
  | kmax (a : VArgs)
  | kmaxImm (a : VIArgs)
  | kcmp (a : CmpArgs)
  | kcmpImm (a : CmpIArgs)
  | ksel (a : VArgs)
  | kselImm (a : VFArgs)
  | kbfe (a : VArgs)
  | kbfeImm (a : VIArgs)
  | kpopc (a : VArgs)
  | kclz (a : VArgs)
  | kld (a : MArgs)
  | kst (a : MArgs)
  | kli (a : DImmArgs)
  -- class 2: predicates (R288 to R292)
  | pand (a : GArgs)
  | por (a : GArgs)
  | pxor (a : GArgs)
  | pnot (a : GArgs)
  | pmov (a : GArgs)
  | pvote (a : GArgs)
  | pfirst (a : GArgs)
  | pmask (a : GArgs)
  -- class 3: vector integer (R295 to R301)
  | mov (a : VArgs)
  | movImm (a : VIArgs)
  | add (a : VArgs)
  | addImm (a : VIArgs)
  | sub (a : VArgs)
  | subImm (a : VIArgs)
  | mul (a : VArgs)
  | mulImm (a : VIArgs)
  | mulh (a : VArgs)
  | mulhImm (a : VIArgs)
  | mad (a : VArgs)
  | madImm (a : VIArgs)
  | min (a : VArgs)
  | minImm (a : VIArgs)
  | max (a : VArgs)
  | maxImm (a : VIArgs)
  | abs (a : VArgs)
  | neg (a : VArgs)
  | and (a : VArgs)
  | andImm (a : VIArgs)
  | or (a : VArgs)
  | orImm (a : VIArgs)
  | xor (a : VArgs)
  | xorImm (a : VIArgs)
  | not (a : VArgs)
  | shl (a : VArgs)
  | shlImm (a : VIArgs)
  | shr (a : VArgs)
  | shrImm (a : VIArgs)
  | sar (a : VArgs)
  | sarImm (a : VIArgs)
  | bfe (a : VArgs)
  | bfeImm (a : VIArgs)
  | bfi (a : VArgs)
  | bfiImm (a : VIArgs)
  | popc (a : VArgs)
  | clz (a : VArgs)
  | brev (a : VArgs)
  | cmp (a : CmpArgs)
  | cmpImm (a : CmpIArgs)
  | sel (a : VArgs)
  | selImm (a : VFArgs)
  | addc (a : VArgs)
  | addcImm (a : VIArgs)
  | dot4 (a : VArgs)
  | dot4Imm (a : VIArgs)
  | cmul (a : VArgs)
  | cmac (a : VArgs)
  -- class 4: vector float (R302 to R310)
  | fadd (a : VArgs)
  | faddImm (a : VIArgs)
  | fsub (a : VArgs)
  | fsubImm (a : VIArgs)
  | fmul (a : VArgs)
  | fmulImm (a : VIArgs)
  | fma (a : VArgs)
  | fmaImm (a : VIArgs)
  | fmin (a : VArgs)
  | fminImm (a : VIArgs)
  | fmax (a : VArgs)
  | fmaxImm (a : VIArgs)
  | fcmp (a : CmpArgs)
  | fcmpImm (a : CmpIArgs)
  | frcp (a : VArgs)
  | frsq (a : VArgs)
  | fsqrt (a : VArgs)
  | fexp2 (a : VArgs)
  | flog2 (a : VArgs)
  | fsin (a : VArgs)
  | fcos (a : VArgs)
  | frnd (a : VArgs)
  | fclass (a : VArgs)
  | fscale (a : VArgs)
  | fscaleImm (a : VIArgs)
  | fdot2 (a : VArgs)
  | fdot2Imm (a : VIArgs)
  | fcmul (a : VArgs)
  -- class 5: convert, tag and lane (R311 to R317)
  | cvt (a : VArgs)
  | cvtpk (a : VArgs)
  | unpk (a : VArgs)
  | tagset (a : VArgs)
  | tagget (a : VArgs)
  | shfl (a : VArgs)
  | bcast (a : VArgs)
  | vred (a : VArgs)
  | vscan (a : VArgs)
  -- class 6: memory and capabilities (R320 to R331)
  | ld (a : MArgs)
  | st (a : MArgs)
  | ldc (a : LdcArgs)
  | stc (a : LdcArgs)
  | pf (a : MArgs)
  | cwb (a : MArgs)
  | cinv (a : MArgs)
  | accrd (a : TArgs)
  | accwr (a : TArgs)
  | cbnd (a : CbndArgs)
  | cadr (a : CopArgs)
  | cinc (a : CopArgs)
  | cprm (a : CopArgs)
  | cget (a : CgetArgs)
  | cmov (f : CmovForm)
  | ctst (a : CtstArgs)
  -- class 7: atomics, barriers and queues (R332 to R341)
  | atom (a : AtomArgs)
  | red (a : RedArgs)
  | cas (a : CasArgs)
  | fence (scope : Scope)
  | bar (a : BarArgs)
  | barv (a : BarArgs)
  | barw (id : BitVec 4)
  | qenq (a : QArgs)
  | qdeq (a : QArgs)
  | qrsv (a : QArgs)
  | qcmt (a : QArgs)
  | qtake (a : QArgs)
  | qdone (a : QArgs)
  | qinit (a : QArgs)
  | qstat (a : QArgs)
  | qclose (a : QArgs)
  | queueRetry (p : Party) (lanes : List Nat)
  -- class 8: copies, Stoker and matrix (R343 to R358)
  | cp (a : CpArgs)
  | cpt (a : CptArgs)
  | wait (a : WaitArgs)
  | stoke (off : BitVec 44)
  | loop (a : LoopArgs)
  | shpld (a : ShpldArgs)
  | mma (a : MmaArgs)
  | mconv (a : MmaArgs)
  -- class 9: system (R359 to R364)
  | tstamp (ty : Ty) (dst : Opnd)
  | ctrrd (a : DImmArgs)
  | srd (a : DImmArgs)
  | swr (a : SImmArgs)
  | tlbinv (a : SImmArgs)
  | sleep (n : BitVec 16)
  | sleepExpiry (g : Nat) (lanes : List Nat)
  | errinj (a : ErrinjArgs)
  -- events of the execution model and the memories
  | eviction (g : Nat)
  | loadComplete (g : Nat) (id : Nat)
  | fifoDrain (core : Nat)
  | l1Eviction (core : Nat) (block : Nat)
  | copyComplete (p : Party) (id : Nat)
  | matrixCommandComplete (core : Nat)
  | parityUpdate (core : Nat) (pgroup : Nat)
  | bankRetire (core : Nat) (bank : Nat)
  | folioRefreshWindow (die : Nat) (bank : Nat)
  | groupEnd (g : Nat)
  | gridComplete (grid : Nat)
  | teamKill (team : Nat)
  -- events of the host interface, the clerks and the scheduler
  | invreq (part : Nat) (value : Dword)
  | invalidationComplete (part : Nat)
  | pgresume (part : Nat) (value : Dword)
  | feedtail (part : Nat) (value : Word)
  | launch (part : Nat)
  | feed (part : Nat)
  | folio (part : Nat)
  | folioWriteComplete (part : Nat) (id : Nat)
  | marker (part : Nat)
  | markerComplete (part : Nat) (id : Nat)
  | launchTake (part : Nat)
  | teamPlacement (grid : Nat) (cores : List Nat)
  | sliceExpiry (grid : Nat)
  | preemptRequest (grid : Nat)
  | preemptCut (grid : Nat)
  | saveImage (grid : Nat)
  | watchdogEscalation (grid : Nat)
  | contextRestore (grid : Nat) (cores : List (List Nat))
  -- the reset ladder
  | queueRung (part : Nat) (queue : Nat)
  | contextRung (part : Nat) (ctx : Nat)
  | engineRung (part : Nat) (core : Nat)
  | partitionRung (part : Nat)
  | rungTimeout (part : Nat)
  | resetreqQueue (part : Nat) (value : Word)
  | resetreqContext (part : Nat) (value : Word)
  | resetreqEngine (part : Nat) (value : Word)
  | resetreqPartition (part : Nat) (value : Word)
  -- host, peers, power, time and management
  | energyLoRead (part : Nat)
  | registerWrite (part : Nat) (offset : Nat) (value : Word)
  | hostMemoryRead (part : Nat) (start : HostAddr) (size : Nat)
  | hostMemoryWrite (pa : Nat) (bytes : List Byte)
  | hostAtomicOp (op : HostOp) (pa : Nat) (wide : Bool) (operand new : Dword)
  | damperInterval (codes : List (BitVec 10)) (r : Readings)
  | laneRatioStallEnd (cluster : Nat)
  | droopAlarm (cluster : Nat)
  | stretchEnd (cluster : Nat)
  | halvedEnd (cluster : Nat)
  | slackRound (part : Nat)
  | pageWalkComplete (die : Nat) (id : Nat)
  | accessPerformed (g : Nat) (id : Nat)
  | unallocatedOpcode (word : Dword)
  -- further events that name something in the outside world
  | reset (rung : Nat) (part : Nat) (target : Nat)
  | peerRequest (port : Nat) (r : PeerReq)
  | portDown (port : Nat)
  | portUp (port : Nat)
  | slackReport (part : Nat) (member : Nat) (report : RoundSlack)
  | ptmMeasurement (offset : Int)
  | timeOfDayMessage (secs : Nat)
  | patrolScrub (sector : Nat) (r : ScrubResult)
  | clerkRestart (clerk : Nat)
  | map (c : MapCmd)
  | update (image : Image)
  | spdmCertificates (slot : Nat)
  | spdmChallenge (nonce : Nat)
  | spdmMeasurements (index : Nat)
  | partitionConfiguration (part : Nat) (cfg : PartCfg)
  -- instructions and events without fields
  | nop
  | rcv
  | yield
  | fend
  | exit
  | brk
  | rte
  | gbar
  | seal
  | sfin
  | deviceRung
  | ppsPulse
  | status
  | log
  | spdmVersion
  | spdmCapabilities
  | spdmAlgorithms
  | timeSourceLoss
deriving DecidableEq, Repr

end Sys2Proof
end

