-- ==== Sys2Proof/WellFormed.lean ====
section
/-! DEFINITION. Well-formed instructions: every field of an instruction form lies in the range that
its field of the encoding holds. Which values of those fields an instruction admits is `Instr.legal`
of Decode.lean. -/

namespace Sys2Proof

/-- The operand code of R20 that an operand stands for. -/
def Opnd.code : Opnd → Nat
  | .v i => i
  | .n i => 0x260 + i
  | .u i => 0x280 + i
  | .b i => 0x2E0 + i
  | .lane => 0x2E4
  | .tlane => 0x2E5
  | .width => 0x2E6
  | .core => 0x2E7
  | .groupix => 0x2E8
  | .imm => 0x2F0
  | .zero => 0x2F1
  | .res c => c

/-- The operand lies in its level (R20). -/
def Opnd.wf : Opnd → Bool
  | .v i => i < 608
  | .n i => i < 32
  | .u i => i < 96
  | .b i => i < 4
  | .res c => (0x2E9 ≤ c && c < 0x2F0) || (0x2F2 ≤ c && c < 0x400)
  | _ => true

/-- DST of a compare (R238). -/
def PDst.wf : PDst → Bool
  | .p _ => true
  | .bad c => 16 ≤ c && c < 0x400

def VArgs.wf (a : VArgs) : Bool := a.dst.wf && a.s1.wf && a.s2.wf && a.s3.wf
def VIArgs.wf (a : VIArgs) : Bool := a.dst.wf && a.s1.wf && a.s2.wf
def VFArgs.wf (a : VFArgs) : Bool := a.dst.wf && a.s1.wf
def CmpArgs.wf (a : CmpArgs) : Bool := a.pd.wf && a.s1.wf && a.s2.wf
def CmpIArgs.wf (a : CmpIArgs) : Bool := a.pd.wf && a.s1.wf
def MArgs.wf (a : MArgs) : Bool := a.data.wf && a.index.wf
def LdcArgs.wf (a : LdcArgs) : Bool :=
  (match a.data with | .quad o => o.wf | .creg _ => true) && a.index.wf
def AtomArgs.wf (a : AtomArgs) : Bool := a.dst.wf && a.index.wf && a.data.wf
def RedArgs.wf (a : RedArgs) : Bool := a.index.wf && a.data.wf
def CasArgs.wf (a : CasArgs) : Bool := a.dst.wf && a.index.wf && a.data.wf
def QArgs.wf (a : QArgs) : Bool := a.data.wf && a.aux.wf
def CmovForm.wf : CmovForm → Bool
  | .cc _ _ => true
  | .cq _ q => q.wf
  | .qc q _ => q.wf
def TArgs.wf (a : TArgs) : Bool := a.data.wf && a.row.wf
def MmaArgs.wf (a : MmaArgs) : Bool := a.gamma.wf && a.coord.wf
def CpArgs.wf (a : CpArgs) : Bool := a.sidx.wf && a.didx.wf

/-- Every operand of the instruction lies in its level. Events have no encoding, so nothing is asked
of them. -/
def Instr.wf : Instr → Bool
  | .brx t => t.wf
  | .ret l => l.wf
  | .fspawn a => a.base.wf
  | .kmov a | .kadd a | .ksub a | .kmul a | .kmulh a | .kand a | .kor a | .kxor a | .kshl a
  | .kshr a | .ksar a | .kmin a | .kmax a | .ksel a | .kbfe a | .kpopc a | .kclz a
  | .mov a | .add a | .sub a | .mul a | .mulh a | .mad a | .min a | .max a | .abs a | .neg a
  | .and a | .or a | .xor a | .not a | .shl a | .shr a | .sar a | .bfe a | .bfi a | .popc a
  | .clz a | .brev a | .sel a | .addc a | .dot4 a | .cmul a | .cmac a
  | .fadd a | .fsub a | .fmul a | .fma a | .fmin a | .fmax a | .frcp a | .frsq a | .fsqrt a
  | .fexp2 a | .flog2 a | .fsin a | .fcos a | .frnd a | .fclass a | .fscale a | .fdot2 a
  | .fcmul a | .cvt a | .cvtpk a | .unpk a | .tagset a | .tagget a | .shfl a | .bcast a
  | .vred a | .vscan a => a.wf
  | .kaddImm a | .ksubImm a | .kmulImm a | .kmulhImm a | .kandImm a | .korImm a | .kxorImm a
  | .kshlImm a | .kshrImm a | .ksarImm a | .kminImm a | .kmaxImm a | .kbfeImm a
  | .movImm a | .addImm a | .subImm a | .mulImm a | .mulhImm a | .madImm a | .minImm a
  | .maxImm a | .andImm a | .orImm a | .xorImm a | .shlImm a | .shrImm a | .sarImm a
  | .bfeImm a | .bfiImm a | .addcImm a | .dot4Imm a | .faddImm a | .fsubImm a | .fmulImm a
  | .fmaImm a | .fminImm a | .fmaxImm a | .fscaleImm a | .fdot2Imm a => a.wf
  | .kselImm a | .selImm a => a.wf
  | .kcmp a | .cmp a | .fcmp a => a.wf
  | .kcmpImm a | .cmpImm a | .fcmpImm a => a.wf
  | .kli a | .ctrrd a | .srd a => a.dst.wf
  | .swr a | .tlbinv a => a.src.wf
  | .tstamp _ d => d.wf
  | .pand a | .por a | .pxor a | .pnot a | .pmov a | .pvote a | .pfirst a | .pmask a => a.reg.wf
  | .kld a | .kst a | .ld a | .st a | .pf a | .cwb a | .cinv a => a.wf
  | .ldc a | .stc a => a.wf
  | .shpld a => a.index.wf
  | .errinj a => a.index.wf
  | .accrd a | .accwr a => a.wf
  | .cbnd a => a.base.wf && a.len.wf
  | .cadr a | .cinc a | .cprm a => a.s1.wf
  | .cget a => a.dst.wf
  | .ctst a => a.dst.wf && a.x.wf
  | .cmov f => f.wf
  | .atom a => a.wf
  | .red a => a.wf
  | .cas a => a.wf
  | .bar a | .barv a => a.count.wf
  | .qenq a | .qdeq a | .qrsv a | .qcmt a | .qtake a | .qdone a | .qinit a | .qstat a
  | .qclose a => a.wf
  | .cp a => a.wf
  | .cpt a => a.coord.wf
  | .loop a => a.count.wf
  | .mma a | .mconv a => a.wf
  | .nop | .pb _ | .bra _ | .call _ | .strand _ | .activeSetEntry _ | .rcv | .rcvTimeout _ _
  | .yield | .yieldExpiry _ _ | .pause _ | .pauseExpiry _ _ | .fend | .exit | .trap _ | .brk | .rte
  | .fence _ | .barw _ | .gbar | .queueRetry _ _ | .seal | .wait _ | .stoke _ | .sfin
  | .sleep _ | .sleepExpiry _ _ | .eviction _ | .loadComplete _ _ | .fifoDrain _ | .l1Eviction _ _
  | .copyComplete _ _ | .matrixCommandComplete _ | .parityUpdate _ _ | .bankRetire _ _
  | .folioRefreshWindow _ _ | .groupEnd _ | .gridComplete _ | .teamKill _ | .invreq _ _
  | .invalidationComplete _ | .pgresume _ _ | .feedtail _ _ | .launch _ | .feed _ | .folio _
  | .folioWriteComplete _ _ | .marker _ | .markerComplete _ _ | .launchTake _ | .teamPlacement _ _
  | .sliceExpiry _ | .preemptRequest _ | .preemptCut _ | .saveImage _ | .watchdogEscalation _
  | .contextRestore _ _ | .queueRung _ _ | .contextRung _ _ | .engineRung _ _ | .partitionRung _
  | .deviceRung | .rungTimeout _ | .resetreqQueue _ _ | .resetreqContext _ _ | .resetreqEngine _ _
  | .resetreqPartition _ _ | .energyLoRead _ | .registerWrite _ _ _ | .hostMemoryRead _ _ _
  | .hostMemoryWrite _ _ | .hostAtomicOp _ _ _ _ _ | .peerRequest _ _ | .portDown _ | .portUp _
  | .damperInterval _ _ | .laneRatioStallEnd _ | .droopAlarm _ | .stretchEnd _ | .halvedEnd _
  | .slackRound _ | .slackReport _ _ _ | .ptmMeasurement _ | .ppsPulse | .timeOfDayMessage _
  | .patrolScrub _ _ | .clerkRestart _ | .status | .reset _ _ _ | .log | .map _ | .update _
  | .spdmVersion | .spdmCapabilities | .spdmAlgorithms | .spdmCertificates _ | .spdmChallenge _
  | .spdmMeasurements _ | .pageWalkComplete _ _ | .accessPerformed _ _ | .timeSourceLoss
  | .partitionConfiguration _ _ | .unallocatedOpcode _ => true

end Sys2Proof
end

