-- ==== Sys2Proof/Decode.lean ====
section
/-! DEFINITION. Decoding of instruction words, and the encoder after it (R236 to R259). A format is a
list of field widths from bit 0 up to bit 53; the opcode stands in bits 63:54 (R236). -/

namespace Sys2Proof

/-! ## Splitting and packing fields -/

/-- The fields of `n`, of the given widths, least significant first. -/
def split : List Nat → Nat → List Nat
  | [], _ => []
  | w :: ws, n => n % 2 ^ w :: split ws (n / 2 ^ w)

/-- The number whose fields of the given widths are the given values, least significant first. -/
def pack : List Nat → List Nat → Nat
  | w :: ws, v :: vs => v + 2 ^ w * pack ws vs
  | _, _ => 0

/-- An instruction word from its opcode and its bits 53:0. -/
def word (op body : Nat) : Dword := BitVec.ofNat 64 (op * 2 ^ 54 + body)

/-- Bits 63:54 (R236). -/
def opcodeOf (w : Dword) : Nat := w.toNat / 2 ^ 54

/-! ## Field codes -/

/-- The operand that a 10-bit code names (R20). -/
def Opnd.ofCode (c : Nat) : Opnd :=
  if c < 0x260 then .v c
  else if c < 0x280 then .n (c - 0x260)
  else if c < 0x2E0 then .u (c - 0x280)
  else if c < 0x2E4 then .b (c - 0x2E0)
  else if c = 0x2E4 then .lane
  else if c = 0x2E5 then .tlane
  else if c = 0x2E6 then .width
  else if c = 0x2E7 then .core
  else if c = 0x2E8 then .groupix
  else if c = 0x2F0 then .imm
  else if c = 0x2F1 then .zero
  else .res c

def PDst.ofCode (c : Nat) : PDst := if c < 16 then .p (BitVec.ofNat 4 c) else .bad c

def PDst.code : PDst → Nat
  | .p i => i.toNat
  | .bad c => c

/-- Type codes (R46). -/
def Ty.code : Ty → Nat
  | .b32 => 0 | .s32 => 1 | .n32 => 2 | .f32 => 3 | .f16 => 4 | .bf16 => 5 | .e4m3 => 6
  | .e5m2 => 7 | .l6 => 8 | .s16 => 9 | .n16 => 10 | .s8 => 11 | .n8 => 12 | .s64 => 13
  | .n64 => 14 | .b64 => 15

def Ty.ofCode : Nat → Ty
  | 0 => .b32 | 1 => .s32 | 2 => .n32 | 3 => .f32 | 4 => .f16 | 5 => .bf16 | 6 => .e4m3
  | 7 => .e5m2 | 8 => .l6 | 9 => .s16 | 10 => .n16 | 11 => .s8 | 12 => .n8 | 13 => .s64
  | 14 => .n64 | _ => .b64

/-- Rounding codes (R53). -/
def Rnd.code : Rnd → Nat
  | .rne => 0 | .rz => 1 | .ru => 2 | .rd => 3

def Rnd.ofCode : Nat → Rnd
  | 0 => .rne | 1 => .rz | 2 => .ru | _ => .rd

/-- Scope codes (R142); 6 and 7 are reserved. -/
def Scope.code : Scope → Nat
  | .grp => 0 | .core => 1 | .clu => 2 | .die => 3 | .dev => 4 | .sys => 5

def Scope.ofCode : Nat → Option Scope
  | 0 => some .grp | 1 => some .core | 2 => some .clu | 3 => some .die | 4 => some .dev
  | 5 => some .sys | _ => none

/-- Order codes (R143): bit 0 acquires, bit 1 releases. -/
def Order.code : Order → Nat
  | .relaxed => 0 | .acq => 1 | .rel => 2 | .acqRel => 3

def Order.ofCode : Nat → Order
  | 0 => .relaxed | 1 => .acq | 2 => .rel | _ => .acqRel

/-- Cache codes (R105). -/
def Cache.code : Cache → Nat
  | .dflt => 0 | .stream => 1 | .keep => 2 | .home => 3

def Cache.ofCode : Nat → Cache
  | 0 => .dflt | 1 => .stream | 2 => .keep | _ => .home

/-- Compare codes (R255). -/
def CmpCode.code : CmpCode → Nat
  | .eq => 0 | .ne => 1 | .lt => 2 | .le => 3 | .gt => 4 | .ge => 5 | .un => 6 | .ord => 7

def CmpCode.ofCode : Nat → Option CmpCode
  | 0 => some .eq | 1 => some .ne | 2 => some .lt | 3 => some .le | 4 => some .gt
  | 5 => some .ge | 6 => some .un | 7 => some .ord | _ => none

/-- Atomic operation codes (R255). -/
def AtomOp.code : AtomOp → Nat
  | .add => 0 | .min => 1 | .max => 2 | .and => 3 | .or => 4 | .xor => 5 | .xchg => 6 | .inc => 7
  | .fadd => 8 | .fmin => 9 | .fmax => 10

def AtomOp.ofCode : Nat → Option AtomOp
  | 0 => some .add | 1 => some .min | 2 => some .max | 3 => some .and | 4 => some .or
  | 5 => some .xor | 6 => some .xchg | 7 => some .inc | 8 => some .fadd | 9 => some .fmin
  | 10 => some .fmax | _ => none

/-- Engine class codes (R208). -/
def EngClass.code : EngClass → Nat
  | .vm => 0 | .ci => 1 | .co => 2 | .mx => 3 | .fx => 4

def EngClass.ofCode : Nat → Option EngClass
  | 0 => some .vm | 1 => some .ci | 2 => some .co | 3 => some .mx | 4 => some .fx | _ => none

/-- MODE codes of the X format (R252). -/
def MMode.code : MMode → Nat
  | .ovr => 0 | .acc => 1 | .sacc => 2 | .res3 => 3

def MMode.ofCode : Nat → MMode
  | 0 => .ovr | 1 => .acc | 2 => .sacc | _ => .res3

def ErrKind.code : ErrKind → Nat
  | .ue => 0 | .ce => 1

def CopyDir.code : CopyDir → Nat
  | .into => 0 | .out => 1

def CopyDir.ofCode : Nat → CopyDir
  | 0 => .into | _ => .out

def CopySize.code : CopySize → Nat
  | .b4 => 0 | .b8 => 1 | .b16 => 2

def CopySize.ofCode : Nat → Option CopySize
  | 0 => some .b4 | 1 => some .b8 | 2 => some .b16 | _ => none

/-- W is set exactly when DST holds the code of b0 (R22, R237). -/
def wBit (dst : Nat) : Nat := if dst = 0x2E0 then 1 else 0

/-! ## Formats -/

/-- V (R239): S3, S2, S1, DST, FUNC, NEG2, NEG1, SAT, ROUND, W, TYPE. -/
def vFmt : List Nat := [10, 10, 10, 10, 4, 1, 1, 1, 2, 1, 4]
/-- VI (R240): IMM, S2, S1, DST, SAT, ROUND, W, TYPE. -/
def viFmt : List Nat := [16, 10, 10, 10, 1, 2, 1, 4]
/-- M (R241): IMM, SHIFT, INDEX, DATA, CAP, ORDER, CACHE, SCOPE, TYPE. -/
def mFmt : List Nat := [16, 3, 10, 10, 4, 2, 2, 3, 4]
/-- A (R242): IMM7, ORDER, DATA, INDEX, DST, CAP, OP, SCOPE, TYPE. -/
def aFmt : List Nat := [7, 2, 10, 10, 10, 4, 4, 3, 4]
/-- Q (R171): reserved, aux, status, data, cap, block, scope, esize. -/
def qFmt : List Nat := [18, 10, 4, 10, 4, 1, 3, 4]
/-- K (R243): reserved, S2, S1, DST, CSRC, CDST, QS, QD, SEL. -/
def kFmt : List Nat := [10, 10, 10, 10, 4, 4, 1, 1, 4]
/-- T (R244): reserved, COLBLK, ROW, DATA, TILE, reserved, TYPE. -/
def tFmt : List Nat := [17, 3, 10, 10, 6, 4, 4]
/-- `bra` (R245): offset, reserved, unconditional, negate, predicate. -/
def cbraFmt : List Nat := [44, 4, 1, 1, 4]
/-- `call` (R245): offset, frame rows. -/
def ccallFmt : List Nat := [44, 10]
/-- `stoke` (R245): offset, reserved. -/
def cstokeFmt : List Nat := [44, 10]
/-- `fspawn` (R245): offset, base operand, status predicate. -/
def cspawnFmt : List Nat := [40, 10, 4]
/-- `brx` and `ret` (R245): reserved, operand, reserved. -/
def cregFmt : List Nat := [30, 10, 14]
/-- J (R246): IMM, reserved. -/
def jFmt : List Nat := [16, 38]
/-- H (R247): reserved, PMASK, KHI, KLO, VHI, VLO. -/
def hFmt : List Nat := [4, 16, 7, 7, 10, 10]
/-- P (R248): reserved, PATTERN, COUNT, COMP, PRED. -/
def pFmt : List Nat := [38, 8, 3, 1, 4]
/-- G (R250): reserved, REG, FUNC, NG2, NG1, PS2, PS1, PD. -/
def gFmt : List Nat := [26, 10, 4, 1, 1, 4, 4, 4]
/-- B (R251): reserved, COUNT, reserved, SCOPE, ID. -/
def bFmt : List Nat := [30, 10, 7, 3, 4]
/-- X (R252): reserved, TB, TA, COORD, GAMMA, BSLOT, ASLOT, CAUSAL, MODE, TILE. -/
def xFmt : List Nat := [15, 1, 1, 10, 10, 4, 4, 1, 2, 6]
/-- Y (R253): DOFF, SOFF, DIDX, SIDX, DCAP, SCAP, SCOPE, SIZE, DIR. -/
def yFmt : List Nat := [10, 10, 10, 10, 4, 4, 3, 2, 1]
/-- E (R254): reserved, THRESH, CLASS. -/
def eFmt : List Nat := [45, 6, 3]
/-- L (R254): reserved, BODY, COUNT, LEVEL. -/
def lFmt : List Nat := [30, 12, 10, 2]

/-! ## Records from fields, and back. `none` says that a reserved field is not zero or holds a code
that the tables mark reserved (R237). -/

def ofVArgs : List Nat → Option VArgs
  | [s3, s2, s1, dst, fn, n2, n1, sat, rnd, w, ty] =>
    if w = wBit dst then
      some { ty := .ofCode ty, rnd := .ofCode rnd, sat := sat == 1, neg1 := n1 == 1, neg2 := n2 == 1,
             func := .ofNat 4 fn, dst := .ofCode dst, s1 := .ofCode s1, s2 := .ofCode s2,
             s3 := .ofCode s3 }
    else none
  | _ => none

def fieldsVArgs (a : VArgs) : List Nat :=
  [a.s3.code, a.s2.code, a.s1.code, a.dst.code, a.func.toNat, a.neg2.toNat, a.neg1.toNat,
   a.sat.toNat, a.rnd.code, wBit a.dst.code, a.ty.code]

def ofVIArgs : List Nat → Option VIArgs
  | [imm, s2, s1, dst, sat, rnd, w, ty] =>
    if w = wBit dst then
      some { ty := .ofCode ty, rnd := .ofCode rnd, sat := sat == 1, dst := .ofCode dst,
             s1 := .ofCode s1, s2 := .ofCode s2, imm := .ofNat 16 imm }
    else none
  | _ => none

def fieldsVIArgs (a : VIArgs) : List Nat :=
  [a.imm.toNat, a.s2.code, a.s1.code, a.dst.code, a.sat.toNat, a.rnd.code, wBit a.dst.code,
   a.ty.code]

/-- `sel` and `ksel` in VI: the function code stands in S2 bits 19:16, the rest of S2 is zero. -/
def ofVFArgs : List Nat → Option VFArgs
  | [imm, fn, s1, dst, sat, rnd, w, ty] =>
    if w = wBit dst ∧ fn < 16 then
      some { ty := .ofCode ty, rnd := .ofCode rnd, sat := sat == 1, dst := .ofCode dst,
             s1 := .ofCode s1, fn := .ofNat 4 fn, imm := .ofNat 16 imm }
    else none
  | _ => none

def fieldsVFArgs (a : VFArgs) : List Nat :=
  [a.imm.toNat, a.fn.toNat, a.s1.code, a.dst.code, a.sat.toNat, a.rnd.code, wBit a.dst.code,
   a.ty.code]

/-- Compares in V: S3, ROUND and SAT are reserved, FUNC is the compare code. -/
def ofCmpArgs : List Nat → Option CmpArgs
  | [s3, s2, s1, dst, fn, n2, n1, sat, rnd, w, ty] =>
    if w = wBit dst ∧ s3 = 0 ∧ sat = 0 ∧ rnd = 0 then
      (CmpCode.ofCode fn).map fun cc =>
        { ty := .ofCode ty, cc, neg1 := n1 == 1, neg2 := n2 == 1, pd := .ofCode dst,
          s1 := .ofCode s1, s2 := .ofCode s2 }
    else none
  | _ => none

def fieldsCmpArgs (a : CmpArgs) : List Nat :=
  [0, a.s2.code, a.s1.code, a.pd.code, a.cc.code, a.neg2.toNat, a.neg1.toNat, 0, 0,
   wBit a.pd.code, a.ty.code]

def ofCmpIArgs : List Nat → Option CmpIArgs
  | [imm, fn, s1, dst, sat, rnd, w, ty] =>
    if w = wBit dst ∧ sat = 0 ∧ rnd = 0 then
      (CmpCode.ofCode fn).map fun cc =>
        { ty := .ofCode ty, cc, pd := .ofCode dst, s1 := .ofCode s1, imm := .ofNat 16 imm }
    else none
  | _ => none

def fieldsCmpIArgs (a : CmpIArgs) : List Nat :=
  [a.imm.toNat, a.cc.code, a.s1.code, a.pd.code, 0, 0, wBit a.pd.code, a.ty.code]

/-- `kli`, `ctrrd` and `srd`: S1, S2, SAT and ROUND are reserved. -/
def ofDImmArgs : List Nat → Option DImmArgs
  | [imm, s2, s1, dst, sat, rnd, w, ty] =>
    if w = wBit dst ∧ s2 = 0 ∧ s1 = 0 ∧ sat = 0 ∧ rnd = 0 then
      some { ty := .ofCode ty, dst := .ofCode dst, imm := .ofNat 16 imm }
    else none
  | _ => none

def fieldsDImmArgs (a : DImmArgs) : List Nat :=
  [a.imm.toNat, 0, 0, a.dst.code, 0, 0, wBit a.dst.code, a.ty.code]

/-- `swr` and `tlbinv`: DST, S2, SAT, ROUND and W are reserved. -/
def ofSImmArgs : List Nat → Option SImmArgs
  | [imm, s2, s1, dst, sat, rnd, w, ty] =>
    if w = 0 ∧ s2 = 0 ∧ dst = 0 ∧ sat = 0 ∧ rnd = 0 then
      some { ty := .ofCode ty, src := .ofCode s1, imm := .ofNat 16 imm }
    else none
  | _ => none

def fieldsSImmArgs (a : SImmArgs) : List Nat :=
  [a.imm.toNat, 0, a.src.code, 0, 0, 0, 0, a.ty.code]

/-- `tstamp` (R359): every field but TYPE and DST is reserved. -/
def ofTstamp : List Nat → Option (Ty × Opnd)
  | [s3, s2, s1, dst, fn, n2, n1, sat, rnd, w, ty] =>
    if s3 = 0 ∧ s2 = 0 ∧ s1 = 0 ∧ fn = 0 ∧ n2 = 0 ∧ n1 = 0 ∧ sat = 0 ∧ rnd = 0 ∧ w = 0 ∧
        dst ≠ 0x2E0 then
      some (.ofCode ty, .ofCode dst)
    else none
  | _ => none

def fieldsTstamp (p : Ty × Opnd) : List Nat := [0, 0, 0, p.2.code, 0, 0, 0, 0, 0, 0, p.1.code]

def ofGArgs : List Nat → Option GArgs
  | [r, reg, fn, g2, g1, p2, p1, pd] =>
    if r = 0 then
      some { pd := .ofNat 4 pd, ps1 := .ofNat 4 p1, ps2 := .ofNat 4 p2, ng1 := g1 == 1,
             ng2 := g2 == 1, func := .ofNat 4 fn, reg := .ofCode reg }
    else none
  | _ => none

def fieldsGArgs (a : GArgs) : List Nat :=
  [0, a.reg.code, a.func.toNat, a.ng2.toNat, a.ng1.toNat, a.ps2.toNat, a.ps1.toNat, a.pd.toNat]

def ofMArgs : List Nat → Option MArgs
  | [imm, sh, index, data, cap, order, cache, scope, ty] =>
    (Scope.ofCode scope).map fun sc =>
      { ty := .ofCode ty, scope := sc, cache := .ofCode cache, order := .ofCode order,
        cap := .ofNat 4 cap, data := .ofCode data, index := .ofCode index, shift := .ofNat 3 sh,
        imm := .ofNat 16 imm }
  | _ => none

def fieldsMArgs (a : MArgs) : List Nat :=
  [a.imm.toNat, a.shift.toNat, a.index.code, a.data.code, a.cap.toNat, a.order.code, a.cache.code,
   a.scope.code, a.ty.code]

/-- `ldc` and `stc` (R241): TYPE 0 names a quad, TYPE 1 a c register in DATA bits 3:0. -/
def ofLdcArgs : List Nat → Option LdcArgs
  | [imm, sh, index, data, cap, order, cache, scope, ty] =>
    if ty = 0 ∨ (ty = 1 ∧ data < 16) then
      (Scope.ofCode scope).map fun sc =>
        { scope := sc, cache := .ofCode cache, order := .ofCode order, cap := .ofNat 4 cap,
          data := if ty = 0 then .quad (.ofCode data) else .creg (.ofNat 4 data),
          index := .ofCode index, shift := .ofNat 3 sh, imm := .ofNat 16 imm }
    else none
  | _ => none

def fieldsLdcArgs (a : LdcArgs) : List Nat :=
  [a.imm.toNat, a.shift.toNat, a.index.code,
   (match a.data with | .quad o => o.code | .creg i => i.toNat), a.cap.toNat, a.order.code,
   a.cache.code, a.scope.code, (match a.data with | .quad _ => 0 | .creg _ => 1)]

/-- `shpld` (R241, R258): DATA holds the slot, TYPE, SCOPE, CACHE and ORDER are reserved. -/
def ofShpldArgs : List Nat → Option ShpldArgs
  | [imm, sh, index, data, cap, order, cache, scope, ty] =>
    if data < 16 ∧ order = 0 ∧ cache = 0 ∧ scope = 0 ∧ ty = 0 then
      some { slot := .ofNat 4 data, cap := .ofNat 4 cap, index := .ofCode index,
             shift := .ofNat 3 sh, imm := .ofNat 16 imm }
    else none
  | _ => none

def fieldsShpldArgs (a : ShpldArgs) : List Nat :=
  [a.imm.toNat, a.shift.toNat, a.index.code, a.slot.toNat, a.cap.toNat, 0, 0, 0, 0]

/-- `errinj` (R364): TYPE selects the kind, DATA, SCOPE, CACHE and ORDER are reserved. -/
def ofErrinjArgs : List Nat → Option ErrinjArgs
  | [imm, sh, index, data, cap, order, cache, scope, ty] =>
    if data = 0 ∧ order = 0 ∧ cache = 0 ∧ scope = 0 ∧ ty < 2 then
      some { kind := if ty = 0 then .ue else .ce, cap := .ofNat 4 cap, index := .ofCode index,
             shift := .ofNat 3 sh, imm := .ofNat 16 imm }
    else none
  | _ => none

def fieldsErrinjArgs (a : ErrinjArgs) : List Nat :=
  [a.imm.toNat, a.shift.toNat, a.index.code, 0, a.cap.toNat, 0, 0, 0, a.kind.code]

def ofAtomArgs : List Nat → Option AtomArgs
  | [imm7, order, data, index, dst, cap, op, scope, ty] =>
    match Scope.ofCode scope, AtomOp.ofCode op with
    | some sc, some o =>
      some { ty := .ofCode ty, scope := sc, op := o, cap := .ofNat 4 cap, dst := .ofCode dst,
             index := .ofCode index, data := .ofCode data, order := .ofCode order,
             imm7 := .ofNat 7 imm7 }
    | _, _ => none
  | _ => none

def fieldsAtomArgs (a : AtomArgs) : List Nat :=
  [a.imm7.toNat, a.order.code, a.data.code, a.index.code, a.dst.code, a.cap.toNat, a.op.code,
   a.scope.code, a.ty.code]

/-- `red` (R242): DST is reserved. -/
def ofRedArgs : List Nat → Option RedArgs
  | [imm7, order, data, index, dst, cap, op, scope, ty] =>
    match Scope.ofCode scope, AtomOp.ofCode op with
    | some sc, some o =>
      if dst = 0 then
        some { ty := .ofCode ty, scope := sc, op := o, cap := .ofNat 4 cap, index := .ofCode index,
               data := .ofCode data, order := .ofCode order, imm7 := .ofNat 7 imm7 }
      else none
    | _, _ => none
  | _ => none

def fieldsRedArgs (a : RedArgs) : List Nat :=
  [a.imm7.toNat, a.order.code, a.data.code, a.index.code, 0, a.cap.toNat, a.op.code,
   a.scope.code, a.ty.code]

/-- `cas` (R242): OP is reserved. -/
def ofCasArgs : List Nat → Option CasArgs
  | [imm7, order, data, index, dst, cap, op, scope, ty] =>
    if op = 0 then
      (Scope.ofCode scope).map fun sc =>
        { ty := .ofCode ty, scope := sc, cap := .ofNat 4 cap, dst := .ofCode dst,
          index := .ofCode index, data := .ofCode data, order := .ofCode order,
          imm7 := .ofNat 7 imm7 }
    else none
  | _ => none

def fieldsCasArgs (a : CasArgs) : List Nat :=
  [a.imm7.toNat, a.order.code, a.data.code, a.index.code, a.dst.code, a.cap.toNat, 0,
   a.scope.code, a.ty.code]

def ofQArgs : List Nat → Option QArgs
  | [r, aux, status, data, cap, blk, scope, esize] =>
    if r = 0 then
      (Scope.ofCode scope).map fun sc =>
        { esize := .ofNat 4 esize, scope := sc, blk := blk == 1, cap := .ofNat 4 cap,
          data := .ofCode data, status := .ofNat 4 status, aux := .ofCode aux }
    else none
  | _ => none

def fieldsQArgs (a : QArgs) : List Nat :=
  [0, a.aux.code, a.status.toNat, a.data.code, a.cap.toNat, a.blk.toNat, a.scope.code,
   a.esize.toNat]

def ofCbndArgs : List Nat → Option CbndArgs
  | [r, s2, s1, dst, cs, cd, qs, qd, sel] =>
    if r = 0 ∧ dst = 0 ∧ qs = 0 ∧ qd = 0 ∧ sel = 0 then
      some { cd := .ofNat 4 cd, cs := .ofNat 4 cs, base := .ofCode s1, len := .ofCode s2 }
    else none
  | _ => none

def fieldsCbndArgs (a : CbndArgs) : List Nat :=
  [0, a.len.code, a.base.code, 0, a.cs.toNat, a.cd.toNat, 0, 0, 0]

/-- `cadr`, `cinc` and `cprm` (R328): S2 is reserved. -/
def ofCopArgs : List Nat → Option CopArgs
  | [r, s2, s1, dst, cs, cd, qs, qd, sel] =>
    if r = 0 ∧ s2 = 0 ∧ dst = 0 ∧ qs = 0 ∧ qd = 0 ∧ sel = 0 then
      some { cd := .ofNat 4 cd, cs := .ofNat 4 cs, s1 := .ofCode s1 }
    else none
  | _ => none

def fieldsCopArgs (a : CopArgs) : List Nat :=
  [0, 0, a.s1.code, 0, a.cs.toNat, a.cd.toNat, 0, 0, 0]

def ofCgetArgs : List Nat → Option CgetArgs
  | [r, s2, s1, dst, cs, cd, qs, qd, sel] =>
    if r = 0 ∧ s2 = 0 ∧ s1 = 0 ∧ cd = 0 ∧ qs = 0 ∧ qd = 0 then
      some { sel := .ofNat 4 sel, dst := .ofCode dst, cs := .ofNat 4 cs }
    else none
  | _ => none

def fieldsCgetArgs (a : CgetArgs) : List Nat :=
  [0, 0, 0, a.dst.code, a.cs.toNat, 0, 0, 0, a.sel.toNat]

def ofCtstArgs : List Nat → Option CtstArgs
  | [r, s2, s1, dst, cs, cd, qs, qd, sel] =>
    if r = 0 ∧ s2 = 0 ∧ cd = 0 ∧ qs = 0 ∧ qd = 0 then
      some { sel := .ofNat 4 sel, dst := .ofCode dst, cs := .ofNat 4 cs, x := .ofCode s1 }
    else none
  | _ => none

def fieldsCtstArgs (a : CtstArgs) : List Nat :=
  [0, 0, a.x.code, a.dst.code, a.cs.toNat, 0, 0, 0, a.sel.toNat]

/-- `cmov` (R329, R243): fields that a form does not use are reserved, and so is QD with QS. -/
def ofCmovForm : List Nat → Option CmovForm
  | [r, s2, s1, dst, cs, cd, qs, qd, sel] =>
    if r = 0 ∧ s2 = 0 ∧ sel = 0 then
      if qd = 0 ∧ qs = 0 ∧ dst = 0 ∧ s1 = 0 then some (.cc (.ofNat 4 cd) (.ofNat 4 cs))
      else if qd = 0 ∧ qs = 1 ∧ dst = 0 ∧ cs = 0 then some (.cq (.ofNat 4 cd) (.ofCode s1))
      else if qd = 1 ∧ qs = 0 ∧ cd = 0 ∧ s1 = 0 then some (.qc (.ofCode dst) (.ofNat 4 cs))
      else none
    else none
  | _ => none

def fieldsCmovForm : CmovForm → List Nat
  | .cc cd cs => [0, 0, 0, 0, cs.toNat, cd.toNat, 0, 0, 0]
  | .cq cd q => [0, 0, q.code, 0, 0, cd.toNat, 1, 0, 0]
  | .qc q cs => [0, 0, 0, q.code, cs.toNat, 0, 0, 1, 0]

def ofTArgs : List Nat → Option TArgs
  | [r, colblk, row, data, tile, r2, ty] =>
    if r = 0 ∧ r2 = 0 then
      some { ty := .ofCode ty, tile := .ofNat 6 tile, data := .ofCode data, row := .ofCode row,
             colblk := .ofNat 3 colblk }
    else none
  | _ => none

def fieldsTArgs (a : TArgs) : List Nat :=
  [0, a.colblk.toNat, a.row.code, a.data.code, a.tile.toNat, 0, a.ty.code]

/-- `bra` (R245): with the unconditional bit set, predicate and negate are reserved. -/
def ofBraArgs : List Nat → Option BraArgs
  | [off, r, unc, neg, p] =>
    if r = 0 then
      if unc = 1 then
        if p = 0 ∧ neg = 0 then some { cond := none, off := .ofNat 44 off } else none
      else some { cond := some (.ofNat 4 p, neg == 1), off := .ofNat 44 off }
    else none
  | _ => none

def fieldsBraArgs (a : BraArgs) : List Nat :=
  match a.cond with
  | none => [a.off.toNat, 0, 1, 0, 0]
  | some (p, neg) => [a.off.toNat, 0, 0, neg.toNat, p.toNat]

def ofOpnd : List Nat → Option Opnd
  | [r, o, r2] => if r = 0 ∧ r2 = 0 then some (.ofCode o) else none
  | _ => none

def fieldsOpnd (o : Opnd) : List Nat := [0, o.code, 0]

def ofCallArgs : List Nat → Option CallArgs
  | [off, frame] => some { frame := .ofNat 10 frame, off := .ofNat 44 off }
  | _ => none

def fieldsCallArgs (a : CallArgs) : List Nat := [a.off.toNat, a.frame.toNat]

def ofOff : List Nat → Option (BitVec 44)
  | [off, r] => if r = 0 then some (.ofNat 44 off) else none
  | _ => none

def fieldsOff (o : BitVec 44) : List Nat := [o.toNat, 0]

def ofFspawnArgs : List Nat → Option FspawnArgs
  | [off, base, p] => some { status := .ofNat 4 p, base := .ofCode base, off := .ofNat 40 off }
  | _ => none

def fieldsFspawnArgs (a : FspawnArgs) : List Nat := [a.off.toNat, a.base.code, a.status.toNat]

def ofCnt : List Nat → Option (BitVec 16)
  | [n, r] => if r = 0 then some (.ofNat 16 n) else none
  | _ => none

def fieldsCnt (n : BitVec 16) : List Nat := [n.toNat, 0]

def ofStrandArgs : List Nat → Option StrandArgs
  | [r, pm, khi, klo, vhi, vlo] =>
    if r = 0 then
      some { vlo := .ofNat 10 vlo, vhi := .ofNat 10 vhi, klo := .ofNat 7 klo, khi := .ofNat 7 khi,
             pmask := .ofNat 16 pm }
    else none
  | _ => none

def fieldsStrandArgs (a : StrandArgs) : List Nat :=
  [0, a.pmask.toNat, a.khi.toNat, a.klo.toNat, a.vhi.toNat, a.vlo.toNat]

/-- `pb` (R248): PATTERN bits at or above COUNT + 1 are reserved. -/
def ofPbArgs : List Nat → Option PbArgs
  | [r, pat, cnt, comp, p] =>
    if r = 0 then
      some { pred := .ofNat 4 p, comp := comp == 1, count := .ofNat 3 cnt, pattern := .ofNat 8 pat }
    else none
  | _ => none

def fieldsPbArgs (a : PbArgs) : List Nat :=
  [0, a.pattern.toNat, a.count.toNat, a.comp.toNat, a.pred.toNat]

def ofFence : List Nat → Option Scope
  | [r, count, r2, scope, id] =>
    if r = 0 ∧ count = 0 ∧ r2 = 0 ∧ id = 0 then Scope.ofCode scope else none
  | _ => none

def fieldsFence (s : Scope) : List Nat := [0, 0, 0, s.code, 0]

def ofBarArgs : List Nat → Option BarArgs
  | [r, count, r2, scope, id] =>
    if r = 0 ∧ r2 = 0 ∧ scope = 0 then some { id := .ofNat 4 id, count := .ofCode count } else none
  | _ => none

def fieldsBarArgs (a : BarArgs) : List Nat := [0, a.count.code, 0, 0, a.id.toNat]

def ofBarw : List Nat → Option (BitVec 4)
  | [r, count, r2, scope, id] =>
    if r = 0 ∧ count = 0 ∧ r2 = 0 ∧ scope = 0 then some (.ofNat 4 id) else none
  | _ => none

def fieldsBarw (id : BitVec 4) : List Nat := [0, 0, 0, 0, id.toNat]

def ofMmaArgs : List Nat → Option MmaArgs
  | [r, tb, ta, coord, gamma, bs, as, causal, mode, tile] =>
    if r = 0 then
      some { tile := .ofNat 6 tile, mode := .ofCode mode, causal := causal == 1,
             aslot := .ofNat 4 as, bslot := .ofNat 4 bs, gamma := .ofCode gamma,
             coord := .ofCode coord, ta := ta == 1, tb := tb == 1 }
    else none
  | _ => none

def fieldsMmaArgs (a : MmaArgs) : List Nat :=
  [0, a.tb.toNat, a.ta.toNat, a.coord.code, a.gamma.code, a.bslot.toNat, a.aslot.toNat,
   a.causal.toNat, a.mode.code, a.tile.toNat]

def ofCpArgs : List Nat → Option CpArgs
  | [doff, soff, didx, sidx, dcap, scap, scope, size, dir] =>
    match Scope.ofCode scope, CopySize.ofCode size with
    | some sc, some sz =>
      some { dir := .ofCode dir, size := sz, scope := sc, scap := .ofNat 4 scap,
             dcap := .ofNat 4 dcap, sidx := .ofCode sidx, didx := .ofCode didx,
             soff := .ofNat 10 soff, doff := .ofNat 10 doff }
    | _, _ => none
  | _ => none

def fieldsCpArgs (a : CpArgs) : List Nat :=
  [a.doff.toNat, a.soff.toNat, a.didx.code, a.sidx.code, a.dcap.toNat, a.scap.toNat, a.scope.code,
   a.size.code, a.dir.code]

/-- `cpt` (R253, R347): SIZE, DIDX, SOFF and DOFF are reserved, SIDX is COORD. -/
def ofCptArgs : List Nat → Option CptArgs
  | [doff, soff, didx, coord, dst, src, scope, size, dir] =>
    if doff = 0 ∧ soff = 0 ∧ didx = 0 ∧ size = 0 then
      (Scope.ofCode scope).map fun sc =>
        { dir := .ofCode dir, scope := sc, src := .ofNat 4 src, dst := .ofNat 4 dst,
          coord := .ofCode coord }
    else none
  | _ => none

def fieldsCptArgs (a : CptArgs) : List Nat :=
  [0, 0, 0, a.coord.code, a.dst.toNat, a.src.toNat, a.scope.code, 0, a.dir.code]

def ofWaitArgs : List Nat → Option WaitArgs
  | [r, th, cls] =>
    if r = 0 then (EngClass.ofCode cls).map fun c => { cls := c, thresh := .ofNat 6 th } else none
  | _ => none

def fieldsWaitArgs (a : WaitArgs) : List Nat := [0, a.thresh.toNat, a.cls.code]

def ofLoopArgs : List Nat → Option LoopArgs
  | [r, body, count, level] =>
    if r = 0 then
      some { level := .ofNat 2 level, count := .ofCode count, body := .ofNat 12 body }
    else none
  | _ => none

def fieldsLoopArgs (a : LoopArgs) : List Nat := [0, a.body.toNat, a.count.code, a.level.toNat]

/-! ## Which field values an instruction admits -/

/-- Integer types (R295). -/
def intTys : List Ty := [.b32, .s32, .n32, .s16, .n16, .s8, .n8, .s64, .n64, .b64]
/-- Types of class 1 (R281). -/
def uniTys : List Ty := [.b32, .s32, .n32, .s64, .n64, .b64]
/-- Signed and unsigned integer types; the ones that take SAT (R49). -/
def snTys : List Ty := [.s32, .n32, .s16, .n16, .s8, .n8, .s64, .n64]
def sTys : List Ty := [.s32, .s16, .s8, .s64]
def sbTys : List Ty := [.s32, .s16, .s8, .s64, .b32, .b64]
/-- 32-bit and 64-bit integer types. -/
def wholeTys : List Ty := [.b32, .s32, .n32, .s64, .n64, .b64]
/-- Types of class 4 (R302). -/
def fltTys : List Ty := [.f32, .f16, .bf16]
def allTys : List Ty :=
  [.b32, .s32, .n32, .f32, .f16, .bf16, .e4m3, .e5m2, .l6, .s16, .n16, .s8, .n8, .s64, .n64, .b64]

/-- What an instruction of classes 1, 3, 4 and 5 admits: its types, how many sources it has, and
whether ROUND, SAT (for which types), NEG1, NEG2 and FUNC (up to which code) have a meaning, and
whether b0 may be its destination (R239, R293). -/
structure VRule where
  tys   : List Ty
  srcs  : Nat
  rnd   : Bool := false
  sat   : List Ty := []
  neg1  : Bool := false
  neg2  : Bool := false
  func  : Nat := 0
  latch : Bool := true

/-- The V form keeps to the rule; fields without a meaning are zero. -/
def VRule.admits (r : VRule) (a : VArgs) : Bool :=
  r.tys.contains a.ty && (r.rnd || a.rnd == .rne) && (!a.sat || r.sat.contains a.ty)
    && (r.neg1 || !a.neg1) && (r.neg2 || !a.neg2) && a.func.toNat ≤ r.func
    && (1 ≤ r.srcs || a.s1 == .v 0) && (2 ≤ r.srcs || a.s2 == .v 0) && (3 ≤ r.srcs || a.s3 == .v 0)
    && (r.latch || a.dst != .b 0)

/-- The VI form keeps to the rule: IMM stands for the last source (R240). -/
def VRule.admitsImm (r : VRule) (a : VIArgs) : Bool :=
  r.tys.contains a.ty && (r.rnd || a.rnd == .rne) && (!a.sat || r.sat.contains a.ty)
    && (2 ≤ r.srcs || a.s1 == .v 0) && (3 ≤ r.srcs || a.s2 == .v 0)
    && (r.latch || a.dst != .b 0)

/-- `sel` and `ksel` in VI. -/
def VRule.admitsFn (r : VRule) (a : VFArgs) : Bool :=
  r.tys.contains a.ty && a.rnd == .rne && !a.sat && (r.latch || a.dst != .b 0)

/-- Class 1 (R281, R282). -/
def uni1 : VRule := { tys := uniTys, srcs := 1, latch := false }
def uni2 : VRule := { tys := uniTys, srcs := 2, latch := false }
def uni2Sat : VRule := { tys := uniTys, srcs := 2, sat := snTys, latch := false }
def uniMinMax : VRule := { tys := [.s32, .n32, .s64, .n64], srcs := 2, latch := false }
def uniSel : VRule := { tys := uniTys, srcs := 2, func := 15, latch := false }

/-- Class 3 (R295 to R301). -/
def int1 : VRule := { tys := intTys, srcs := 1 }
def int2 : VRule := { tys := intTys, srcs := 2 }
def int2Sat : VRule := { tys := intTys, srcs := 2, sat := snTys }
def ruleMov : VRule := { tys := allTys, srcs := 1 }
def ruleMad : VRule := { tys := intTys, srcs := 3, sat := snTys }
def ruleMinMax : VRule := { tys := snTys, srcs := 2 }
def ruleAbs : VRule := { tys := sTys, srcs := 1, sat := sTys }
def ruleNeg : VRule := { tys := sbTys, srcs := 1, sat := sTys }
def ruleBfe : VRule := { tys := wholeTys, srcs := 2 }
def ruleBfi : VRule := { tys := wholeTys, srcs := 3 }
def ruleSel : VRule := { tys := allTys, srcs := 2, func := 15 }
def ruleAddc : VRule := { tys := [.n32], srcs := 3 }
def ruleDot4 : VRule := { tys := [.s8, .n8], srcs := 3, sat := [.s8, .n8] }
def ruleCmul : VRule := { tys := [.s16], srcs := 2, sat := [.s16], neg2 := true, func := 15 }
def ruleCmac : VRule := { tys := [.s16], srcs := 3, sat := [.s16], neg2 := true, func := 15 }

/-- Class 4 (R302 to R309). -/
def flt2 : VRule := { tys := fltTys, srcs := 2, rnd := true, sat := fltTys, neg1 := true, neg2 := true }
def ruleFma : VRule := { tys := fltTys, srcs := 3, rnd := true, sat := fltTys, neg1 := true, neg2 := true }
def ruleFminmax : VRule := { tys := fltTys, srcs := 2, neg1 := true, neg2 := true }
def ruleApprox : VRule := { tys := fltTys, srcs := 1, sat := fltTys }
def ruleFsqrt : VRule := { tys := fltTys, srcs := 1, rnd := true, sat := fltTys }
def ruleFrnd : VRule := { tys := fltTys, srcs := 1, rnd := true }
def ruleFclass : VRule := { tys := fltTys, srcs := 1 }
/-- `fscale` (R307): ROUND and SAT apply (log 11, DEDUCED). -/
def ruleFscale : VRule := { tys := fltTys, srcs := 2, rnd := true, sat := fltTys }
def ruleFdot2 : VRule :=
  { tys := [.f16, .bf16], srcs := 3, rnd := true, sat := [.f16, .bf16], neg1 := true, neg2 := true }
def ruleFcmul : VRule := { tys := [.f16, .bf16], srcs := 2, rnd := true, sat := [.f16, .bf16], neg2 := true }

/-- Class 5 (R312 to R317). -/
def ruleCvt : VRule := { tys := allTys, srcs := 2, rnd := true, sat := allTys, func := 15 }
def ruleCvtpk : VRule :=
  { tys := [.f16, .bf16, .s16, .n16, .e4m3, .e5m2, .s8, .n8, .l6], srcs := 3, rnd := true,
    sat := allTys, func := 3 }
def ruleUnpk : VRule :=
  { tys := [.s32, .n32, .f32, .f16, .bf16, .e4m3, .e5m2, .s16, .n16, .s8, .n8], srcs := 2,
    rnd := true, sat := allTys, func := 12, latch := false }
def ruleTagset : VRule := { tys := allTys, srcs := 1, func := 1, latch := false }
def ruleTagget : VRule := { tys := [.n32], srcs := 1 }
def ruleShfl : VRule := { tys := allTys, srcs := 2, func := 3 }
def ruleBcast : VRule := { tys := allTys, srcs := 2 }
def ruleVred : VRule := { tys := intTys ++ fltTys, srcs := 1, rnd := true, sat := snTys, func := 5 }
def ruleVscan : VRule := { tys := intTys ++ fltTys, srcs := 1, rnd := true, sat := snTys, func := 13 }

/-- Elements held by one 32-bit lane element (R46); 1 stands for the 64-bit types too. -/
def Ty.count : Ty → Nat
  | .f16 | .bf16 | .s16 | .n16 => 2
  | .e4m3 | .e5m2 | .s8 | .n8 => 4
  | .l6 => 5
  | _ => 1

def Ty.is64 : Ty → Bool
  | .s64 | .n64 | .b64 => true
  | _ => false

def Ty.isB : Ty → Bool
  | .b32 | .b64 => true
  | _ => false

/-- The source type code in FUNC and the destination type of `cvt` (R312): no b type, and a 64-bit
type only with f32, s32, n32, s64 or n64; ROUND is 00 when the destination is l6 (R63). -/
def cvtTypes (a : VArgs) : Bool :=
  let st := Ty.ofCode a.func.toNat
  let pair : Ty → Bool := fun t => [Ty.f32, .s32, .n32, .s64, .n64].contains t
  !st.isB && !a.ty.isB && (!st.is64 || pair a.ty) && (!a.ty.is64 || pair st)
    && (a.ty != .l6 || a.rnd == .rne)

/-- `cvtpk` (R313): the source is f32, s32 or n32; S3 is reserved for a 16-bit destination. -/
def cvtpkTypes (a : VArgs) : Bool :=
  1 ≤ a.func.toNat && (a.ty.count != 2 || a.s3 == .v 0) && (a.ty != .l6 || a.rnd == .rne)

/-- `unpk` (R314): the source is a packed type with more elements than the destination type. -/
def unpkTypes (a : VArgs) : Bool :=
  let st := Ty.ofCode a.func.toNat
  2 ≤ st.count && a.ty.count < st.count

/-- `vred` and `vscan` (R317): float types take operations 0 to 2; ROUND has a meaning for a float add and SAT
for an integer add (log 11, DEDUCED). -/
def redOk (a : VArgs) : Bool :=
  let op := a.func.toNat % 8
  let fl := fltTys.contains a.ty
  op ≤ 5 && (!fl || op ≤ 2) && (a.rnd == .rne || (fl && op == 0)) && (!a.sat || op == 0)

/-- Compares: codes 6 and 7 are `fcmp`'s alone, and so are the negate bits (R255, R303). -/
def CmpCode.ordered : CmpCode → Bool
  | .un | .ord => false
  | _ => true

def cmpOk (tys : List Ty) (a : CmpArgs) : Bool :=
  tys.contains a.ty && a.cc.ordered && !a.neg1 && !a.neg2

def cmpImmOk (tys : List Ty) (a : CmpIArgs) : Bool := tys.contains a.ty && a.cc.ordered

/-- Fields of class 2 that an entry does not use are zero (R289 to R292). -/
def GArgs.unused (a : GArgs) (ps1 ng1 two func reg pd : Bool) : Bool :=
  (!ps1 || a.ps1 == 0) && (!ng1 || !a.ng1) && (!two || (a.ps2 == 0 && !a.ng2))
    && (!func || a.func == 0) && (!reg || a.reg == .v 0) && (!pd || a.pd == 0)

/-- ORDER and SCOPE of the M format (R143, R320): a relaxed access carries scope 000. -/
def orderOk (admitted : List Order) (o : Order) (s : Scope) : Bool :=
  admitted.contains o && (o != .relaxed || s == .grp)

/-- Types that an atomic operation admits (R333). -/
def AtomOp.tys : AtomOp → List Ty
  | .add | .and | .or | .xor | .xchg => [.n32, .s32, .b32, .n64, .s64, .b64]
  | .min | .max => [.n32, .s32, .n64, .s64]
  | .inc => [.n32, .b32, .n64, .b64]
  | .fadd | .fmin | .fmax => [.f32]

/-- Fields of the Q format that the operation's row of R171 marks 0, and its esize column. -/
def qOk (a : QArgs) (lo hi : Nat) (blk data status : Bool) : Bool :=
  lo ≤ a.esize.toNat && a.esize.toNat ≤ hi && (blk || !a.blk) && (data || a.data == .v 0)
    && (status || a.status == 0)

/-- The instruction's fields hold values that its entry admits; a word for which this fails is an illegal
instruction (R237). Events stand for no word (log 11, DEDUCED). -/
def Instr.legal : Instr → Bool
  | .pb a => a.pattern.toNat < 2 ^ (a.count.toNat + 1)
  | .kmov a | .kpopc a | .kclz a => uni1.admits a
  | .kadd a | .ksub a | .kmul a => uni2Sat.admits a
  | .kaddImm a | .ksubImm a | .kmulImm a => uni2Sat.admitsImm a
  | .kmulh a | .kand a | .kor a | .kxor a | .kshl a | .kshr a | .ksar a | .kbfe a => uni2.admits a
  | .kmulhImm a | .kandImm a | .korImm a | .kxorImm a | .kshlImm a | .kshrImm a | .ksarImm a
  | .kbfeImm a => uni2.admitsImm a
  | .kmin a | .kmax a => uniMinMax.admits a
  | .kminImm a | .kmaxImm a => uniMinMax.admitsImm a
  | .kcmp a => cmpOk uniTys a && a.pd != .bad 0x2E0
  | .kcmpImm a => cmpImmOk uniTys a && a.pd != .bad 0x2E0
  | .ksel a => uniSel.admits a
  | .kselImm a => uniSel.admitsFn a
  | .kld a | .kst a => uniTys.contains a.ty && a.scope == .grp && a.order == .relaxed
  | .kli a => a.dst != .b 0
  | .pand a | .por a | .pxor a => a.unused false false false true true false
  | .pnot a => a.unused false true true true true false
  | .pmov a => a.unused false false true true true false
  | .pvote a =>
    a.func.toNat ≤ 3 && a.unused false false true false (a.func.toNat ≤ 1) (2 ≤ a.func.toNat)
  | .pfirst a => a.func.toNat ≤ 1 && a.unused false false true false true false
  | .pmask a => a.func.toNat ≤ 1 && a.unused true true true false false true
  | .mov a => ruleMov.admits a
  | .movImm a => ruleMov.admitsImm a
  | .add a | .sub a | .mul a => int2Sat.admits a
  | .addImm a | .subImm a | .mulImm a => int2Sat.admitsImm a
  | .mulh a | .and a | .or a | .xor a | .shl a | .shr a | .sar a => int2.admits a
  | .mulhImm a | .andImm a | .orImm a | .xorImm a | .shlImm a | .shrImm a | .sarImm a =>
    int2.admitsImm a
  | .mad a => ruleMad.admits a
  | .madImm a => ruleMad.admitsImm a
  | .min a | .max a => ruleMinMax.admits a
  | .minImm a | .maxImm a => ruleMinMax.admitsImm a
  | .abs a => ruleAbs.admits a
  | .neg a => ruleNeg.admits a
  | .not a | .popc a | .clz a | .brev a => int1.admits a
  | .bfe a => ruleBfe.admits a
  | .bfeImm a => ruleBfe.admitsImm a
  | .bfi a => ruleBfi.admits a
  | .bfiImm a => ruleBfi.admitsImm a
  | .cmp a => cmpOk wholeTys a
  | .cmpImm a => cmpImmOk wholeTys a
  | .sel a => ruleSel.admits a
  | .selImm a => ruleSel.admitsFn a
  | .addc a => ruleAddc.admits a
  | .addcImm a => ruleAddc.admitsImm a
  | .dot4 a => ruleDot4.admits a
  | .dot4Imm a => ruleDot4.admitsImm a
  | .cmul a => ruleCmul.admits a
  | .cmac a => ruleCmac.admits a
  | .fadd a | .fsub a | .fmul a => flt2.admits a
  | .faddImm a | .fsubImm a | .fmulImm a => flt2.admitsImm a
  | .fma a => ruleFma.admits a
  | .fmaImm a => ruleFma.admitsImm a
  | .fmin a | .fmax a => ruleFminmax.admits a
  | .fminImm a | .fmaxImm a => ruleFminmax.admitsImm a
  | .fcmp a => a.ty == .f32
  | .fcmpImm a => a.ty == .f32
  | .frcp a | .frsq a | .fexp2 a | .flog2 a | .fsin a | .fcos a => ruleApprox.admits a
  | .fsqrt a => ruleFsqrt.admits a
  | .frnd a => ruleFrnd.admits a
  | .fclass a => ruleFclass.admits a
  | .fscale a => ruleFscale.admits a
  | .fscaleImm a => ruleFscale.admitsImm a
  | .fdot2 a => ruleFdot2.admits a
  | .fdot2Imm a => ruleFdot2.admitsImm a
  | .fcmul a => ruleFcmul.admits a
  | .cvt a => ruleCvt.admits a && cvtTypes a
  | .cvtpk a => ruleCvtpk.admits a && cvtpkTypes a
  | .unpk a => ruleUnpk.admits a && unpkTypes a
  | .tagset a => ruleTagset.admits a
  | .tagget a => ruleTagget.admits a
  | .shfl a => ruleShfl.admits a
  | .bcast a => ruleBcast.admits a
  | .vred a => ruleVred.admits a && redOk a
  | .vscan a => ruleVscan.admits a && redOk a
  | .ld a => orderOk [.relaxed, .acq] a.order a.scope
  | .st a => orderOk [.relaxed, .rel] a.order a.scope
  | .ldc a => orderOk [.relaxed, .acq] a.order a.scope
  | .stc a => orderOk [.relaxed, .rel] a.order a.scope
  | .pf a => a.ty == .b32 && orderOk [.relaxed] a.order a.scope && a.data == .v 0
  | .cwb a | .cinv a => a.ty == .b32 && orderOk [.relaxed] a.order a.scope && a.cache == .dflt
  | .accrd a | .accwr a => [Ty.f32, .s32, .b32].contains a.ty
  | .cget a => a.sel.toNat ≤ 8
  | .ctst a => a.sel.toNat ≤ 2 && (a.sel != 0 || a.x == .v 0)
  | .atom a => a.op.tys.contains a.ty
  | .red a => a.op.tys.contains a.ty && [Order.relaxed, .rel].contains a.order
  | .cas a => (AtomOp.tys .add).contains a.ty
  | .qenq a | .qdeq a => qOk a 2 4 true true true
  | .qrsv a | .qtake a => qOk a 2 8 true true true
  | .qcmt a | .qdone a | .qinit a => qOk a 0 0 false true false
  | .qstat a => qOk a 0 5 false true false
  | .qclose a => qOk a 0 0 false false false
  | .loop a => a.body != 0
  | .mconv a => !a.causal && !a.ta
  | .tstamp t d => (t == .n64 || t == .b64) && d != .b 0
  | .ctrrd a => [Ty.n32, .b32, .n64, .b64].contains a.ty && a.dst != .b 0
  | .srd a => a.dst != .b 0
  | .tlbinv a => (a.ty == .n64 || a.ty == .b64) && a.imm.toNat < 16
  | _ => true

/-- What an opcode and the 54 bits below it come to before the entry's own limits are judged. -/
inductive Parsed where
  | unallocated
  | refused
  | found (i : Instr)
deriving DecidableEq, Repr

def Parsed.ofOption : Option Instr → Parsed
  | some i => .found i
  | none => .refused

/-- The opcode map (R256 to R258). -/
def parse (op f : Nat) : Parsed :=
  match op with
  | 0x000 => if f = 0 then .found .nop else .refused
  | 0x001 => .ofOption ((ofPbArgs (split pFmt f)).map .pb)
  | 0x002 => .ofOption ((ofBraArgs (split cbraFmt f)).map .bra)
  | 0x003 => .ofOption ((ofOpnd (split cregFmt f)).map .brx)
  | 0x004 => .ofOption ((ofCallArgs (split ccallFmt f)).map .call)
  | 0x005 => .ofOption ((ofOpnd (split cregFmt f)).map .ret)
  | 0x006 => .ofOption ((ofStrandArgs (split hFmt f)).map .strand)
  | 0x007 => if f = 0 then .found .yield else .refused
  | 0x008 => if f = 0 then .found .rcv else .refused
  | 0x009 => .ofOption ((ofFspawnArgs (split cspawnFmt f)).map .fspawn)
  | 0x00A => if f = 0 then .found .fend else .refused
  | 0x00B => if f = 0 then .found .exit else .refused
  | 0x00C => .ofOption ((ofCnt (split jFmt f)).map .trap)
  | 0x00D => if f = 0 then .found .rte else .refused
  | 0x00E => .ofOption ((ofCnt (split jFmt f)).map .pause)
  | 0x00F => if f = 0 then .found .brk else .refused
  | 0x040 => .ofOption ((ofVArgs (split vFmt f)).map .kmov)
  | 0x041 => .ofOption ((ofVArgs (split vFmt f)).map .kadd)
  | 0x241 => .ofOption ((ofVIArgs (split viFmt f)).map .kaddImm)
  | 0x042 => .ofOption ((ofVArgs (split vFmt f)).map .ksub)
  | 0x242 => .ofOption ((ofVIArgs (split viFmt f)).map .ksubImm)
  | 0x043 => .ofOption ((ofVArgs (split vFmt f)).map .kmul)
  | 0x243 => .ofOption ((ofVIArgs (split viFmt f)).map .kmulImm)
  | 0x044 => .ofOption ((ofVArgs (split vFmt f)).map .kmulh)
  | 0x244 => .ofOption ((ofVIArgs (split viFmt f)).map .kmulhImm)
  | 0x045 => .ofOption ((ofVArgs (split vFmt f)).map .kand)
  | 0x245 => .ofOption ((ofVIArgs (split viFmt f)).map .kandImm)
  | 0x046 => .ofOption ((ofVArgs (split vFmt f)).map .kor)
  | 0x246 => .ofOption ((ofVIArgs (split viFmt f)).map .korImm)
  | 0x047 => .ofOption ((ofVArgs (split vFmt f)).map .kxor)
  | 0x247 => .ofOption ((ofVIArgs (split viFmt f)).map .kxorImm)
  | 0x048 => .ofOption ((ofVArgs (split vFmt f)).map .kshl)
  | 0x248 => .ofOption ((ofVIArgs (split viFmt f)).map .kshlImm)
  | 0x049 => .ofOption ((ofVArgs (split vFmt f)).map .kshr)
  | 0x249 => .ofOption ((ofVIArgs (split viFmt f)).map .kshrImm)
  | 0x04A => .ofOption ((ofVArgs (split vFmt f)).map .ksar)
  | 0x24A => .ofOption ((ofVIArgs (split viFmt f)).map .ksarImm)
  | 0x04B => .ofOption ((ofVArgs (split vFmt f)).map .kmin)
  | 0x24B => .ofOption ((ofVIArgs (split viFmt f)).map .kminImm)
  | 0x04C => .ofOption ((ofVArgs (split vFmt f)).map .kmax)
  | 0x24C => .ofOption ((ofVIArgs (split viFmt f)).map .kmaxImm)
  | 0x04D => .ofOption ((ofCmpArgs (split vFmt f)).map .kcmp)
  | 0x24D => .ofOption ((ofCmpIArgs (split viFmt f)).map .kcmpImm)
  | 0x04E => .ofOption ((ofVArgs (split vFmt f)).map .ksel)
  | 0x24E => .ofOption ((ofVFArgs (split viFmt f)).map .kselImm)
  | 0x04F => .ofOption ((ofVArgs (split vFmt f)).map .kbfe)
  | 0x24F => .ofOption ((ofVIArgs (split viFmt f)).map .kbfeImm)
  | 0x050 => .ofOption ((ofVArgs (split vFmt f)).map .kpopc)
  | 0x051 => .ofOption ((ofVArgs (split vFmt f)).map .kclz)
  | 0x052 => .ofOption ((ofMArgs (split mFmt f)).map .kld)
  | 0x053 => .ofOption ((ofMArgs (split mFmt f)).map .kst)
  | 0x054 => .ofOption ((ofDImmArgs (split viFmt f)).map .kli)
  | 0x080 => .ofOption ((ofGArgs (split gFmt f)).map .pand)
  | 0x081 => .ofOption ((ofGArgs (split gFmt f)).map .por)
  | 0x082 => .ofOption ((ofGArgs (split gFmt f)).map .pxor)
  | 0x083 => .ofOption ((ofGArgs (split gFmt f)).map .pnot)
  | 0x084 => .ofOption ((ofGArgs (split gFmt f)).map .pmov)
  | 0x085 => .ofOption ((ofGArgs (split gFmt f)).map .pvote)
  | 0x086 => .ofOption ((ofGArgs (split gFmt f)).map .pfirst)
  | 0x087 => .ofOption ((ofGArgs (split gFmt f)).map .pmask)
  | 0x0C0 => .ofOption ((ofVArgs (split vFmt f)).map .mov)
  | 0x2C0 => .ofOption ((ofVIArgs (split viFmt f)).map .movImm)
  | 0x0C1 => .ofOption ((ofVArgs (split vFmt f)).map .add)
  | 0x2C1 => .ofOption ((ofVIArgs (split viFmt f)).map .addImm)
  | 0x0C2 => .ofOption ((ofVArgs (split vFmt f)).map .sub)
  | 0x2C2 => .ofOption ((ofVIArgs (split viFmt f)).map .subImm)
  | 0x0C3 => .ofOption ((ofVArgs (split vFmt f)).map .mul)
  | 0x2C3 => .ofOption ((ofVIArgs (split viFmt f)).map .mulImm)
  | 0x0C4 => .ofOption ((ofVArgs (split vFmt f)).map .mulh)
  | 0x2C4 => .ofOption ((ofVIArgs (split viFmt f)).map .mulhImm)
  | 0x0C5 => .ofOption ((ofVArgs (split vFmt f)).map .mad)
  | 0x2C5 => .ofOption ((ofVIArgs (split viFmt f)).map .madImm)
  | 0x0C6 => .ofOption ((ofVArgs (split vFmt f)).map .min)
  | 0x2C6 => .ofOption ((ofVIArgs (split viFmt f)).map .minImm)
  | 0x0C7 => .ofOption ((ofVArgs (split vFmt f)).map .max)
  | 0x2C7 => .ofOption ((ofVIArgs (split viFmt f)).map .maxImm)
  | 0x0C8 => .ofOption ((ofVArgs (split vFmt f)).map .abs)
  | 0x0C9 => .ofOption ((ofVArgs (split vFmt f)).map .neg)
  | 0x0CA => .ofOption ((ofVArgs (split vFmt f)).map .and)
  | 0x2CA => .ofOption ((ofVIArgs (split viFmt f)).map .andImm)
  | 0x0CB => .ofOption ((ofVArgs (split vFmt f)).map .or)
  | 0x2CB => .ofOption ((ofVIArgs (split viFmt f)).map .orImm)
  | 0x0CC => .ofOption ((ofVArgs (split vFmt f)).map .xor)
  | 0x2CC => .ofOption ((ofVIArgs (split viFmt f)).map .xorImm)
  | 0x0CD => .ofOption ((ofVArgs (split vFmt f)).map .not)
  | 0x0CE => .ofOption ((ofVArgs (split vFmt f)).map .shl)
  | 0x2CE => .ofOption ((ofVIArgs (split viFmt f)).map .shlImm)
  | 0x0CF => .ofOption ((ofVArgs (split vFmt f)).map .shr)
  | 0x2CF => .ofOption ((ofVIArgs (split viFmt f)).map .shrImm)
  | 0x0D0 => .ofOption ((ofVArgs (split vFmt f)).map .sar)
  | 0x2D0 => .ofOption ((ofVIArgs (split viFmt f)).map .sarImm)
  | 0x0D1 => .ofOption ((ofVArgs (split vFmt f)).map .bfe)
  | 0x2D1 => .ofOption ((ofVIArgs (split viFmt f)).map .bfeImm)
  | 0x0D2 => .ofOption ((ofVArgs (split vFmt f)).map .bfi)
  | 0x2D2 => .ofOption ((ofVIArgs (split viFmt f)).map .bfiImm)
  | 0x0D3 => .ofOption ((ofVArgs (split vFmt f)).map .popc)
  | 0x0D4 => .ofOption ((ofVArgs (split vFmt f)).map .clz)
  | 0x0D5 => .ofOption ((ofVArgs (split vFmt f)).map .brev)
  | 0x0D6 => .ofOption ((ofCmpArgs (split vFmt f)).map .cmp)
  | 0x2D6 => .ofOption ((ofCmpIArgs (split viFmt f)).map .cmpImm)
  | 0x0D7 => .ofOption ((ofVArgs (split vFmt f)).map .sel)
  | 0x2D7 => .ofOption ((ofVFArgs (split viFmt f)).map .selImm)
  | 0x0D8 => .ofOption ((ofVArgs (split vFmt f)).map .addc)
  | 0x2D8 => .ofOption ((ofVIArgs (split viFmt f)).map .addcImm)
  | 0x0D9 => .ofOption ((ofVArgs (split vFmt f)).map .dot4)
  | 0x2D9 => .ofOption ((ofVIArgs (split viFmt f)).map .dot4Imm)
  | 0x0DA => .ofOption ((ofVArgs (split vFmt f)).map .cmul)
  | 0x0DB => .ofOption ((ofVArgs (split vFmt f)).map .cmac)
  | 0x100 => .ofOption ((ofVArgs (split vFmt f)).map .fadd)
  | 0x300 => .ofOption ((ofVIArgs (split viFmt f)).map .faddImm)
  | 0x101 => .ofOption ((ofVArgs (split vFmt f)).map .fsub)
  | 0x301 => .ofOption ((ofVIArgs (split viFmt f)).map .fsubImm)
  | 0x102 => .ofOption ((ofVArgs (split vFmt f)).map .fmul)
  | 0x302 => .ofOption ((ofVIArgs (split viFmt f)).map .fmulImm)
  | 0x103 => .ofOption ((ofVArgs (split vFmt f)).map .fma)
  | 0x303 => .ofOption ((ofVIArgs (split viFmt f)).map .fmaImm)
  | 0x104 => .ofOption ((ofVArgs (split vFmt f)).map .fmin)
  | 0x304 => .ofOption ((ofVIArgs (split viFmt f)).map .fminImm)
  | 0x105 => .ofOption ((ofVArgs (split vFmt f)).map .fmax)
  | 0x305 => .ofOption ((ofVIArgs (split viFmt f)).map .fmaxImm)
  | 0x106 => .ofOption ((ofCmpArgs (split vFmt f)).map .fcmp)
  | 0x306 => .ofOption ((ofCmpIArgs (split viFmt f)).map .fcmpImm)
  | 0x107 => .ofOption ((ofVArgs (split vFmt f)).map .frcp)
  | 0x108 => .ofOption ((ofVArgs (split vFmt f)).map .frsq)
  | 0x109 => .ofOption ((ofVArgs (split vFmt f)).map .fsqrt)
  | 0x10A => .ofOption ((ofVArgs (split vFmt f)).map .fexp2)
  | 0x10B => .ofOption ((ofVArgs (split vFmt f)).map .flog2)
  | 0x10C => .ofOption ((ofVArgs (split vFmt f)).map .fsin)
  | 0x10D => .ofOption ((ofVArgs (split vFmt f)).map .fcos)
  | 0x10E => .ofOption ((ofVArgs (split vFmt f)).map .frnd)
  | 0x10F => .ofOption ((ofVArgs (split vFmt f)).map .fclass)
  | 0x110 => .ofOption ((ofVArgs (split vFmt f)).map .fscale)
  | 0x310 => .ofOption ((ofVIArgs (split viFmt f)).map .fscaleImm)
  | 0x111 => .ofOption ((ofVArgs (split vFmt f)).map .fdot2)
  | 0x311 => .ofOption ((ofVIArgs (split viFmt f)).map .fdot2Imm)
  | 0x112 => .ofOption ((ofVArgs (split vFmt f)).map .fcmul)
  | 0x140 => .ofOption ((ofVArgs (split vFmt f)).map .cvt)
  | 0x141 => .ofOption ((ofVArgs (split vFmt f)).map .cvtpk)
  | 0x142 => .ofOption ((ofVArgs (split vFmt f)).map .unpk)
  | 0x143 => .ofOption ((ofVArgs (split vFmt f)).map .tagset)
  | 0x144 => .ofOption ((ofVArgs (split vFmt f)).map .tagget)
  | 0x145 => .ofOption ((ofVArgs (split vFmt f)).map .shfl)
  | 0x146 => .ofOption ((ofVArgs (split vFmt f)).map .bcast)
  | 0x147 => .ofOption ((ofVArgs (split vFmt f)).map .vred)
  | 0x148 => .ofOption ((ofVArgs (split vFmt f)).map .vscan)
  | 0x180 => .ofOption ((ofMArgs (split mFmt f)).map .ld)
  | 0x181 => .ofOption ((ofMArgs (split mFmt f)).map .st)
  | 0x182 => .ofOption ((ofLdcArgs (split mFmt f)).map .ldc)
  | 0x183 => .ofOption ((ofLdcArgs (split mFmt f)).map .stc)
  | 0x184 => .ofOption ((ofMArgs (split mFmt f)).map .pf)
  | 0x185 => .ofOption ((ofMArgs (split mFmt f)).map .cwb)
  | 0x186 => .ofOption ((ofMArgs (split mFmt f)).map .cinv)
  | 0x187 => .ofOption ((ofTArgs (split tFmt f)).map .accrd)
  | 0x188 => .ofOption ((ofTArgs (split tFmt f)).map .accwr)
  | 0x189 => .ofOption ((ofCbndArgs (split kFmt f)).map .cbnd)
  | 0x18A => .ofOption ((ofCopArgs (split kFmt f)).map .cadr)
  | 0x18B => .ofOption ((ofCopArgs (split kFmt f)).map .cinc)
  | 0x18C => .ofOption ((ofCopArgs (split kFmt f)).map .cprm)
  | 0x18D => .ofOption ((ofCgetArgs (split kFmt f)).map .cget)
  | 0x18E => .ofOption ((ofCmovForm (split kFmt f)).map .cmov)
  | 0x18F => .ofOption ((ofCtstArgs (split kFmt f)).map .ctst)
  | 0x1C0 => .ofOption ((ofAtomArgs (split aFmt f)).map .atom)
  | 0x1C1 => .ofOption ((ofRedArgs (split aFmt f)).map .red)
  | 0x1C2 => .ofOption ((ofCasArgs (split aFmt f)).map .cas)
  | 0x1C3 => .ofOption ((ofFence (split bFmt f)).map .fence)
  | 0x1C4 => .ofOption ((ofBarArgs (split bFmt f)).map .bar)
  | 0x1C5 => .ofOption ((ofBarArgs (split bFmt f)).map .barv)
  | 0x1C6 => .ofOption ((ofBarw (split bFmt f)).map .barw)
  | 0x1C7 => if f = 0 then .found .gbar else .refused
  | 0x1C8 => .ofOption ((ofQArgs (split qFmt f)).map .qenq)
  | 0x1C9 => .ofOption ((ofQArgs (split qFmt f)).map .qdeq)
  | 0x1CA => .ofOption ((ofQArgs (split qFmt f)).map .qrsv)
  | 0x1CB => .ofOption ((ofQArgs (split qFmt f)).map .qcmt)
  | 0x1CC => .ofOption ((ofQArgs (split qFmt f)).map .qtake)
  | 0x1CD => .ofOption ((ofQArgs (split qFmt f)).map .qdone)
  | 0x1CE => .ofOption ((ofQArgs (split qFmt f)).map .qinit)
  | 0x1CF => .ofOption ((ofQArgs (split qFmt f)).map .qstat)
  | 0x1D0 => .ofOption ((ofQArgs (split qFmt f)).map .qclose)
  | 0x200 => .ofOption ((ofCpArgs (split yFmt f)).map .cp)
  | 0x201 => .ofOption ((ofCptArgs (split yFmt f)).map .cpt)
  | 0x202 => if f = 0 then .found .seal else .refused
  | 0x203 => .ofOption ((ofWaitArgs (split eFmt f)).map .wait)
  | 0x204 => .ofOption ((ofOff (split cstokeFmt f)).map .stoke)
  | 0x205 => .ofOption ((ofLoopArgs (split lFmt f)).map .loop)
  | 0x206 => .ofOption ((ofMmaArgs (split xFmt f)).map .mma)
  | 0x207 => .ofOption ((ofMmaArgs (split xFmt f)).map .mconv)
  | 0x208 => if f = 0 then .found .sfin else .refused
  | 0x209 => .ofOption ((ofShpldArgs (split mFmt f)).map .shpld)
  | 0x280 => .ofOption ((ofTstamp (split vFmt f)).map fun p => .tstamp p.1 p.2)
  | 0x281 => .ofOption ((ofDImmArgs (split viFmt f)).map .ctrrd)
  | 0x282 => .ofOption ((ofDImmArgs (split viFmt f)).map .srd)
  | 0x283 => .ofOption ((ofSImmArgs (split viFmt f)).map .swr)
  | 0x284 => .ofOption ((ofSImmArgs (split viFmt f)).map .tlbinv)
  | 0x285 => .ofOption ((ofCnt (split jFmt f)).map .sleep)
  | 0x286 => .ofOption ((ofErrinjArgs (split mFmt f)).map .errinj)
  | _ => .unallocated

/-- Why a word or a run of bytes is no instruction. -/
inductive DecodeErr where
  /-- Fewer than eight bytes. -/
  | truncated
  /-- A reserved field is not zero, or a field holds a value that the formats mark reserved: illegal
  instruction (R237). -/
  | reservedField
  /-- A field holds a value that the instruction's entry does not admit: illegal instruction. -/
  | notAdmitted
deriving DecidableEq, Repr

/-- The instruction that a word stands for. An opcode outside the tables is the row UNALLOCATED OPCODE
of the opcode table; it raises the illegal instruction fault when it issues (R259). -/
def decode (w : Dword) : Except DecodeErr Instr :=
  match parse (opcodeOf w) (w.toNat % 2 ^ 54) with
  | .unallocated => .ok (.unallocatedOpcode w)
  | .refused => .error .reservedField
  | .found i => if i.legal then .ok i else .error .notAdmitted

/-- The 64-bit word in eight bytes, least significant first (R236). -/
def wordOfBytes (bs : List Byte) : Dword :=
  BitVec.ofNat 64 ((bs.take 8).foldr (fun b n => b.toNat + 256 * n) 0)

/-- Decode the first eight bytes; the rest of the bytes is handed back. -/
def decodeBytes (bs : List Byte) : Except DecodeErr (Instr × List Byte) :=
  if bs.length < 8 then .error .truncated
  else match decode (wordOfBytes bs) with
    | .ok i => .ok (i, bs.drop 8)
    | .error e => .error e

/-- The eight bytes of a word as memory holds them (R236). -/
def bytesOfWord (w : Dword) : List Byte :=
  (List.range 8).map fun k => BitVec.ofNat 8 (w.toNat / 256 ^ k)

/-- The instruction the decoder reads from the opcode table's numbering of its bits; the bits above
`nbits` are zero. -/
def decodeTableWord (nbits w : Nat) : Option Instr :=
  match decodeBytes (bytesOfWord (BitVec.ofNat 64 (w % 2 ^ nbits))) with
  | .ok (i, _) => some i
  | .error _ => none

/-! ## Encoding -/

/-- The word of an instruction form; an event has none. -/
def encode : Instr → Option Dword
  | .nop => some (word 0x000 0)
  | .pb a => some (word 0x001 (pack pFmt (fieldsPbArgs a)))
  | .bra a => some (word 0x002 (pack cbraFmt (fieldsBraArgs a)))
  | .brx a => some (word 0x003 (pack cregFmt (fieldsOpnd a)))
  | .call a => some (word 0x004 (pack ccallFmt (fieldsCallArgs a)))
  | .ret a => some (word 0x005 (pack cregFmt (fieldsOpnd a)))
  | .strand a => some (word 0x006 (pack hFmt (fieldsStrandArgs a)))
  | .yield => some (word 0x007 0)
  | .rcv => some (word 0x008 0)
  | .fspawn a => some (word 0x009 (pack cspawnFmt (fieldsFspawnArgs a)))
  | .fend => some (word 0x00A 0)
  | .exit => some (word 0x00B 0)
  | .trap a => some (word 0x00C (pack jFmt (fieldsCnt a)))
  | .rte => some (word 0x00D 0)
  | .pause a => some (word 0x00E (pack jFmt (fieldsCnt a)))
  | .brk => some (word 0x00F 0)
  | .kmov a => some (word 0x040 (pack vFmt (fieldsVArgs a)))
  | .kadd a => some (word 0x041 (pack vFmt (fieldsVArgs a)))
  | .kaddImm a => some (word 0x241 (pack viFmt (fieldsVIArgs a)))
  | .ksub a => some (word 0x042 (pack vFmt (fieldsVArgs a)))
  | .ksubImm a => some (word 0x242 (pack viFmt (fieldsVIArgs a)))
  | .kmul a => some (word 0x043 (pack vFmt (fieldsVArgs a)))
  | .kmulImm a => some (word 0x243 (pack viFmt (fieldsVIArgs a)))
  | .kmulh a => some (word 0x044 (pack vFmt (fieldsVArgs a)))
  | .kmulhImm a => some (word 0x244 (pack viFmt (fieldsVIArgs a)))
  | .kand a => some (word 0x045 (pack vFmt (fieldsVArgs a)))
  | .kandImm a => some (word 0x245 (pack viFmt (fieldsVIArgs a)))
  | .kor a => some (word 0x046 (pack vFmt (fieldsVArgs a)))
  | .korImm a => some (word 0x246 (pack viFmt (fieldsVIArgs a)))
  | .kxor a => some (word 0x047 (pack vFmt (fieldsVArgs a)))
  | .kxorImm a => some (word 0x247 (pack viFmt (fieldsVIArgs a)))
  | .kshl a => some (word 0x048 (pack vFmt (fieldsVArgs a)))
  | .kshlImm a => some (word 0x248 (pack viFmt (fieldsVIArgs a)))
  | .kshr a => some (word 0x049 (pack vFmt (fieldsVArgs a)))
  | .kshrImm a => some (word 0x249 (pack viFmt (fieldsVIArgs a)))
  | .ksar a => some (word 0x04A (pack vFmt (fieldsVArgs a)))
  | .ksarImm a => some (word 0x24A (pack viFmt (fieldsVIArgs a)))
  | .kmin a => some (word 0x04B (pack vFmt (fieldsVArgs a)))
  | .kminImm a => some (word 0x24B (pack viFmt (fieldsVIArgs a)))
  | .kmax a => some (word 0x04C (pack vFmt (fieldsVArgs a)))
  | .kmaxImm a => some (word 0x24C (pack viFmt (fieldsVIArgs a)))
  | .kcmp a => some (word 0x04D (pack vFmt (fieldsCmpArgs a)))
  | .kcmpImm a => some (word 0x24D (pack viFmt (fieldsCmpIArgs a)))
  | .ksel a => some (word 0x04E (pack vFmt (fieldsVArgs a)))
  | .kselImm a => some (word 0x24E (pack viFmt (fieldsVFArgs a)))
  | .kbfe a => some (word 0x04F (pack vFmt (fieldsVArgs a)))
  | .kbfeImm a => some (word 0x24F (pack viFmt (fieldsVIArgs a)))
  | .kpopc a => some (word 0x050 (pack vFmt (fieldsVArgs a)))
  | .kclz a => some (word 0x051 (pack vFmt (fieldsVArgs a)))
  | .kld a => some (word 0x052 (pack mFmt (fieldsMArgs a)))
  | .kst a => some (word 0x053 (pack mFmt (fieldsMArgs a)))
  | .kli a => some (word 0x054 (pack viFmt (fieldsDImmArgs a)))
  | .pand a => some (word 0x080 (pack gFmt (fieldsGArgs a)))
  | .por a => some (word 0x081 (pack gFmt (fieldsGArgs a)))
  | .pxor a => some (word 0x082 (pack gFmt (fieldsGArgs a)))
  | .pnot a => some (word 0x083 (pack gFmt (fieldsGArgs a)))
  | .pmov a => some (word 0x084 (pack gFmt (fieldsGArgs a)))
  | .pvote a => some (word 0x085 (pack gFmt (fieldsGArgs a)))
  | .pfirst a => some (word 0x086 (pack gFmt (fieldsGArgs a)))
  | .pmask a => some (word 0x087 (pack gFmt (fieldsGArgs a)))
  | .mov a => some (word 0x0C0 (pack vFmt (fieldsVArgs a)))
  | .movImm a => some (word 0x2C0 (pack viFmt (fieldsVIArgs a)))
  | .add a => some (word 0x0C1 (pack vFmt (fieldsVArgs a)))
  | .addImm a => some (word 0x2C1 (pack viFmt (fieldsVIArgs a)))
  | .sub a => some (word 0x0C2 (pack vFmt (fieldsVArgs a)))
  | .subImm a => some (word 0x2C2 (pack viFmt (fieldsVIArgs a)))
  | .mul a => some (word 0x0C3 (pack vFmt (fieldsVArgs a)))
  | .mulImm a => some (word 0x2C3 (pack viFmt (fieldsVIArgs a)))
  | .mulh a => some (word 0x0C4 (pack vFmt (fieldsVArgs a)))
  | .mulhImm a => some (word 0x2C4 (pack viFmt (fieldsVIArgs a)))
  | .mad a => some (word 0x0C5 (pack vFmt (fieldsVArgs a)))
  | .madImm a => some (word 0x2C5 (pack viFmt (fieldsVIArgs a)))
  | .min a => some (word 0x0C6 (pack vFmt (fieldsVArgs a)))
  | .minImm a => some (word 0x2C6 (pack viFmt (fieldsVIArgs a)))
  | .max a => some (word 0x0C7 (pack vFmt (fieldsVArgs a)))
  | .maxImm a => some (word 0x2C7 (pack viFmt (fieldsVIArgs a)))
  | .abs a => some (word 0x0C8 (pack vFmt (fieldsVArgs a)))
  | .neg a => some (word 0x0C9 (pack vFmt (fieldsVArgs a)))
  | .and a => some (word 0x0CA (pack vFmt (fieldsVArgs a)))
  | .andImm a => some (word 0x2CA (pack viFmt (fieldsVIArgs a)))
  | .or a => some (word 0x0CB (pack vFmt (fieldsVArgs a)))
  | .orImm a => some (word 0x2CB (pack viFmt (fieldsVIArgs a)))
  | .xor a => some (word 0x0CC (pack vFmt (fieldsVArgs a)))
  | .xorImm a => some (word 0x2CC (pack viFmt (fieldsVIArgs a)))
  | .not a => some (word 0x0CD (pack vFmt (fieldsVArgs a)))
  | .shl a => some (word 0x0CE (pack vFmt (fieldsVArgs a)))
  | .shlImm a => some (word 0x2CE (pack viFmt (fieldsVIArgs a)))
  | .shr a => some (word 0x0CF (pack vFmt (fieldsVArgs a)))
  | .shrImm a => some (word 0x2CF (pack viFmt (fieldsVIArgs a)))
  | .sar a => some (word 0x0D0 (pack vFmt (fieldsVArgs a)))
  | .sarImm a => some (word 0x2D0 (pack viFmt (fieldsVIArgs a)))
  | .bfe a => some (word 0x0D1 (pack vFmt (fieldsVArgs a)))
  | .bfeImm a => some (word 0x2D1 (pack viFmt (fieldsVIArgs a)))
  | .bfi a => some (word 0x0D2 (pack vFmt (fieldsVArgs a)))
  | .bfiImm a => some (word 0x2D2 (pack viFmt (fieldsVIArgs a)))
  | .popc a => some (word 0x0D3 (pack vFmt (fieldsVArgs a)))
  | .clz a => some (word 0x0D4 (pack vFmt (fieldsVArgs a)))
  | .brev a => some (word 0x0D5 (pack vFmt (fieldsVArgs a)))
  | .cmp a => some (word 0x0D6 (pack vFmt (fieldsCmpArgs a)))
  | .cmpImm a => some (word 0x2D6 (pack viFmt (fieldsCmpIArgs a)))
  | .sel a => some (word 0x0D7 (pack vFmt (fieldsVArgs a)))
  | .selImm a => some (word 0x2D7 (pack viFmt (fieldsVFArgs a)))
  | .addc a => some (word 0x0D8 (pack vFmt (fieldsVArgs a)))
  | .addcImm a => some (word 0x2D8 (pack viFmt (fieldsVIArgs a)))
  | .dot4 a => some (word 0x0D9 (pack vFmt (fieldsVArgs a)))
  | .dot4Imm a => some (word 0x2D9 (pack viFmt (fieldsVIArgs a)))
  | .cmul a => some (word 0x0DA (pack vFmt (fieldsVArgs a)))
  | .cmac a => some (word 0x0DB (pack vFmt (fieldsVArgs a)))
  | .fadd a => some (word 0x100 (pack vFmt (fieldsVArgs a)))
  | .faddImm a => some (word 0x300 (pack viFmt (fieldsVIArgs a)))
  | .fsub a => some (word 0x101 (pack vFmt (fieldsVArgs a)))
  | .fsubImm a => some (word 0x301 (pack viFmt (fieldsVIArgs a)))
  | .fmul a => some (word 0x102 (pack vFmt (fieldsVArgs a)))
  | .fmulImm a => some (word 0x302 (pack viFmt (fieldsVIArgs a)))
  | .fma a => some (word 0x103 (pack vFmt (fieldsVArgs a)))
  | .fmaImm a => some (word 0x303 (pack viFmt (fieldsVIArgs a)))
  | .fmin a => some (word 0x104 (pack vFmt (fieldsVArgs a)))
  | .fminImm a => some (word 0x304 (pack viFmt (fieldsVIArgs a)))
  | .fmax a => some (word 0x105 (pack vFmt (fieldsVArgs a)))
  | .fmaxImm a => some (word 0x305 (pack viFmt (fieldsVIArgs a)))
  | .fcmp a => some (word 0x106 (pack vFmt (fieldsCmpArgs a)))
  | .fcmpImm a => some (word 0x306 (pack viFmt (fieldsCmpIArgs a)))
  | .frcp a => some (word 0x107 (pack vFmt (fieldsVArgs a)))
  | .frsq a => some (word 0x108 (pack vFmt (fieldsVArgs a)))
  | .fsqrt a => some (word 0x109 (pack vFmt (fieldsVArgs a)))
  | .fexp2 a => some (word 0x10A (pack vFmt (fieldsVArgs a)))
  | .flog2 a => some (word 0x10B (pack vFmt (fieldsVArgs a)))
  | .fsin a => some (word 0x10C (pack vFmt (fieldsVArgs a)))
  | .fcos a => some (word 0x10D (pack vFmt (fieldsVArgs a)))
  | .frnd a => some (word 0x10E (pack vFmt (fieldsVArgs a)))
  | .fclass a => some (word 0x10F (pack vFmt (fieldsVArgs a)))
  | .fscale a => some (word 0x110 (pack vFmt (fieldsVArgs a)))
  | .fscaleImm a => some (word 0x310 (pack viFmt (fieldsVIArgs a)))
  | .fdot2 a => some (word 0x111 (pack vFmt (fieldsVArgs a)))
  | .fdot2Imm a => some (word 0x311 (pack viFmt (fieldsVIArgs a)))
  | .fcmul a => some (word 0x112 (pack vFmt (fieldsVArgs a)))
  | .cvt a => some (word 0x140 (pack vFmt (fieldsVArgs a)))
  | .cvtpk a => some (word 0x141 (pack vFmt (fieldsVArgs a)))
  | .unpk a => some (word 0x142 (pack vFmt (fieldsVArgs a)))
  | .tagset a => some (word 0x143 (pack vFmt (fieldsVArgs a)))
  | .tagget a => some (word 0x144 (pack vFmt (fieldsVArgs a)))
  | .shfl a => some (word 0x145 (pack vFmt (fieldsVArgs a)))
  | .bcast a => some (word 0x146 (pack vFmt (fieldsVArgs a)))
  | .vred a => some (word 0x147 (pack vFmt (fieldsVArgs a)))
  | .vscan a => some (word 0x148 (pack vFmt (fieldsVArgs a)))
  | .ld a => some (word 0x180 (pack mFmt (fieldsMArgs a)))
  | .st a => some (word 0x181 (pack mFmt (fieldsMArgs a)))
  | .ldc a => some (word 0x182 (pack mFmt (fieldsLdcArgs a)))
  | .stc a => some (word 0x183 (pack mFmt (fieldsLdcArgs a)))
  | .pf a => some (word 0x184 (pack mFmt (fieldsMArgs a)))
  | .cwb a => some (word 0x185 (pack mFmt (fieldsMArgs a)))
  | .cinv a => some (word 0x186 (pack mFmt (fieldsMArgs a)))
  | .accrd a => some (word 0x187 (pack tFmt (fieldsTArgs a)))
  | .accwr a => some (word 0x188 (pack tFmt (fieldsTArgs a)))
  | .cbnd a => some (word 0x189 (pack kFmt (fieldsCbndArgs a)))
  | .cadr a => some (word 0x18A (pack kFmt (fieldsCopArgs a)))
  | .cinc a => some (word 0x18B (pack kFmt (fieldsCopArgs a)))
  | .cprm a => some (word 0x18C (pack kFmt (fieldsCopArgs a)))
  | .cget a => some (word 0x18D (pack kFmt (fieldsCgetArgs a)))
  | .cmov a => some (word 0x18E (pack kFmt (fieldsCmovForm a)))
  | .ctst a => some (word 0x18F (pack kFmt (fieldsCtstArgs a)))
  | .atom a => some (word 0x1C0 (pack aFmt (fieldsAtomArgs a)))
  | .red a => some (word 0x1C1 (pack aFmt (fieldsRedArgs a)))
  | .cas a => some (word 0x1C2 (pack aFmt (fieldsCasArgs a)))
  | .fence a => some (word 0x1C3 (pack bFmt (fieldsFence a)))
  | .bar a => some (word 0x1C4 (pack bFmt (fieldsBarArgs a)))
  | .barv a => some (word 0x1C5 (pack bFmt (fieldsBarArgs a)))
  | .barw a => some (word 0x1C6 (pack bFmt (fieldsBarw a)))
  | .gbar => some (word 0x1C7 0)
  | .qenq a => some (word 0x1C8 (pack qFmt (fieldsQArgs a)))
  | .qdeq a => some (word 0x1C9 (pack qFmt (fieldsQArgs a)))
  | .qrsv a => some (word 0x1CA (pack qFmt (fieldsQArgs a)))
  | .qcmt a => some (word 0x1CB (pack qFmt (fieldsQArgs a)))
  | .qtake a => some (word 0x1CC (pack qFmt (fieldsQArgs a)))
  | .qdone a => some (word 0x1CD (pack qFmt (fieldsQArgs a)))
  | .qinit a => some (word 0x1CE (pack qFmt (fieldsQArgs a)))
  | .qstat a => some (word 0x1CF (pack qFmt (fieldsQArgs a)))
  | .qclose a => some (word 0x1D0 (pack qFmt (fieldsQArgs a)))
  | .cp a => some (word 0x200 (pack yFmt (fieldsCpArgs a)))
  | .cpt a => some (word 0x201 (pack yFmt (fieldsCptArgs a)))
  | .seal => some (word 0x202 0)
  | .wait a => some (word 0x203 (pack eFmt (fieldsWaitArgs a)))
  | .stoke a => some (word 0x204 (pack cstokeFmt (fieldsOff a)))
  | .loop a => some (word 0x205 (pack lFmt (fieldsLoopArgs a)))
  | .mma a => some (word 0x206 (pack xFmt (fieldsMmaArgs a)))
  | .mconv a => some (word 0x207 (pack xFmt (fieldsMmaArgs a)))
  | .sfin => some (word 0x208 0)
  | .shpld a => some (word 0x209 (pack mFmt (fieldsShpldArgs a)))
  | .tstamp t d => some (word 0x280 (pack vFmt (fieldsTstamp (t, d))))
  | .ctrrd a => some (word 0x281 (pack viFmt (fieldsDImmArgs a)))
  | .srd a => some (word 0x282 (pack viFmt (fieldsDImmArgs a)))
  | .swr a => some (word 0x283 (pack viFmt (fieldsSImmArgs a)))
  | .tlbinv a => some (word 0x284 (pack viFmt (fieldsSImmArgs a)))
  | .sleep a => some (word 0x285 (pack jFmt (fieldsCnt a)))
  | .errinj a => some (word 0x286 (pack mFmt (fieldsErrinjArgs a)))
  | .unallocatedOpcode w => some w
  | _ => none

end Sys2Proof
end

