-- ==== Sys2Proof/Machine/Num.lean ====
section
/-! DEFINITION. Number formats and exact arithmetic (R46 to R63): packing of elements, integers, binary
floats and L6 as exact values, and the one rounding at the end. -/

namespace Sys2Proof

/-- Types whose values are signed integers. -/
def Ty.signed : Ty → Bool
  | .s32 | .s16 | .s8 | .s64 => true
  | _ => false

/-- Integer types, b types included (R295). -/
def Ty.isInt (t : Ty) : Bool := intTys.contains t

/-- Types of class 4 (R302). -/
def Ty.isFlt (t : Ty) : Bool := fltTys.contains t

end Sys2Proof

namespace Sys2Proof.Machine

/-! ## Elements of a lane -/

/-- Width of an element of the type in bits (R46). -/
def elemBits : Ty → Nat
  | .f16 | .bf16 | .s16 | .n16 => 16
  | .e4m3 | .e5m2 | .s8 | .n8 => 8
  | .l6 => 6
  | .s64 | .n64 | .b64 => 64
  | _ => 32

/-- The elements of a lane value, position 0 first (R47). -/
def elems (t : Ty) (x : Dword) : List Nat :=
  (List.range t.count).map fun i => x.toNat / 2 ^ (elemBits t * i) % 2 ^ elemBits t

/-- The lane value that holds the elements; the bits of l6 above bit 29 are zero. -/
def packElems (t : Ty) (es : List Nat) : Dword :=
  BitVec.ofNat 64
    ((es.zipIdx.map fun (e, i) => (e % 2 ^ elemBits t) * 2 ^ (elemBits t * i)).sum)

/-! ## Integers (R49) -/

/-- The value of a `w`-bit element, signed or not. -/
def toInt (signed : Bool) (w : Nat) (x : Nat) : Int :=
  if signed && 2 ^ (w - 1) ≤ x then (x : Int) - 2 ^ w else x

/-- The value of an element of an integer type. -/
def intOf (t : Ty) (x : Nat) : Int := toInt t.signed (elemBits t) x

/-- The bits of an integer modulo 2^w. -/
def wrap (w : Nat) (v : Int) : Nat := (v % (2 ^ w : Int)).toNat

/-- Ends of the range of a `w`-bit integer. -/
def intMin (signed : Bool) (w : Nat) : Int := if signed then -(2 ^ (w - 1)) else 0
def intMax (signed : Bool) (w : Nat) : Int := if signed then 2 ^ (w - 1) - 1 else 2 ^ w - 1

/-- The nearest value of the range. -/
def clamp (signed : Bool) (w : Nat) (v : Int) : Int :=
  max (intMin signed w) (min (intMax signed w) v)

/-- An integer result: wrapped, or clamped with SAT (R49). -/
def intResult (t : Ty) (sat : Bool) (v : Int) : Nat :=
  wrap (elemBits t) (if sat then clamp t.signed (elemBits t) v else v)

/-- Bits set. -/
def popCount (w x : Nat) : Nat := ((List.range w).filter fun i => x.testBit i).length

/-- Leading zero bits of a `w`-bit value. -/
def leadingZeros (w x : Nat) : Nat := if x = 0 then w else w - 1 - Nat.log2 x

/-- The bits in reverse order. -/
def bitReverse (w x : Nat) : Nat :=
  ((List.range w).map fun i => if x.testBit i then 2 ^ (w - 1 - i) else 0).sum

/-- The bit field of `kbfe` and `bfe` (R282): position in bits 7:0 of the control, length in bits 15:8;
bits at or above the width read as 0, or as the sign bit of a signed type. -/
def bitField (t : Ty) (x ctl : Nat) : Nat :=
  let w := elemBits t
  let pos := ctl % 256
  let len := ctl / 256 % 256
  let f := wrap len (intOf t x / 2 ^ pos)
  if len = 0 then 0 else wrap w (toInt t.signed len f)

/-- `bfi` (R296). -/
def bitInsert (t : Ty) (base field ctl : Nat) : Nat :=
  let w := elemBits t
  let pos := ctl % 256
  let len := ctl / 256 % 256
  ((List.range w).map fun i =>
    let b := if pos ≤ i && i < pos + len then field.testBit (i - pos) else base.testBit i
    if b then 2 ^ i else 0).sum

/-! ## Exact values -/

/-- An exact value: not a number, an infinity, a zero, or m × 2^e with m ≠ 0. -/
inductive ExactNum where
  | nan
  | inf (neg : Bool)
  | zero (neg : Bool)
  | fin (m : Int) (e : Int)
deriving DecidableEq, Repr

/-- m × 2^e, or +0. -/
def ExactNum.of (m e : Int) : ExactNum := if m = 0 then .zero false else .fin m e

def ExactNum.neg : ExactNum → ExactNum
  | .nan => .nan
  | .inf s => .inf !s
  | .zero s => .zero !s
  | .fin m e => .fin (-m) e

def ExactNum.isNeg : ExactNum → Bool
  | .nan => false
  | .inf s => s
  | .zero s => s
  | .fin m _ => m < 0

/-- m × 2^k for an exponent of either sign, over the common denominator 2^(-lo). -/
def scaleTo (lo : Int) (m e : Int) : Int := m * 2 ^ (e - lo).toNat

/-- Exact sum of two finite values. -/
def addFin (m1 e1 m2 e2 : Int) : Int × Int :=
  let lo := min e1 e2
  (scaleTo lo m1 e1 + scaleTo lo m2 e2, lo)

/-- The sum; `rd` says that an exact sum of zero is -0 (R302). -/
def ExactNum.add (rd : Bool) : ExactNum → ExactNum → ExactNum
  | .nan, _ | _, .nan => .nan
  | .inf a, .inf b => if a = b then .inf a else .nan
  | .inf a, _ | _, .inf a => .inf a
  | .zero a, .zero b => if a = b then .zero a else .zero rd
  | .zero _, x | x, .zero _ => x
  | .fin m1 e1, .fin m2 e2 =>
    let (m, e) := addFin m1 e1 m2 e2
    if m = 0 then .zero rd else .fin m e

/-- The product; ∞ × 0 is NaN. -/
def ExactNum.mul : ExactNum → ExactNum → ExactNum
  | .nan, _ | _, .nan => .nan
  | .inf _, .zero _ | .zero _, .inf _ => .nan
  | .inf a, y => .inf (a != y.isNeg)
  | x, .inf b => .inf (x.isNeg != b)
  | .zero a, y => .zero (a != y.isNeg)
  | x, .zero b => .zero (x.isNeg != b)
  | .fin m1 e1, .fin m2 e2 => .fin (m1 * m2) (e1 + e2)

/-- Multiply by 2^k. -/
def ExactNum.scale (k : Int) : ExactNum → ExactNum
  | .fin m e => .fin m (e + k)
  | x => x

/-- a ≤ b for finite values and infinities, both zeros equal; false with NaN. -/
def ExactNum.le : ExactNum → ExactNum → Bool
  | .nan, _ | _, .nan => false
  | .inf true, _ => true
  | _, .inf false => true
  | .inf false, _ => false
  | _, .inf true => false
  | x, y =>
    let p : ExactNum → Int × Int := fun z => match z with | .fin m e => (m, e) | _ => (0, 0)
    let (m1, e1) := p x
    let (m2, e2) := p y
    let lo := min e1 e2
    scaleTo lo m1 e1 ≤ scaleTo lo m2 e2

def ExactNum.lt (x y : ExactNum) : Bool := ExactNum.le x y && !(ExactNum.le y x)
def ExactNum.eqv (x y : ExactNum) : Bool := ExactNum.le x y && ExactNum.le y x
def ExactNum.isNan : ExactNum → Bool
  | .nan => true
  | _ => false

/-- The lesser value, -0 below +0; a NaN gives way to the other operand (R302). -/
def ExactNum.min (x y : ExactNum) : ExactNum :=
  if x.isNan then y else if y.isNan then x
  else if ExactNum.lt x y then x else if ExactNum.lt y x then y
  else if x.isNeg then x else y

/-- The greater value. -/
def ExactNum.max (x y : ExactNum) : ExactNum :=
  if x.isNan then y else if y.isNan then x
  else if ExactNum.lt x y then y else if ExactNum.lt y x then x
  else if x.isNeg then y else x

/-! ## Binary floats (R50) -/

/-- Exponent bits, fraction bits, bias. -/
structure FloatFmt where
  ebits : Nat
  fbits : Nat
  bias  : Nat
deriving DecidableEq, Repr

def floatFmt : Ty → FloatFmt
  | .f16 => ⟨5, 10, 15⟩
  | .bf16 => ⟨8, 7, 127⟩
  | .e4m3 => ⟨4, 3, 7⟩
  | .e5m2 => ⟨5, 2, 15⟩
  | _ => ⟨8, 23, 127⟩

/-- The canonical NaN (R50). -/
def canonNan : Ty → Nat
  | .f16 => 0x7E00
  | .bf16 => 0x7FC0
  | .e4m3 => 0x7F
  | .e5m2 => 0x7E
  | .l6 => 0x20
  | _ => 0x7FC00000

/-- The encoding of the largest finite value (R51). -/
def maxFinite : Ty → Nat
  | .f16 => 0x7BFF
  | .bf16 => 0x7F7F
  | .e4m3 => 0x7E
  | .e5m2 => 0x7B
  | _ => 0x7F7FFFFF

/-- The encoding of +∞; e4m3 has none and writes NaN (R54). -/
def infCode : Ty → Nat
  | .f16 => 0x7C00
  | .bf16 => 0x7F80
  | .e4m3 => 0x7F
  | .e5m2 => 0x7C
  | _ => 0x7F800000

/-- The sign bit of an element. -/
def signBit (t : Ty) (neg : Bool) : Nat := if neg then 2 ^ (elemBits t - 1) else 0

/-- The exact value of a binary float element (R50). -/
def floatOf (t : Ty) (x : Nat) : ExactNum :=
  let f := floatFmt t
  let neg := x.testBit (elemBits t - 1)
  let e := x / 2 ^ f.fbits % 2 ^ f.ebits
  let m := x % 2 ^ f.fbits
  let sgn : Int → Int := fun v => if neg then -v else v
  if t = .e4m3 ∧ x % 128 = 127 then .nan
  else if t ≠ .e4m3 ∧ e = 2 ^ f.ebits - 1 then (if m = 0 then .inf neg else .nan)
  else if e = 0 then
    (if m = 0 then .zero neg else .fin (sgn m) (1 - f.bias - f.fbits))
  else .fin (sgn (m + 2 ^ f.fbits)) ((e : Int) - f.bias - f.fbits)

/-- Round the magnitude a × 2^(-k) to an integer under a mode for the given sign (R53). -/
def roundShift (mode : Rnd) (neg : Bool) (a k : Nat) : Nat :=
  let q := a / 2 ^ k
  let r := a % 2 ^ k
  let up : Bool := match mode with
    | .rne => 2 * r > 2 ^ k || (2 * r = 2 ^ k && q % 2 = 1)
    | .rz => false
    | .ru => !neg && r != 0
    | .rd => neg && r != 0
  if up then q + 1 else q

/-- True when a finite value never overflows under the mode (R54). -/
def towardZero (mode : Rnd) (neg : Bool) : Bool :=
  match mode with
  | .rne => false
  | .rz => true
  | .ru => neg
  | .rd => !neg

/-- The encoding of an overflowing result (R54). -/
def overflowCode (t : Ty) (sat neg : Bool) : Nat :=
  if sat then maxFinite t + signBit t neg
  else if t = .e4m3 then canonNan t else infCode t + signBit t neg

/-- The encoding of a value in a binary float format: one rounding (R53), then R54. An infinite value
stays infinite, SAT or not (log 61, DEDUCED). -/
def roundFloat (t : Ty) (mode : Rnd) (sat : Bool) : ExactNum → Nat
  | .nan => canonNan t
  | .inf s => if t = .e4m3 then canonNan t else infCode t + signBit t s
  | .zero s => signBit t s
  | .fin m e =>
    let f := floatFmt t
    let neg : Bool := m < 0
    let a := m.natAbs
    let top : Int := e + Nat.log2 a
    let emin : Int := 1 - f.bias
    let ex := max top emin
    let q := ex - f.fbits
    let n := if q ≤ e then a * 2 ^ (e - q).toNat else roundShift mode neg a (q - e).toNat
    let code := (ex - emin).toNat * 2 ^ f.fbits + n
    if maxFinite t < code then
      (if towardZero mode neg then maxFinite t + signBit t neg else overflowCode t sat neg)
    else code + signBit t neg

/-! ## L6 (R55, R56, R63) -/

/-- T[f] of R56. -/
def l6Table : Nat → Nat
  | 0 => 4194304
  | 1 => 4987896
  | 2 => 5931642
  | _ => 7053950

/-- The linear value of an l6 code at scale 127 (R56). -/
def l6Of (x : Nat) : ExactNum :=
  let c := x % 32
  let neg := x.testBit 5
  if c = 0 then (if neg then .nan else .zero false)
  else
    let q : Int := (c : Int) - 16
    let t : Int := l6Table (q % 4).toNat
    .fin (if neg then -t else t) (q / 4 - 22)

/-- a × 2^e exceeds 2^((2 j + 1 - 32) / 8), the midpoint above code j; no dyadic value lies on it. -/
def aboveMid (a : Nat) (e : Int) (j : Nat) : Bool :=
  let k : Int := 8 * e - (2 * (j : Int) + 1 - 32)
  if 0 ≤ k then 1 < a ^ 8 * 2 ^ k.toNat else 2 ^ (-k).toNat < a ^ 8

/-- The l6 code of a value (R63). -/
def l6Code : ExactNum → Nat
  | .nan => 0x20
  | .inf s => 31 + (if s then 32 else 0)
  | .zero _ => 0
  | .fin m e =>
    let c := ((List.range 31).filter fun j => aboveMid m.natAbs e j).length
    if c = 0 then 0 else c + (if m < 0 then 32 else 0)

/-! ## Conversion (R62) -/

/-- The linear value of an element at scale 127. -/
def valueOf (t : Ty) (x : Nat) : ExactNum :=
  if t = .l6 then l6Of x
  else if t.isInt then ExactNum.of (intOf t x) 0
  else floatOf t x

/-- An exact value rounded to an integer. -/
def roundInt (mode : Rnd) (m e : Int) : Int :=
  if 0 ≤ e then m * 2 ^ e.toNat
  else
    let q : Int := roundShift mode (m < 0) m.natAbs (-e).toNat
    if m < 0 then -q else q

/-- The element of a type that a value converts to. `fromInt` says that the source is an integer: such
a value wraps into an integer type unless SAT is set (R312); a float value always saturates (R62). -/
def convertTo (t : Ty) (mode : Rnd) (sat fromInt : Bool) (v : ExactNum) : Nat :=
  if t = .l6 then l6Code v
  else if t.isInt then
    match v with
    | .nan => 0
    | .inf s => wrap (elemBits t) (if s then intMin t.signed (elemBits t) else intMax t.signed (elemBits t))
    | .zero _ => 0
    | .fin m e => intResult t (sat || !fromInt) (roundInt mode m e)
  else
    match v with
    | .inf s => overflowCode t sat s
    | v => roundFloat t mode sat v

/-! ## Immediates (R57) -/

/-- The lane value of a 16-bit immediate under a type. -/
def expandImm (t : Ty) (imm : BitVec 16) : Dword :=
  let i := imm.toNat
  match t with
  | .s32 => (imm.signExtend 32).setWidth 64
  | .s64 => imm.signExtend 64
  | .s16 | .n16 | .f16 | .bf16 => BitVec.ofNat 64 (i * 65537)
  | .s8 | .n8 | .e4m3 | .e5m2 => BitVec.ofNat 64 (i * 65537)
  | .f32 => BitVec.ofNat 64 (i * 65536)
  | .l6 => packElems .l6 (List.replicate 5 (i % 64))
  | _ => BitVec.ofNat 64 i

/-- An l6 immediate with a bit above bit 5 is an illegal operand (R57). -/
def immOk (t : Ty) (imm : BitVec 16) : Bool := t != .l6 || imm.toNat < 64

end Sys2Proof.Machine
end

