-- ==== Sys2Proof/Machine/Data.lean ====
section
/-! DEFINITION. The parts that the state of the machine is made of, all of them plain data. Tables are
sorted lists of keys and values; the operations over them are in Tab.lean. -/

namespace Sys2Proof.Machine

/-- A table: keys strictly rising. -/
structure Tab (α : Type) where
  cells : List (Nat × α)
deriving DecidableEq, Repr

/-- Bytes of memory by address: a list of `Host.Cell` with keys strictly rising and no byte equal to
what an unlisted address reads as. -/
abbrev Memory := Tab Byte

/-! ## Faults of a lane -/

/-- A fault of one lane (R221, R222), with what its error record carries (R227). -/
structure LaneFault where
  code     : Byte
  addr     : Dword := 0
  detail   : Nat := 0
  operand  : Nat := 0
  space    : Nat := 0
  size     : Nat := 0
  observed : Word := 0
deriving DecidableEq, Repr

/-! ## Registers -/

/-- A 32-bit register element and its poison bit (R70). -/
structure Elem where
  bits   : Word
  poison : Bool
deriving DecidableEq, Repr

/-- A format tag (R58). -/
structure Tag where
  fmt   : Ty
  valid : Bool
  scale : Byte
deriving DecidableEq, Repr

/-- A capability and its hidden tag bit (R79, R92). -/
structure Cap where
  w0  : Dword
  w1  : Dword
  tag : Bool
deriving DecidableEq, Repr

/-- A Stoker scalar: 64 bits and a poison bit for each half (R84). -/
structure SReg where
  bits : Dword
  plo  : Bool
  phi  : Bool
deriving DecidableEq, Repr

/-- A register a group can wait for or write late: a main-file row relative to the group's first row,
a near register, a uniform register, or a Stoker scalar. -/
inductive Reg where
  | v (row : Nat) | n (i : Nat) | k (i : Nat) | s (i : Nat)
deriving DecidableEq, Repr

/-- One element write that a load makes when it lands, the fabric port that a peer's data comes through (R396), and the
scratchpad word that it comes from: core, word, and which 32 bits of it (R138). -/
structure LaneWrite where
  reg  : Reg
  lane : Nat
  elem : Elem
  port : Option Nat := none
  word : Option (Nat × Nat × Nat) := none
deriving DecidableEq, Repr

/-! ## Fibres and groups -/

/-- Why a batch is not ready (R41). Times are front-end cycles of its cluster, or nanoseconds. -/
inductive Wait where
  /-- At an `rcv`, until the cycle named at most (R271). -/
  | rcv (limit : Nat)
  /-- After `yield`, until the cycle named at most (R272). -/
  | yielded (limit : Nat)
  /-- After `pause` (R272). -/
  | paused (limit : Nat)
  /-- After `sleep`, until TIME reaches the value (R363). -/
  | sleeping (time : Nat)
  /-- In `wait` on an engine counter (R350). -/
  | engine (cls : EngClass) (thresh : Nat)
  /-- Parked on a queue's wait list (R177). -/
  | queue (home : Nat)
  /-- Told that the home's wait table is full; retries at the cycle named (R177). -/
  | queueRetry (limit : Nat)
  /-- In `bar` or `barw` of a barrier, or in `gbar` as barrier 16, until the generation in which the
  group arrives has completed (R338, R339). -/
  | barrier (id : Nat)
  /-- In `stoke`, until no stream runs on the core (R351). -/
  | stoke
  /-- In `sfin`, until the stream's counters stand at 0 (R352). -/
  | sfin
  /-- For page walks of the die (R195). -/
  | walk (pages : List Nat)
  /-- In `tlbinv`, until the invalidation is complete (R362). -/
  | tlbinv (id : Nat)
  /-- For a permit of an engine queue (R39). -/
  | permit
  /-- For the refresh windows of physical Folio bank groups to close (R112). -/
  | window (gates : List Nat)
deriving DecidableEq, Repr

/-- A predicate block in progress (R248): instructions still covered, the pattern shifted to the next
one, and the fibre's g. -/
structure Block where
  left    : Nat
  pattern : BitVec 8
  g       : Bool
deriving DecidableEq, Repr

/-- A fibre (R14) with its trap registers (R86) and hidden state (R233). -/
structure Fibre where
  /-- PC, 52 bits. -/
  pc       : Addr
  /-- Predicate word p0 to p15. -/
  pred     : BitVec 16
  /-- WBASE, 12 bits. -/
  wbase    : BitVec 12
  /-- Strand start, read as STRANDPC. -/
  strand   : Addr
  /-- Survivors of the current strand; none before the first header. -/
  surv     : Option StrandArgs
  /-- The next instruction must be a header (R28). -/
  needHdr  : Bool
  /-- The fibre belongs to a trap-handler batch (R223). -/
  handler  : Bool
  trapCause : Word
  trapPc   : Dword
  trapAddr : Dword
  trapInfo : Dword
  trapMask : Word
  /-- Resume point (R223). -/
  resume   : Addr
  /-- The fault code that the handler was entered for, and where (R278). -/
  entryCode : Byte
  entryPc  : Addr
  /-- TRAPPC written since handler entry (R223). -/
  pcWritten : Bool
  /-- Skip bit and the address of the `brk` it passes (R278). -/
  skip     : Option Addr
  /-- Arrived mask: named barriers 0 to 15 and the grid barrier (R337). -/
  arrived  : BitVec 17
  /-- Barriers whose generation in which the fibre's group arrived has completed (R338). -/
  released : BitVec 17
  /-- Predicate block in progress. -/
  block    : Option Block
  /-- What the fibre waits for. -/
  wait     : Option Wait
  /-- Parked on a fault that is not settled, with its code (R219, R226). -/
  parked   : Option Byte
  /-- Front-end cycle, counted from 1, of the fibre's last issue; 0 before its first (R42). -/
  age      : Nat
deriving DecidableEq, Repr

/-- One `vm` unit (R208). -/
structure VUnit where
  id   : Nat
  done : Bool
deriving DecidableEq, Repr

/-- A load whose results have not landed (R72): what it writes, which lanes' results a replay has
discarded (R30), and whether it is a `vm` unit. -/
structure Flight where
  id      : Nat
  lanes   : List Nat
  writes  : List LaneWrite
  regs    : List Reg
  tag     : Tag
  /-- Lanes of quads whose hidden tag it sets, by first row × 64 + lane (R82). -/
  quad    : List Nat
  /-- Lanes of quads that it loads, tagged or not, in the same numbering. -/
  quads   : List Nat
  unit    : Bool
  /-- Physical Folio bank groups that the load reads: it waits for their windows (R112). -/
  gates   : List Nat
deriving DecidableEq, Repr

/-- A fault that the `wait` retiring a copy raises (R118, R133, R350). -/
structure PendingFault where
  cls    : EngClass
  code   : Byte
  detail : Nat
  addr   : Dword
  /-- The first word of the poisoned granule (R227). -/
  observed : Word := 0
deriving DecidableEq, Repr

/-- A batch of copies (R209): copies that have joined, the ones still running, whether it is open, the
faults that its retirement leaves for a `wait` (R350), and the granules of memory that its completed copies have
written (R152). -/
structure CopyBatch where
  joined  : Nat
  running : List Nat
  isOpen  : Bool
  faults  : List PendingFault
  dests   : List Nat
deriving DecidableEq, Repr

/-- A register result not yet ready for a source read (R44). -/
structure Busy where
  reg   : Reg
  lanes : List Nat
  ready : Nat
deriving DecidableEq, Repr

/-- An element of a v or n register as it stood before the first slot wrote it in a front-end cycle: a lane exchange
on the other slot in that cycle reads it (R316, R319). -/
structure OldElem where
  cycle : Nat
  reg   : Reg
  lane  : Nat
  elem  : Elem
  tag   : Tag
  valid : Bool
deriving DecidableEq, Repr

/-- What a page walk found, kept for the lanes that wait to issue again (R195): nothing cached it. -/
structure WalkResult where
  page  : Nat
  level : Nat
  entry : Dword
  bad   : Bool
deriving DecidableEq, Repr

/-- A group (R12): its place on the core, registers, fibres, counters and engine state. Registers are
held by row (relative to the group's first row) × 64 + lane, and column tags by row × 8 + column. -/
structure Group where
  team    : Nat
  role    : Nat
  index   : Nat
  width   : Nat
  vregs   : Nat
  kregs   : Nat
  /-- TLANE of lane 0 (R13). -/
  tlane0  : Nat
  /-- Physical core. -/
  core    : Nat
  /-- First row of the core's file, and first column. -/
  row0    : Nat
  col0    : Nat
  rows    : Tab Elem
  tags    : Tab Tag
  /-- Lanes of quads whose hidden tag is set, by first row × 64 + lane (R82). -/
  quads   : List Nat
  near    : Tab Elem
  nearTags : Tab Tag
  /-- Valid bits of the near level, by register × 64 + lane (R25). -/
  nearValid : List Nat
  k       : Tab Elem
  c       : Tab Cap
  fibres  : Tab Fibre
  /-- In its core's active set (R34). -/
  active  : Bool
  /-- The front-end cycle since which the group waits to enter the active set (R34). -/
  waiting : Option Nat
  /-- Cycle of the last header the group executed (R35). -/
  lastHdr : Nat
  vm      : List VUnit
  ci      : List CopyBatch
  co      : List CopyBatch
  fx      : List CopyBatch
  flights : List Flight
  pending : List PendingFault
  energyHi : Word
  busy    : List Busy
  walks   : List WalkResult
  /-- MODEL. The counters of the group and of its context as they stood at the start of this cycle (R44). -/
  sampled : List Dword
  /-- MODEL. What the first slot has overwritten in this cycle (R316). -/
  old     : List OldElem
deriving DecidableEq, Repr

/-! ## Queues -/

/-- Which queue operation a parked batch performs. -/
inductive QOp where
  | enq | deq | rsv | take
deriving DecidableEq, Repr

/-- What a served lane is given: its status predicate and the words of its data destination. -/
structure QResult where
  lane  : Nat
  ok    : Bool
  words : List Word
deriving DecidableEq, Repr

/-- Who holds a reservation or a taken slot: CTXID, team, and group; group 0 is the team's Stoker. -/
structure Holder where
  ctx   : Word
  team  : Nat
  group : Nat
deriving DecidableEq, Repr

/-- A queue operation whose lanes are being served (R172, R177). `lanes` are the lanes still to be
served, with the words each enqueues; `active` the lanes that took part. -/
structure QWait where
  party   : Party
  holder  : Holder
  op      : QOp
  active  : List Nat
  lanes   : List (Nat × List Word)
  results : List QResult
  faults  : List (Nat × LaneFault)
  pc      : Addr
  core    : Nat
  /-- The scope of the operation, which the scope checker judges when a lane takes its slot (R157). -/
  scope   : Scope
  /-- The queue as the party names it, in the SIBLING layout (R167). -/
  qref    : Dword
  /-- The operands of the party's instruction, where its results go; none for an operation of the clerks. -/
  args    : Option QArgs
deriving DecidableEq, Repr

/-- What a queue's home holds beside the block in memory (R169, R174, R189). Indexes are the counts.
`served` holds operations whose lanes have all been served and whose batch is about to complete;
`held` those that found the home's wait table full and are retried (R177). `launchBy` names the context whose child
launch an element is, and that context's class (R189, R386); `answered` is the TIME of the home's last answer (R234). -/
structure QHome where
  committed : List Nat
  done      : List Nat
  void      : List Nat
  reserved  : Tab Holder
  taken     : Tab Holder
  launchBy  : Tab (Word × Nat)
  producers : List QWait
  consumers : List QWait
  served    : List QWait
  held      : List QWait
  answered  : Nat
deriving DecidableEq, Repr

/-! ## Teams and grids -/

/-- A named barrier (R337): expected count, Z, arrivals, generation, groups that have arrived. -/
structure Barrier where
  e       : Nat
  z       : Bool
  a       : Nat
  gen     : BitVec 32
  arrived : List Nat
deriving DecidableEq, Repr

/-- An error record or handler packet (R182, R227). -/
structure Packet where
  kind     : Byte
  code     : Byte
  detail   : BitVec 16
  party    : Word
  qref     : Dword
  pc       : Dword
  observed : Word
  core     : BitVec 7
  lane     : BitVec 6
deriving DecidableEq, Repr

/-- A team (R11): its cores in ascending logical order, the first core word of its segment on each, its
allocation, and its barriers. `started` is the TIME at which it was placed, less what it had run before;
`kill` holds the error records of a kill not yet carried out (R228), and `killed` says that one has been;
`drain` says that a pre-emption lets it run on to the cut (R230); `unlinked` holds the queue operations that
a pre-emption has taken out of their wait lists, by home (R185). -/
structure Team where
  grid    : Nat
  index   : Nat
  cores   : List Nat
  segs    : List Nat
  z       : Nat
  isMatrix : Bool
  groups  : List Nat
  bars    : Tab Barrier
  started : Nat
  kill    : Option (List Packet)
  killed  : Bool
  drain   : Bool
  unlinked : List (Nat × QWait)
deriving DecidableEq, Repr

/-- A role of a kernel descriptor (R381). -/
structure Role where
  width  : Nat
  count  : Nat
  vregs  : Nat
  kregs  : Nat
deriving DecidableEq, Repr

/-- A kernel descriptor (R381). -/
structure Kernel where
  entry    : Addr
  trapBase : Dword
  code     : Cap
  roles    : List Role
  scratch  : Nat
  isMatrix : Bool
  cores    : Nat
  acc      : BitVec 64
  ttime    : Nat
  folio    : List (Nat × Nat)
deriving DecidableEq, Repr

/-- Where a grid stands (R384, R385). -/
inductive GridStatus where
  | admitted | running | saved | killed
deriving DecidableEq, Repr

/-- A loop of a stream's nest (R353). -/
structure Loop where
  first : Addr
  last  : Addr
  left  : Nat
deriving DecidableEq, Repr

/-- A tensor shape record (R199) with the capability it was loaded with. -/
structure Shape where
  cap    : Cap
  space  : Nat
  fmt    : Ty
  ndim   : Nat
  scv    : Bool
  folio  : Bool
  causal : Bool
  trans  : Bool
  pad    : BitVec 16
  ext    : List Nat
  stride : List Int
  cmask  : BitVec 4
  trows  : Nat
  tcols  : Nat
  win    : List Nat
  dil    : List Nat
  cst    : List Nat
  padb   : List Nat
  scoff  : Int
deriving DecidableEq, Repr

/-- A Stoker stream (R37). -/
structure Stream where
  owner   : Nat
  pc      : Addr
  s       : Tab SReg
  pred    : BitVec 16
  slots   : Tab Shape
  loops   : List Loop
  /-- Running copy commands of the copy-load and copy-store queues. -/
  ci      : List Nat
  co      : List Nat
  wait    : Option Wait
  /-- Stopped by a fault, a kill or a pre-emption. -/
  stopped : Bool
  age     : Nat
  pending : List PendingFault
  walks   : List WalkResult
deriving DecidableEq, Repr

/-- Scratchpad contents of a team in a save image: bytes, granule tags and poisoned granules by team
offset (R233). -/
structure PadImage where
  bytes  : Memory
  tags   : List Nat
  poison : List Nat
deriving DecidableEq, Repr

/-- Tiles of one core in a save image. -/
structure TileImage where
  elems : Tab Elem
  tags  : Tab Tag
deriving DecidableEq, Repr

/-- One team of a save image, with its number (R233). -/
structure TeamImage where
  id      : Nat
  team    : Team
  groups  : List (Nat × Group)
  pad     : PadImage
  tiles   : List TileImage
  streams : List (Option Stream)
deriving DecidableEq, Repr

/-- A pre-emption in progress (R231): TIME of the request, TIME of the cut once it has been made, the lane cycles that each
cluster had counted at the cut, whether class 0 forces it (R217), and how often the watchdog has escalated in its tail
(R232). -/
structure Preempt where
  since  : Nat
  cut    : Option Nat
  lanes  : List (Nat × Nat)
  forced : Bool
  escalations : Nat
deriving DecidableEq, Repr

/-- A grid, that is, a context (R10, R89). -/
structure Grid where
  part     : Nat
  kernel   : Kernel
  tag      : Word
  cls      : Nat
  doneAddr : Dword
  teams    : Nat
  /-- Team indexes still to be placed, in order. -/
  unplaced : List Nat
  coresident  : Bool
  restartable : Bool
  /-- The tag of an outstanding packet that it waits for (R384): none once that packet has completed. -/
  afterTag : Option Word
  notBefore : Option Nat
  scalars  : List Word
  caps     : List Cap
  status   : GridStatus
  /-- TIME of its admission, from which a class-0 bound is measured (R390). -/
  admitted : Nat
  /-- Place in the order of admission, renewed when the grid goes behind its class (R389). -/
  order    : Nat
  slice    : Nat
  debt     : Nat
  wdog     : Nat
  preemptCut : Word
  /-- Kills counted for each team index (R228). -/
  kills    : Tab Nat
  parent   : Option Nat
  gbar     : Barrier
  preempt  : Option Preempt
  image    : List TeamImage
  /-- Last issue or completion, on TIME (R234). -/
  lastLive : Nat
deriving DecidableEq, Repr

/-! ## Cores, clusters, dies and slices -/

/-- A word of an L1 block (R104, R146, R147): the bytes this core has written since the block was last clean, and
whether the others are present. `poison` is what a read of a word that is `full` delivers; `hurt` says that what this
core has written is poisoned, and `whole` that one of its writes has covered the word, so that poison from before it is
gone (R116). -/
structure L1Word where
  data    : Granule
  full    : Bool
  mine    : BitVec 16
  tag     : Bool
  poison  : Bool
  hurt    : Bool
  whole   : Bool
  touched : Bool
deriving DecidableEq, Repr

/-- A scope-checker record (R156). -/
structure ScopeRec where
  line  : Nat
  scope : Scope
  part  : Nat
  core  : Nat
deriving DecidableEq, Repr

/-- A block of 1, 2, 4 or 8 words (R104); `pcIdx` is the predictor entry of the instruction that filled
it (R205), `keep` the cache hint (R105), `rel` the last release written into it, whose record reaches the
home with the block (R156). -/
structure L1Block where
  words : List L1Word
  keep  : Bool
  pcIdx : Nat
  rel   : Option ScopeRec
deriving DecidableEq, Repr

/-- An entry of the dirty-line FIFO (R106): a block by its first word, or a marker. -/
inductive FifoEntry where
  | block (w : Nat)
  | marker
deriving DecidableEq, Repr

/-- A cached translation (R195): partition, first byte and size of the page, and its leaf. -/
structure TlbEntry where
  part  : Nat
  base  : Nat
  size  : Nat
  entry : Dword
deriving DecidableEq, Repr

/-- A non-leaf entry in a die's walk cache (R195). -/
structure WalkEntry where
  part  : Nat
  level : Nat
  base  : Nat
  entry : Dword
deriving DecidableEq, Repr

/-- A page walk in flight (R195): who waits for it, on which core. -/
structure Walk where
  id    : Nat
  part  : Nat
  page  : Nat
  cores : List Nat
deriving DecidableEq, Repr

/-- A bypass latch (R22): elements by column position 0 to 63, and a tag for each column. -/
structure Latch where
  elems : Tab Elem
  tags  : Tab Tag
deriving DecidableEq, Repr

/-- An issue slot (R22 to R24): which batch the latches belong to, an open chain with the instructions
left in it, and a replayed strand that holds the slot up to an address. -/
structure Slot where
  owner : Option (Nat × List Nat)
  latch : List Latch
  chain : Nat
  hold  : Option Addr
deriving DecidableEq, Repr

/-- An access that waits at a core's banks (R125). `cls` is its priority: 0 operand A, 1 operand B, 2 copies into the
scratchpad, 3 copies out of it, 4 vector accesses, 5 atomics and queue operations. `unit` is the load, store, copy or
matrix command that is complete only once the access is, 0 for one that has waited for its writes itself; `beat` is
the step of a matrix command's operand fetch, and `elems` are the operand's elements in the word; `grid`, `off` and `pc`
say whose access it is, where, and of which instruction, for an error record. A write carries its
delta (R127); it is `done` once its data is written, and stays until its parity row is (R128). -/
structure PadReq where
  cls   : Nat
  unit  : Nat
  beat  : Nat
  grid  : Nat
  off   : Nat
  pc    : Dword
  bank  : Nat
  row   : Nat
  write : Bool
  delta : Granule
  done  : Bool
  elems : List Nat
deriving DecidableEq, Repr

/-- An error record that a scratchpad has still to send (R129, R132 to R134): the grid, the team offset, DETAIL, the PC and
the word as delivered. -/
structure PadNote where
  grid   : Nat
  off    : Nat
  detail : Nat
  pc     : Dword
  word   : Word
deriving DecidableEq, Repr

/-- The scratchpad of a core (R121 to R134). A word is named by bank × 1,536 + row; parity words by
their parity bank 64 to 79. -/
structure Spad where
  words   : Tab Granule
  tags    : List Nat
  poison  : List Nat
  /-- Parity-update queue of each parity group: rows and deltas, oldest first (R127). -/
  updates : Tab (List (Nat × Granule))
  retired : List Nat
  lost    : List Nat
  removed : List Nat
  /-- Front-end cycles of the last 8 corrected errors of each bank, newest first (R129). -/
  errors  : Tab (List Nat)
  /-- Words whose next read meets an uncorrectable or a corrected error (R364). -/
  ue      : List Nat
  ce      : List Nat
  /-- Accesses waiting for a bank or for their parity row, oldest first (R125, R128). -/
  reqs    : List PadReq
  /-- Error records to be sent. -/
  notes   : List PadNote
deriving DecidableEq, Repr

/-- An accepted matrix command with the operands it read (R153, R356). -/
structure MatCmd where
  id     : Nat
  tile   : Nat
  mode   : MMode
  m      : Nat
  n      : Nat
  k      : Nat
  fmtA   : Ty
  fmtB   : Ty
  /-- Elements of A by row × K + k and of B by k × N + column; none is an exact zero product. -/
  a      : List (Option Nat)
  b      : List (Option Nat)
  masked : List Bool
  poisonA : List Nat
  poisonB : List Nat
  scaleA : List Byte
  scaleB : List Byte
  gamma  : SReg
  /-- Physical Folio bank groups that the B operand is read from (R112). -/
  gates  : List Nat
deriving DecidableEq, Repr

/-- One unit of work of a copy: bytes from one place to another. Places are unified physical addresses,
team scratchpad offsets, or partition Folio offsets. -/
inductive Place where
  | mem (pa : Nat)
  | pad (team : Nat) (off : Nat)
  | folio (part : Nat) (off : Nat)
  | const (bytes : List Byte)
deriving DecidableEq, Repr

/-- One move of a copy: bytes, or bits of an l6 code (R348). -/
structure Move where
  src   : Place
  dst   : Place
  size  : Nat
  /-- For l6, the first bit at the source, the first bit at the destination, and how many; none for a plain move. -/
  l6    : Option (Nat × Nat × Nat)
  /-- Tags travel with whole granules (R97). -/
  tags  : Bool
  /-- The destination as the program addresses it. -/
  va    : Nat
deriving DecidableEq, Repr

/-- An accepted copy command (R345, R348). -/
structure Copy where
  id    : Nat
  party : Party
  team  : Nat
  cls   : EngClass
  scope : Scope
  moves : List Move
  /-- A write of it was lost with its port (R396). -/
  lost  : Option Nat
  /-- Ports that have gone down since it was accepted: its reads through them deliver poison, its writes are lost (R396). -/
  cut   : List Nat
deriving DecidableEq, Repr

/-- A core. -/
structure Core where
  l1      : Tab L1Block
  fifo    : List FifoEntry
  tlb     : List TlbEntry
  /-- Sizes of the L1 predictor that differ from 8 words (R205). -/
  predict : Tab Nat
  slots   : List Slot
  /-- What has issued in this cycle (R42): slot (2 for the Stoker), fibres as group × 64 + lane, reads of each
  register bank, and ports. -/
  issued  : List (Nat × List Nat × List Nat × List Nat)
  pad     : Spad
  scopes  : List ScopeRec
  tiles   : Tab Elem
  tileTags : Tab Tag
  stream  : Option Stream
  matq    : List MatCmd
  copies  : List Copy
  /-- RFGRANT.GRANT (R403). -/
  grant   : Nat
  cIssued : Dword
  packed  : Dword
  latchReplay : Dword
  actEvict : Dword
  parServed : Dword
  parStale : Dword
  /-- MODEL. The counters of the core, its cluster, its partition and the device as they stood at the start of this
  cycle (R44). -/
  sampled : List Dword
  /-- MODEL. Batches still to issue in the packed issue under way, with its slot (R19). -/
  packing : List (Nat × List Nat × Nat)
deriving DecidableEq, Repr

/-- A cluster: clock, droop state and the damper's counts. -/
structure Cluster where
  cycles   : Dword
  /-- Lane cycles that have passed (R3, R232). -/
  laneCycles : Nat
  droopEv  : Dword
  stretch  : Dword
  halved   : Dword
  /-- Clock bin 0 to 3: 1.05, 0.98, 0.91, 0.84 GHz (R397). -/
  bin      : Nat
  /-- LANECLK code (R86). -/
  ratio    : Nat
  droopCfg : Word
  /-- Cycles left of the two steps of a droop sequence (R404), and one more while the step lasts: 1 when
  its cycles have run out, 0 outside it. The first step counts from 8 where its alarm comes within a
  cycle: it begins with the next one. -/
  stretchLeft : Nat
  halvedLeft  : Nat
  /-- A ratio change: cycles of stall left and the new code (R402). -/
  stall    : Option (Nat × Nat)
  /-- Part of the cycle that has passed, in fifteenths of a cycle of the top bin (R3, R397). -/
  phase    : Nat
  tlb      : List TlbEntry
  /-- Batches issued in this damper interval, those of vector instructions among them, and intervals counted for the rules
  of R402. -/
  rate     : Nat
  vector   : Nat
  hot      : Nat
  cool     : Nat
  busyIntervals : List Nat
deriving DecidableEq, Repr

/-- A die. -/
structure Die where
  walks  : List Walk
  wcache : List WalkEntry
  /-- Open refresh windows of the 8 Folio bank groups (R112). -/
  windows : List Bool
deriving DecidableEq, Repr

/-- An L2 home slice. -/
structure Slice where
  scopes  : List ScopeRec
  /-- Two-bit contention counters that are not 0 (R203). -/
  predict : Tab Nat
  /-- Line ownership: the owning core and the atomics it has completed (R203). -/
  owners  : Tab (Nat × Nat)
deriving DecidableEq, Repr

/-! ## Partitions -/

/-- An invalidation in progress (R196): who asked, and the range; `none` covers the partition. -/
structure Invalidation where
  id    : Nat
  range : Option (Nat × Nat)
  byHost : Bool
deriving DecidableEq, Repr

/-- A FOLIO write in progress (R382). -/
structure FolioWrite where
  id   : Nat
  tag  : Word
  dest : Nat
  src  : Nat
  len  : Nat
  done : Dword
deriving DecidableEq, Repr

/-- A MARKER waiting for the earlier packets of the window (R382). -/
structure MarkerWait where
  id     : Nat
  tag    : Word
  done   : Dword
  before : List Nat
deriving DecidableEq, Repr

/-- A rung of the reset ladder in progress (R234): rung, target, TIME at which it was taken, and whether RESETREQ shows
it (R394). -/
structure Rung where
  level  : Nat
  target : Nat
  since  : Nat
  byHost : Bool
deriving DecidableEq, Repr

/-- A collective group (R397): the other members, the reports by round and member, the last excesses, rounds
since the last change, this round's slack, the number of the round on TIME, and the slack of the round before until it
is judged. -/
structure Collective where
  members : List Nat
  reports : List (Nat × Nat × Nat)
  excess  : List Nat
  since   : Nat
  slack   : Nat
  round   : Nat
  last    : Option Nat
deriving DecidableEq, Repr

/-- A partition (R387). -/
structure Part where
  /-- The map that the physical function has set; applied at the next partition reset. -/
  map      : PartMap
  /-- The remap table built at partition reset (R198): physical cores, slices, channels, bank groups. -/
  cores    : List Nat
  slices0  : List Nat
  slices1  : List Nat
  channels : List Nat
  folio    : List Nat
  /-- Root of the page table (R193). -/
  root     : Nat
  /-- Bases of the device queue table (R187) and the packet store (R188). -/
  qtable   : Nat
  store    : Nat
  slice    : Nat
  workQs   : List WorkQueueCfg
  invreq   : Dword
  pgresume : Dword
  errinj   : Bool
  feedTail : Word
  feedHead : Word
  /-- Bytes of a refused packet still to be skipped (R378). -/
  feedSkip : Nat
  feed     : Memory
  resetreq : Word
  energyHi : Word
  energy   : Dword
  hpdrop   : Dword
  invals   : List Invalidation
  /-- Tags of outstanding packets, and of the last 4,096 that completed, newest first, 0 for none (R378). -/
  tags     : List Word
  doneTags : List Word
  folios   : List FolioWrite
  markers  : List MarkerWait
  /-- Outstanding packets of the window, by number, in order (R382). -/
  pending  : List Nat
  /-- Packet number of each element of the launch queue by its index, and of each admitted grid by
  2^32 + its key. -/
  packetOf : List (Nat × Nat)
  /-- Page requests waiting: context and page (R226). -/
  pages    : List (Nat × Nat)
  group    : Option Collective
  /-- Rungs of the reset ladder in progress (R234). -/
  rungs    : List Rung
deriving DecidableEq, Repr

/-! ## The outside -/

/-- A vendor-defined algorithm of SPDM (R400). -/
inductive SpdmAlgorithm where
  | falcon1024 | shake256
deriving DecidableEq, Repr

/-- What the device sends out. -/
inductive Message where
  /-- MSI-X vector of a virtual function (R393). -/
  | interrupt (vf : Nat) (vector : Nat)
  /-- A host read of device memory completes, with the poisoned-data indication or not (R118). -/
  | readReply (bytes : List Byte) (poisoned : Bool)
  /-- The old value of a host AtomicOp (R392). -/
  | atomicReply (old : Dword) (poisoned : Bool)
  /-- A reply to a peer's request (R395). -/
  | peerReply (port : Nat) (bytes : List Byte) (poisoned : Bool)
  /-- The slack of a round (R397). -/
  | slack (part : Nat) (round : Nat) (value : Nat)
  /-- Replies on Yilup (R401). -/
  | status (held : Bool) (rung : Option Nat) (timestat : Dword) (rails : List Word)
  | log (records : List Packet)
  | partMap (maps : List PartMap)
  | accepted (ok : Bool)
  /-- Replies over DOE (R400). -/
  | spdm (kind : Nat) (words : List Nat)
  /-- The algorithms of SPDM: with which it signs and hashes, and whether they are vendor-defined (R400). -/
  | algorithms (sign hash : SpdmAlgorithm) (vendor : Bool)
deriving DecidableEq, Repr

/-- The instruction being executed: its party and lanes, the lanes in which a predicate block lets it
take effect, its issue slot, address and word. -/
structure Issue where
  party : Party
  lanes : List Nat
  eff   : List Nat
  slot  : Nat
  pc    : Addr
  word  : Dword
deriving DecidableEq, Repr

/-- The class of a float (R405). -/
inductive FloatClass where
  | zero | subnormal | normal | infinity | nan
deriving DecidableEq, Repr

/-- What a shadow unit forms of a float result: sign, class, and the exponent with the top 6 fraction bits as one integer
(R405). -/
structure ShadowForm where
  neg : Bool
  cls : FloatClass
  top : Nat
deriving DecidableEq, Repr

/-- An error in a shadow unit or in what it checks: for an element of an issue's lane, or of a matrix command's output
with the element's number as its lane, what the shadow forms. -/
structure ShadowUpset where
  unit : Nat
  lane : Nat
  elem : Nat
  form : ShadowForm
deriving DecidableEq, Repr

/-- Hardware errors to come, which only the outside world knows (log 8): what a shadow unit forms otherwise than the
result has it, by issue number (R405) and by matrix command (R221); uncorrectable errors of L1 words by
core and word (R107), of tile elements by core and element (R135), and of Folio sectors (R112). -/
structure Upsets where
  shadow : List ShadowUpset
  matrix : List ShadowUpset
  l1     : List (Nat × Nat)
  tile   : List (Nat × Nat)
  folio  : List Nat
deriving DecidableEq, Repr

/-- TIME and its source (R213, R398). -/
structure Clock where
  /-- TIME in nanoseconds, and the rest in 21-millionths of one. -/
  time     : Nat
  rest     : Nat
  /-- Parts per million by which the rate is adjusted. -/
  rate     : Int
  lock     : Bool
  src      : Nat
  offset   : Int
  /-- Measurements in a row within 100 ns. -/
  good     : Nat
  /-- PTP seconds of the next pulse. -/
  tod      : Option Nat
  /-- A step to make at the next partition reset. -/
  step     : Nat
deriving DecidableEq, Repr

end Sys2Proof.Machine
end

