-- ==== Sys2Proof/Machine/State.lean ====
section
/-! DEFINITION. The state of the machine, the reasons a step can stop, and the state after reset. -/

namespace Sys2Proof.Machine

/-- Reasons the machine stops with a fault. -/
inductive Fault where
  /-- A page-table leaf, a table, or firmware leads to a physical address that the device does not
  have (640 GiB of HBM, 16 GiB of Folio); raised by every access to memory by physical address.
  Safe: the manual gives such an access no effect. -/
  | noSuchMemory (pa : Nat)
deriving DecidableEq, Repr

/-- Reasons the machine refuses to go on. -/
inductive Refusal where
  /-- The instruction has no meaning in the model yet. Safe. -/
  | notModelled (mnemonic : String)
  /-- `exec` is asked for an event that cannot take place in this state; no step of the machine asks
  it of one of its own events. Safe: the manual has no such event there. -/
  | notEnabled (event : String)
  /-- `exec` is asked for an instruction while no party is issuing; no step of the machine does.
  Safe. -/
  | noIssue
deriving DecidableEq, Repr

/-- The state. Fields marked MODEL are the model's own. -/
structure State where
  /-- MODEL. Outside events waiting to take place, oldest first. -/
  inputs   : List Instr
  /-- MODEL. Which of the happenings that can take place now comes next, one number for each step;
  the number 0 when the list is empty (log 1). -/
  schedule : List Nat
  /-- MODEL. The instruction being executed. -/
  issue    : Option Issue
  /-- Issues so far: the order that the age matrix keeps (R42). -/
  seq      : Nat
  /-- MODEL. Next number for a load, copy, walk, grid, team or group. -/
  nextId   : Nat
  /-- MODEL. Free values taken so far (log 2). -/
  free     : Nat
  /-- Nominal front-end cycles on the refresh timer (R3, R112). -/
  nominal  : Nat
  clock    : Clock
  /-- Failed clusters, slices, channels and bank groups, which the fuses exclude (R198). -/
  fuses    : PartMap
  /-- Held in reset after a missed device rung (R234). -/
  held     : Bool
  /-- Rung 5 in progress since (R234). -/
  deviceRung : Option Nat
  /-- Image to install at the device rung, version in force, fused rollback counter (R400, R401). -/
  update   : Option Image
  firmware : Nat
  rollback : Nat
  /-- IRAIL0 to IRAIL7 (R216). -/
  rails    : Tab Word
  /-- The last 256 error records (R401). -/
  errors   : List Packet
  /-- MODEL. Hardware errors to come (log 8). -/
  upsets   : Upsets
  /-- MODEL. Messages sent out of the device, oldest first. -/
  outbox   : List Message
  /-- Device HBM, host memory and peer memory by unified physical address (log 7). -/
  mem      : Memory
  /-- Tagged granules of HBM, by address / 16 (R97). -/
  memTags  : List Nat
  /-- Poisoned 16-byte granules, by address / 16, as the home holds them (R103, log 9). -/
  poison   : List Nat
  /-- Sectors whose next fill meets a corrected error (R364). -/
  ceMarks  : List Nat
  /-- Folio bytes by physical bank group × 2^30 + offset, and poisoned sectors by address / 32. -/
  folio    : Memory
  folioPoison : List Nat
  /-- Cores by physical number die × 64 + cluster × 4 + core (R198). -/
  cores    : Tab Core
  /-- Clusters by physical number die × 16 + cluster. -/
  clusters : Tab Cluster
  dies     : Tab Die
  /-- Slices by die × 32 + slice. -/
  slices   : Tab Slice
  parts    : Tab Part
  /-- Fabric ports that are up (R396). -/
  ports    : List Bool
  /-- Grids by partition × 65,536 + context number (R89). -/
  grids    : Tab Grid
  teams    : Tab Team
  groups   : Tab Group
  /-- Queue homes by the block's place: its unified physical address, or for a scratchpad block
  2^70 + team × 2^32 + offset. -/
  queues   : Tab QHome
deriving DecidableEq, Repr

/-! ## Reset -/

/-- The scratchpad at reset: every word 0, all banks in service (log 4, DESIGN CHOICE). -/
def Spad.reset : Spad :=
  { words := ⟨[]⟩, tags := [], poison := [], updates := ⟨[]⟩, retired := [], lost := [],
    removed := [], errors := ⟨[]⟩, ue := [], ce := [], reqs := [], notes := [] }

/-- An issue slot with nothing in it. -/
def Slot.reset : Slot := { owner := none, latch := [], chain := 0, hold := none }

/-- A core at reset (R207, R212, R403) (log 4, DESIGN CHOICE). -/
def Core.reset : Core :=
  { l1 := ⟨[]⟩, fifo := [], tlb := [], predict := ⟨[]⟩, slots := [Slot.reset, Slot.reset],
    issued := [], pad := Spad.reset, scopes := [], tiles := ⟨[]⟩, tileTags := ⟨[]⟩, stream := none,
    matq := [], copies := [], grant := 4, cIssued := 0, packed := 0, latchReplay := 0,
    actEvict := 0, parServed := 0, parStale := 0, sampled := [], packing := [] }

/-- A cluster at reset: top bin, ratio 1, DROOPCFG 0x8000_0019 (R404) (log 3, DESIGN CHOICE). -/
def Cluster.reset : Cluster :=
  { cycles := 0, laneCycles := 0, droopEv := 0, stretch := 0, halved := 0, bin := 0, ratio := 1,
    droopCfg := 0x80000019, stretchLeft := 0, halvedLeft := 0, stall := none, phase := 0, tlb := [],
    rate := 0, vector := 0, hot := 0, cool := 0, busyIntervals := [] }

/-- A die at reset: bank group 0 stands in its window at nominal cycle 0 (R112) (log 4, DESIGN CHOICE). -/
def Die.reset : Die :=
  { walks := [], wcache := [], windows := [true, false, false, false, false, false, false, false] }

/-- A slice at reset: empty tables (log 4, DESIGN CHOICE). -/
def Slice.reset : Slice := { scopes := [], predict := ⟨[]⟩, owners := ⟨[]⟩ }

/-- A partition that owns nothing (log 5, DESIGN CHOICE). -/
def Part.reset : Part :=
  { map := { clusters := [], slices0 := [], slices1 := [], channels := [], folio := [] },
    cores := [], slices0 := [], slices1 := [], channels := [], folio := [], root := 0, qtable := 0,
    store := 0, slice := 10000000, workQs := [], invreq := 0, pgresume := 0, errinj := false,
    feedTail := 0, feedHead := 0, feedSkip := 0, feed := ⟨[]⟩, resetreq := 0, energyHi := 0, energy := 0,
    hpdrop := 0, invals := [], tags := [], doneTags := [], folios := [], markers := [],
    pending := [], packetOf := [], pages := [], group := none, rungs := [] }

/-- The whole device (log 5, DESIGN CHOICE). -/
def PartMap.whole : PartMap :=
  { clusters := List.range 32, slices0 := List.range 32, slices1 := List.range 32,
    channels := List.range 256, folio := List.range 16 }

/-- Nothing of the device. -/
def PartMap.empty : PartMap := { clusters := [], slices0 := [], slices1 := [], channels := [], folio := [] }

/-- Partition 0 at reset: it owns the whole device, the remap table is the identity; page-table root, queue
table and packet store stand where log 5 says (log 5, DESIGN CHOICE). -/
def Part.first : Part :=
  { Part.reset with
    map := PartMap.whole, cores := List.range 128, slices0 := List.range 32,
    slices1 := List.range 32, channels := List.range 256, folio := List.range 16,
    root := 0x40000000, qtable := 0x80000000, store := 0xC0000000 }

/-- A fresh queue home. -/
def QHome.reset : QHome :=
  { committed := [], done := [], void := [], reserved := ⟨[]⟩, taken := ⟨[]⟩, launchBy := ⟨[]⟩,
    producers := [], consumers := [], served := [], held := [], answered := 0 }

/-- The sixteen words of a control block as it is opened (R165, R168). -/
def qcbWords (config : Word) (slotBase sibling : Dword) (home owner : Word) : List Word :=
  let sb0 := slotBase.setWidth 32
  let sb1 := (slotBase >>> 32).setWidth 32
  let si0 := sibling.setWidth 32
  let si1 := (sibling >>> 32).setWidth 32
  [0, 0, 0, 0, BitVec.ofNat 32 (2 ^ ((config >>> 4).toNat % 32)), config, sb0, sb1, si0, si1,
   0xFFFFFFFF, 0xFFFFFFFF, home, owner, config ^^^ sb0 ^^^ sb1 ^^^ si0 ^^^ si1 ^^^ home ^^^ 0x5A5A5A5A,
   0]

/-- The non-zero bytes of a run of words from an address on. -/
def wordCells (base : Nat) (ws : List Word) : List Host.Cell :=
  (ws.zipIdx.flatMap fun (w, i) =>
    (List.range 4).map fun j => (base + 4 * i + j, BitVec.ofNat 8 (w.toNat / 256 ^ j))).filter
      fun c => c.2 != 0

/-- Memory after reset: the launch queue and the error queue of partition 0, opened by the clerks
(R187, R188); every other byte reads 0 (log 4). -/
def Memory.reset : Memory :=
  ⟨wordCells 0x80000000 (qcbWords 0x9084 0x1000 0 0x10 0)
    ++ wordCells 0x80000040 (qcbWords 0xD885 0x2000 0 0x10 0)⟩

/-- TIME at reset: 0, free-running (log 3, DESIGN CHOICE). -/
def Clock.reset : Clock :=
  { time := 0, rest := 0, rate := 0, lock := false, src := 0, offset := 0, good := 0, tod := none,
    step := 0 }

/-- The machine right after reset (log 3, DESIGN CHOICE) (log 4, DESIGN CHOICE). -/
def State.reset : State :=
  { inputs := [], schedule := [], issue := none, seq := 0, nextId := 1, free := 0, nominal := 0,
    clock := Clock.reset, fuses := PartMap.empty, held := false, deviceRung := none, update := none, firmware := 0,
    rollback := 0, rails := ⟨[]⟩, errors := [],
    upsets := { shadow := [], matrix := [], l1 := [], tile := [], folio := [] }, outbox := [], mem := Memory.reset, memTags := [],
    poison := [], ceMarks := [], folio := ⟨[]⟩, folioPoison := [], cores := ⟨[]⟩,
    clusters := ⟨[]⟩, dies := ⟨[]⟩, slices := ⟨[]⟩, parts := ⟨[(0, Part.first)]⟩,
    ports := List.replicate 8 true, grids := ⟨[]⟩, teams := ⟨[]⟩, groups := ⟨[]⟩, queues := ⟨[]⟩ }

end Sys2Proof.Machine
end

