-- ==== Sys2Proof/Machine/Tab.lean ====
section
/-! DEFINITION. Operations on tables, on sorted lists of numbers, and the accessors of the state's parts:
a part that a table does not list is at its reset value. -/

namespace Sys2Proof.Machine

variable {α : Type}

/-- The value at a key. -/
def Tab.find? (t : Tab α) (k : Nat) : Option α :=
  go t.cells
where
  go : List (Nat × α) → Option α
    | [] => none
    | (i, v) :: r => if i = k then some v else go r

/-- Insert or replace. -/
def Tab.insert (t : Tab α) (k : Nat) (v : α) : Tab α :=
  ⟨go t.cells⟩
where
  go : List (Nat × α) → List (Nat × α)
    | [] => [(k, v)]
    | (i, w) :: r => if k < i then (k, v) :: (i, w) :: r else if k = i then (k, v) :: r
        else (i, w) :: go r

/-- Remove a key. -/
def Tab.erase (t : Tab α) (k : Nat) : Tab α := ⟨t.cells.filter fun c => c.1 != k⟩

/-- The value at a key, or the default of the table. -/
def Tab.get (t : Tab α) (dflt : α) (k : Nat) : α := (t.find? k).getD dflt

/-- Write a value: the default is not listed. -/
def Tab.put [DecidableEq α] (t : Tab α) (dflt : α) (k : Nat) (v : α) : Tab α :=
  if v = dflt then t.erase k else t.insert k v

/-- The keys at which two tables differ. -/
def Tab.changed [DecidableEq α] (t u : Tab α) : List Nat :=
  if t = u then []
  else ((t.cells.filter fun x => decide (u.find? x.1 ≠ some x.2)) ++
    u.cells.filter fun x => (t.find? x.1).isNone).map (·.1)

/-- Keys strictly rising. -/
def sortedKeys : List (Nat × α) → Bool
  | (i, _) :: (j, w) :: r => i < j && sortedKeys ((j, w) :: r)
  | _ => true

/-- The canonical form: keys strictly rising, the default not listed. -/
def Tab.wf [DecidableEq α] (t : Tab α) (dflt : α) : Bool :=
  sortedKeys t.cells && t.cells.all fun c => decide (c.2 ≠ dflt)

/-- What an unlisted byte reads as (log 4, DESIGN CHOICE). -/
def Memory.default : Byte := 0

/-- The canonical form of memory. -/
abbrev Memory.wf (m : Memory) : Bool := Tab.wf m Memory.default

/-- The byte at an address. -/
def Memory.read (m : Memory) (a : Nat) : Byte := Tab.get m Memory.default a

/-- Write a byte. -/
def Memory.write (m : Memory) (a : Nat) (b : Byte) : Memory := Tab.put m Memory.default a b

/-! ## Sorted lists of numbers -/

/-- Insert a number, once. -/
def ninsert (k : Nat) : List Nat → List Nat
  | [] => [k]
  | i :: r => if k < i then k :: i :: r else if k = i then i :: r else i :: ninsert k r

/-- Remove a number. -/
def nerase (k : Nat) (l : List Nat) : List Nat := l.filter (· != k)

/-- Insert when the condition holds, else remove. -/
def nset (b : Bool) (k : Nat) (l : List Nat) : List Nat := if b then ninsert k l else nerase k l

/-! ## Lists -/

/-- Replace the entry at an index by its image. -/
def listModify (l : List α) (i : Nat) (f : α → α) : List α :=
  l.zipIdx.map fun (x, j) => if j = i then f x else x

/-! ## Parts of the state -/

def State.core (s : State) (i : Nat) : Core := s.cores.get Core.reset i
def State.cluster (s : State) (i : Nat) : Cluster := s.clusters.get Cluster.reset i
def State.die (s : State) (i : Nat) : Die := s.dies.get Die.reset i
def State.slice (s : State) (i : Nat) : Slice := s.slices.get Slice.reset i
def State.part (s : State) (i : Nat) : Part := s.parts.get Part.reset i

def State.setCore (s : State) (i : Nat) (c : Core) : State := { s with cores := s.cores.insert i c }
def State.setCluster (s : State) (i : Nat) (c : Cluster) : State :=
  { s with clusters := s.clusters.insert i c }
def State.setDie (s : State) (i : Nat) (d : Die) : State := { s with dies := s.dies.insert i d }
def State.setSlice (s : State) (i : Nat) (c : Slice) : State := { s with slices := s.slices.insert i c }
def State.setPart (s : State) (i : Nat) (p : Part) : State := { s with parts := s.parts.insert i p }
def State.setGroup (s : State) (i : Nat) (g : Group) : State := { s with groups := s.groups.insert i g }
def State.setTeam (s : State) (i : Nat) (t : Team) : State := { s with teams := s.teams.insert i t }
def State.setGrid (s : State) (i : Nat) (g : Grid) : State := { s with grids := s.grids.insert i g }

def State.modCore (s : State) (i : Nat) (f : Core → Core) : State := s.setCore i (f (s.core i))
def State.modCluster (s : State) (i : Nat) (f : Cluster → Cluster) : State :=
  s.setCluster i (f (s.cluster i))
def State.modDie (s : State) (i : Nat) (f : Die → Die) : State := s.setDie i (f (s.die i))
def State.modSlice (s : State) (i : Nat) (f : Slice → Slice) : State := s.setSlice i (f (s.slice i))
def State.modPart (s : State) (i : Nat) (f : Part → Part) : State := s.setPart i (f (s.part i))

/-- Change a group that exists. -/
def State.modGroup (s : State) (i : Nat) (f : Group → Group) : State :=
  match s.groups.find? i with
  | some g => s.setGroup i (f g)
  | none => s

def State.modTeam (s : State) (i : Nat) (f : Team → Team) : State :=
  match s.teams.find? i with
  | some t => s.setTeam i (f t)
  | none => s

def State.modGrid (s : State) (i : Nat) (f : Grid → Grid) : State :=
  match s.grids.find? i with
  | some g => s.setGrid i (f g)
  | none => s

/-- A queue's home. -/
def State.queue (s : State) (i : Nat) : QHome := s.queues.get QHome.reset i

def State.setQueue (s : State) (i : Nat) (q : QHome) : State :=
  { s with queues := s.queues.insert i q }

/-- A fresh number. -/
def State.fresh (s : State) : Nat × State := (s.nextId, { s with nextId := s.nextId + 1 })

/-- Change one fibre of a group. -/
def Group.modFibre (g : Group) (l : Nat) (f : Fibre → Fibre) : Group :=
  match g.fibres.find? l with
  | some x => { g with fibres := g.fibres.insert l (f x) }
  | none => g

/-- Change the fibres of some lanes. -/
def Group.modFibres (g : Group) (ls : List Nat) (f : Nat → Fibre → Fibre) : Group :=
  { g with fibres := ⟨g.fibres.cells.map fun (l, x) => if ls.contains l then (l, f l x) else (l, x)⟩ }

/-- Cluster of a physical core, die of a physical core. -/
def clusterOf (core : Nat) : Nat := core / 4
def dieOf (core : Nat) : Nat := core / 64

end Sys2Proof.Machine
end

