-- ==== Sys2Proof/Machine/Regs.lean ====
section
/-! DEFINITION. Register files: main file, near level, uniform registers, capability registers, latches,
predicate words and Stoker scalars, and the landing of loads. -/

namespace Sys2Proof.Machine

/-- An element that has not been written: zero, clear (R71). -/
def Elem.zero : Elem := { bits := 0, poison := false }

/-- A column tag at group start (R71). -/
def Tag.start : Tag := { fmt := .b32, valid := false, scale := 127 }

/-- The tag of a result: type, valid, scale 127 (R59). -/
def Tag.of (t : Ty) : Tag := { fmt := t, valid := true, scale := 127 }

/-- The null capability, untagged. -/
def Cap.null : Cap := { w0 := 0, w1 := 0, tag := false }

def SReg.zero : SReg := { bits := 0, plo := false, phi := false }

/-! ## Reading -/

/-- The element of a register in a lane. -/
def Group.elem (g : Group) (r : Reg) (l : Nat) : Elem :=
  match r with
  | .v row => g.rows.get Elem.zero (row * 64 + l)
  | .n i => g.near.get Elem.zero (i * 64 + l)
  | .k i => g.k.get Elem.zero i
  | .s _ => Elem.zero

/-- The tag of a register in the column of a lane. -/
def Group.tag (g : Group) (r : Reg) (l : Nat) : Tag :=
  match r with
  | .v row => g.tags.get Tag.start (row * 8 + l / 8)
  | .n i => g.nearTags.get Tag.start (i * 8 + l / 8)
  | _ => Tag.start

/-- The valid bit of a near register in a lane (R25). -/
def Group.nearOk (g : Group) (r : Reg) (l : Nat) : Bool :=
  match r with
  | .n i => g.nearValid.contains (i * 64 + l)
  | _ => true

def Group.cap (g : Group) (i : BitVec 4) : Cap := g.c.get Cap.null i.toNat

/-! ## Writing -/

/-- A quad, named by its first row × 64 + lane, has one of its four rows at a row of a lane (R82). -/
def quadHas (row l k : Nat) : Bool := k % 64 == l && k / 64 ≤ row && row < k / 64 + 4

/-- Write one element in one lane, with its column tag: a main-file write clears the tag of the lane's quad that
has the row (R82), and a near write sets the valid bit while the group is in the active set (R25, R75). -/
def Group.write (g : Group) (r : Reg) (l : Nat) (e : Elem) (t : Tag) : Group :=
  match r with
  | .v row =>
    { g with
      rows := g.rows.put Elem.zero (row * 64 + l) e
      tags := g.tags.put Tag.start (row * 8 + l / 8) t
      quads := g.quads.filter fun k => !quadHas row l k }
  | .n i =>
    { g with
      near := g.near.put Elem.zero (i * 64 + l) e
      nearTags := g.nearTags.put Tag.start (i * 8 + l / 8) t
      nearValid := if g.active then ninsert (i * 64 + l) g.nearValid else g.nearValid }
  | .k i => { g with k := g.k.put Elem.zero i e }
  | .s _ => g

/-- Set the column tag of a register at a lane and nothing else (`tagset`, R315). -/
def Group.setTag (g : Group) (r : Reg) (l : Nat) (t : Tag) : Group :=
  match r with
  | .v row => { g with tags := g.tags.put Tag.start (row * 8 + l / 8) t }
  | .n i => { g with nearTags := g.nearTags.put Tag.start (i * 8 + l / 8) t }
  | _ => g

/-- Set the poison of an element and nothing else (R311). -/
def Group.poisonElem (g : Group) (r : Reg) (l : Nat) : Group :=
  let e := { g.elem r l with poison := true }
  match r with
  | .v row => { g with rows := g.rows.put Elem.zero (row * 64 + l) e }
  | .n i => { g with near := g.near.put Elem.zero (i * 64 + l) e }
  | .k i => { g with k := g.k.put Elem.zero i e }
  | .s _ => g

def Group.setCap (g : Group) (i : BitVec 4) (c : Cap) : Group :=
  { g with c := g.c.put Cap.null i.toNat c }

/-- Write a predicate bit in the fibre of a lane. -/
def Group.setPred (g : Group) (l : Nat) (i : BitVec 4) (b : Bool) : Group :=
  g.modFibre l fun f =>
    { f with pred := (f.pred &&& ~~~(1#16 <<< i.toNat)) ||| ((if b then 1#16 else 0#16) <<< i.toNat) }

/-- A predicate bit of a word. -/
def predBit (w : BitVec 16) (i : BitVec 4) : Bool := w.getLsbD i.toNat

/-- The next register of the same level. -/
def Reg.succ : Reg → Nat → Reg
  | .v r, j => .v (r + j)
  | .n i, j => .n (i + j)
  | .k i, j => .k (i + j)
  | .s i, j => .s (i + j)

/-! ## Loads in flight (R72, R30) -/

/-- Land a load: its register results are written, with the column tag where a lane is written. -/
def Group.land (g : Group) (id : Nat) : Group :=
  match g.flights.find? (·.id == id) with
  | none => g
  | some f =>
    let g := f.writes.foldl (fun g w => g.write w.reg w.lane w.elem f.tag) g
    let g := { g with quads := f.quad.foldl (fun q k => ninsert k q) g.quads }
    { g with flights := g.flights.map fun x =>
        if x.id == id then { x with writes := [], regs := [], quad := [], quads := [] } else x }

/-- Land every load that has a result to write in a register. A later write of the register then stands
(R72). -/
def Group.landOn (g : Group) (r : Reg) : Group :=
  (g.flights.filter fun f => f.writes.any fun w => w.reg == r).foldl (fun g f => g.land f.id) g

/-- Land every load that lanes of the group have in flight. -/
def Group.landLanes (g : Group) (ls : List Nat) : Group :=
  (g.flights.filter fun f => !f.writes.isEmpty && f.lanes.any ls.contains).foldl
    (fun g f => g.land f.id) g

/-- A load in flight keeps a result when some lanes are replayed: a v or n result of another lane, and a result that the
batch has in common, in a k register, while a lane of the batch has not been replayed (R30, R286) (log 71, DEDUCED).
-/
def Group.keeps (g : Group) (ls : List Nat) (f : Flight) (w : LaneWrite) : Bool :=
  match w.reg with
  | .v _ | .n _ => !ls.contains w.lane
  | .k _ | .s _ => !f.lanes.any ls.contains || f.lanes.any fun l => !ls.contains l && (g.fibres.find? l).isSome

/-- Discard the results that loads in flight have for the lanes (R30). The tags of the quads whose `ldc` is
discarded are cleared (R82). -/
def Group.discard (g : Group) (ls : List Nat) : Group :=
  let mine := fun (k : Nat) => ls.contains (k % 64)
  let lost := g.flights.flatMap fun f => f.quads.filter mine
  { g with
    flights := g.flights.map fun f =>
      { f with
        lanes := f.lanes.filter fun l => !ls.contains l
        writes := f.writes.filter (g.keeps ls f)
        quad := f.quad.filter fun k => !mine k
        quads := f.quads.filter fun k => !mine k }
    quads := lost.foldl (fun q k => nerase k q) g.quads }

/-- A register result of the group is outstanding for one of the lanes (R41). -/
def Group.outstanding (g : Group) (r : Reg) (ls : List Nat) : Bool :=
  g.flights.any fun f => f.writes.any fun w =>
    w.reg == r && (ls.contains w.lane || match r with | .k _ => true | _ => false)

/-! ## Latches (R22 to R24) -/

def Latch.empty : Latch := { elems := ⟨[]⟩, tags := ⟨[]⟩ }

/-- A core's issue slot. -/
def Core.slot (c : Core) (i : Nat) : Slot := c.slots.getD i Slot.reset

def Core.setSlot (c : Core) (i : Nat) (x : Slot) : Core :=
  { c with slots := listModify c.slots i fun _ => x }

/-- The latches of a slot are valid for the batch (R23). -/
def Slot.validFor (x : Slot) (g : Nat) (ls : List Nat) : Bool := x.owner == some (g, ls)

/-- Shift the latches down and put a result into b0: elements by column position, with tags by column
(R22). -/
def Slot.push (x : Slot) (l : Latch) : Slot := { x with latch := (l :: x.latch).take 4 }

/-- The latch entry of results by column position. -/
def Latch.ofResults (rs : List (Nat × Elem × Tag)) : Latch :=
  rs.foldl (fun l (p, e, t) =>
    { elems := l.elems.put Elem.zero p e, tags := l.tags.put Tag.start (p / 8) t }) Latch.empty

/-- Latches become invalid, and a chain ends. -/
def Slot.invalidate (x : Slot) : Slot := { x with owner := none, latch := [], chain := 0 }

/-- Invalidate the latches that belong to a batch of the group with one of the lanes. -/
def Core.dropLatches (c : Core) (g : Nat) (ls : List Nat) : Core :=
  { c with slots := c.slots.map fun x =>
      match x.owner with
      | some (g', ls') => if g' == g && ls'.any ls.contains then x.invalidate else x
      | none => x }

/-! ## Special sources (R13) -/

/-- The logical number of a physical core in a partition. -/
def Part.logical (p : Part) (core : Nat) : Nat := p.cores.findIdx (· == core)

/-- The partition of a group. -/
def State.partOf (s : State) (g : Group) : Nat :=
  match s.teams.find? g.team with
  | some t => match s.grids.find? t.grid with
    | some gr => gr.part
    | none => 0
  | none => 0

/-- CORE as a group reads it. -/
def State.coreNumber (s : State) (g : Group) : Nat := (s.part (s.partOf g)).logical g.core

end Sys2Proof.Machine
end

