-- ==== Sys2Proof/Machine/Mem.lean ====
section
/-! DEFINITION. Memory: the homes, and the L1 caches with their dirty-line FIFOs. Addresses here are unified
physical addresses: device HBM below 2^52, host memory from 2^52, peers from 2^53 on (log 7). -/

namespace Sys2Proof.Machine

/-! ## Places -/

def hostBase : Nat := 2 ^ 52
def peerBase : Nat := 2 ^ 53

/-- A peer's physical address behind a port (log 7, DESIGN CHOICE). -/
def peerAddr (port peer pa : Nat) : Nat := peerBase + (port * 128 + peer) * 2 ^ 52 + pa

def isDevice (pa : Nat) : Bool := pa < hostBase
def isPeer (pa : Nat) : Bool := peerBase ≤ pa
def isHost (pa : Nat) : Bool := hostBase ≤ pa && pa < peerBase

/-- The port of a peer address. -/
def portOf (pa : Nat) : Nat := (pa - peerBase) / 2 ^ 52 / 128

/-- The peer address's port is up, or the address is not a peer's (R396). -/
def State.reachable (s : State) (pa : Nat) : Bool := !isPeer pa || s.ports.getD (portOf pa) false

/-- The die of a device address: stacks 0 to 3 lie on D0 (R108) (log 7, DESIGN CHOICE). -/
def dieOfAddr (pa : Nat) : Nat := if pa / Config.stackBytes < 4 then 0 else 1

/-- Fold of bits 51:7 by fives (R108). -/
def foldLine (pa : Nat) : Nat := (List.range 9).foldl (fun h i => h ^^^ (pa / 2 ^ (7 + 5 * i) % 32)) 0

/-- The number of the home slice among the partition's slices of its die, and the die (R108). -/
def Part.homeOf (p : Part) (pa : Nat) : Nat × Nat :=
  let d := dieOfAddr pa
  let ss := if d = 0 then p.slices0 else p.slices1
  (d, if ss.length = 0 then 0 else foldLine pa % ss.length)

/-- The physical slice, die × 32 + slice. -/
def Part.homeSlice (p : Part) (pa : Nat) : Nat :=
  let (d, j) := p.homeOf pa
  d * 32 + (if d = 0 then p.slices0 else p.slices1).getD j 0

/-! ## Bytes and numbers -/

/-- Little-endian number of bytes. -/
def leNat (bs : List Byte) : Nat := bs.foldr (fun b n => b.toNat + 256 * n) 0

/-- The first `n` bytes of a number, least significant first. -/
def leBytes (n x : Nat) : List Byte := (List.range n).map fun i => BitVec.ofNat 8 (x / 256 ^ i)

/-- Bytes of one granule over another where a mask says so. -/
def overlay (mask : BitVec 16) (new old : Granule) : Granule :=
  (List.range 16).foldl (fun acc i =>
    let b := if mask.getLsbD i then new >>> (8 * i) else old >>> (8 * i)
    acc ||| ((b &&& 255#128) <<< (8 * i))) 0#128

/-! ## Homes -/

/-- Bytes at their home. -/
def State.homeBytes (s : State) (pa n : Nat) : List Byte :=
  (List.range n).map fun i => s.mem.read (pa + i)

/-- Some granule of the range is poisoned at its home (log 9, DEDUCED). -/
def State.homePoison (s : State) (pa n : Nat) : Bool :=
  (List.range ((pa + n - 1) / 16 - pa / 16 + 1)).any fun i => s.poison.contains (pa / 16 + i)

/-- Write bytes of one granule at its home. `mask` says which of the sixteen bytes; `tag` and `poison` are those
of the data. A write that does not set the tag clears it; clean data over the whole granule clears its poison,
poisoned data sets it (R97, R116). A write through a port that is down is lost (R396) (log 9, DEDUCED). -/
def State.homeWriteGranule (s : State) (w : Nat) (data : Granule) (mask : BitVec 16) (tag poison : Bool) :
    State :=
  if mask = 0 ∨ !s.reachable (16 * w) then s
  else
    { s with
      mem := (List.range 16).foldl (fun m i =>
        if mask.getLsbD i then m.write (16 * w + i) ((data >>> (8 * i)).setWidth 8) else m) s.mem
      memTags := nset (tag && isDevice (16 * w)) w s.memTags
      poison := if poison then ninsert w s.poison
        else if mask = BitVec.allOnes 16 then nerase w s.poison else s.poison }

/-- A run of bytes cut into granules: word address, data, mask. -/
def granulesOf (pa : Nat) (bs : List Byte) : List (Nat × Granule × BitVec 16) :=
  let first := pa / 16
  let last := (pa + bs.length - 1) / 16
  (List.range (last + 1 - first)).map fun j =>
    let w := first + j
    let at_ : Nat → Option Byte := fun i =>
      if pa ≤ 16 * w + i then bs[16 * w + i - pa]? else none
    (w,
     (List.range 16).foldl (fun d i =>
       match at_ i with
       | some b => d ||| (b.setWidth 128 <<< (8 * i))
       | none => d) 0#128,
     (List.range 16).foldl (fun m i =>
       if (at_ i).isSome then m ||| (1#16 <<< i) else m) 0#16)

/-- Write bytes at their home. -/
def State.homeWrite (s : State) (pa : Nat) (bs : List Byte) (poison : Bool := false) : State :=
  if bs.isEmpty then s
  else (granulesOf pa bs).foldl (fun s (w, d, m) => s.homeWriteGranule w d m false poison) s

/-- A granule at its home: data, tag, poison. A read through a port that is down is poisoned (R396). -/
def State.homeGranule (s : State) (w : Nat) : Granule × Bool × Bool :=
  (BitVec.ofNat 128 (leNat (s.homeBytes (16 * w) 16)), s.memTags.contains w,
   s.poison.contains w || !s.reachable (16 * w))

/-! ## L1 and the dirty-line FIFO (R104 to R107) -/

/-- The block that holds a word: its first word and the block. -/
def Core.blockOf (c : Core) (w : Nat) : Option (Nat × L1Block) :=
  [w, w / 2 * 2, w / 4 * 4, w / 8 * 8].findSome? fun b =>
    match c.l1.find? b with
    | some x => if w < b + x.words.length then some (b, x) else none
    | none => none

/-- A block with a byte written since it was last clean. -/
def L1Block.dirty (b : L1Block) : Bool := b.words.any fun w => w.mine != 0

/-- Put a record into a table: a record of the line is replaced; a full set drops the record least recently
written. Records stand newest first; `sets` is the number of sets (log 21, DESIGN CHOICE). -/
def putRecord (l : List ScopeRec) (r : ScopeRec) (sets ways : Nat) : List ScopeRec :=
  let rest := l.filter fun x => x.line != r.line
  let same := rest.filter fun x => x.line % sets == r.line % sets
  let keep := (same.take (ways - 1))
  r :: rest.filter fun x => x.line % sets != r.line % sets || keep.contains x

/-- A release reaches its line at the home slice. -/
def State.homeRecord (s : State) (r : ScopeRec) : State :=
  s.modSlice ((s.part r.part).homeSlice (r.line * 128)) fun sl =>
    { sl with scopes := putRecord sl.scopes r 256 16 }

/-- Change the word of a block. -/
def State.modL1Word (s : State) (core w : Nat) (f : L1Word → L1Word) : State :=
  match (s.core core).blockOf w with
  | none => s
  | some (b, blk) =>
    s.modCore core fun c =>
      { c with l1 := c.l1.insert b { blk with words := listModify blk.words (w - b) f } }

/-- What an uncorrectable error leaves of a word of a dirty block: what this core has written is poisoned; a word in
which it has written nothing is fetched again from its home, as in a clean block (R107) (log 8, DESIGN CHOICE). -/
def L1Word.struck (x : L1Word) : L1Word :=
  if x.mine = 0 then { x with full := false } else { x with poison := true, hurt := true }

/-- An uncorrectable error waiting for an L1 word: a clean block is a miss, a dirty word is poisoned (R107) (log
8, DESIGN CHOICE). -/
def State.l1Upset (s : State) (core w : Nat) : State :=
  if !s.upsets.l1.contains (core, w) then s
  else
    let s := { s with upsets := { s.upsets with l1 := s.upsets.l1.erase (core, w) } }
    match (s.core core).blockOf w with
    | none => s
    | some (b, blk) =>
      if blk.dirty then s.modL1Word core w L1Word.struck
      else s.modCore core fun c => { c with l1 := c.l1.erase b }

/-- What a word holds for its home: poison that stood before this core's writes stays where they have not covered the
word at once (R116). -/
def L1Word.drains (x : L1Word) (poisoned : Bool) : Bool := x.hurt || (!x.whole && poisoned)

/-- A word whose writes have gone to its home: where it is not full, nothing of it is present. -/
def L1Word.cleaned (x : L1Word) : L1Word := { x with mine := 0, hurt := false, whole := false }

/-- Drain one block to its home: only the bytes this core has written (R146), with the errors that they meet (R107),
and the record of a release written into it. The block is then clean. -/
def State.drainBlock (s : State) (core b : Nat) : State :=
  match (s.core core).l1.find? b with
  | none => s
  | some blk =>
    let dirty := (blk.words.zipIdx.filter fun x => x.1.mine != 0).map (·.2)
    let s := dirty.foldl (fun s j => s.l1Upset core (b + j)) s
    let words := ((s.core core).l1.find? b).elim [] (·.words)
    let s := words.zipIdx.foldl (fun s (w, j) =>
      s.homeWriteGranule (b + j) w.data w.mine w.tag (w.drains (s.poison.contains (b + j)))) s
    let s := match blk.rel with
      | some r => s.homeRecord r
      | none => s
    s.modCore core fun c =>
      { c with l1 := c.l1.insert b { blk with words := words.map L1Word.cleaned, rel := none } }

/-- Drain the entry at the head of the FIFO (R106). -/
def State.drainHead (s : State) (core : Nat) : State :=
  match (s.core core).fifo with
  | [] => s
  | .marker :: r => s.modCore core fun c => { c with fifo := r }
  | .block b :: r => (s.drainBlock core b).modCore core fun c => { c with fifo := r }

/-- Drain a number of entries. -/
def State.drainN (s : State) (core : Nat) : Nat → State
  | 0 => s
  | n + 1 => (s.drainHead core).drainN core n

/-- Drain the whole FIFO: what a release at `.clu` or wider waits for (R145). -/
def State.drainAll (s : State) (core : Nat) : State := s.drainN core (s.core core).fifo.length

/-- Drain a block with every entry ahead of it (R106); a block that is not dirty drains nothing. -/
def State.drainUpTo (s : State) (core b : Nat) : State :=
  let i := (s.core core).fifo.findIdx (· == .block b)
  if i < (s.core core).fifo.length then s.drainN core (i + 1) else s

/-- Put an entry into the FIFO; a full FIFO drains its head first (R106, R158). -/
def State.pushFifo (s : State) (core : Nat) (e : FifoEntry) : State :=
  let s := if 512 ≤ (s.core core).fifo.length then s.drainHead core else s
  s.modCore core fun c => { c with fifo := c.fifo ++ [e] }

/-- The smallest size in words that covers the touched words of an aligned block (R205). -/
def coverSize (touched : List Bool) : Nat :=
  let idx := (touched.zipIdx.filter (·.1)).map (·.2)
  match idx.head?, idx.getLast? with
  | some a, some b =>
    ([1, 2, 4, 8].find? fun z => a / z == b / z).getD 8
  | _, _ => 1

/-- Remove a block from L1: drained first where it stands in the FIFO; the predictor entry of the
instruction that filled it takes the size that covers the touched words (R106, R205). -/
def State.evictBlock (s : State) (core b : Nat) : State :=
  let s := s.drainUpTo core b
  match (s.core core).l1.find? b with
  | none => s
  | some blk =>
    s.modCore core fun c =>
      { c with
        l1 := c.l1.erase b
        predict := c.predict.put 8 blk.pcIdx (coverSize (blk.words.map (·.touched))) }

/-- A clean word of a block filled from its home. -/
def State.fillWord (s : State) (w : Nat) : L1Word :=
  let (d, t, p) := s.homeGranule w
  { data := d, full := true, mine := 0, tag := t, poison := p, hurt := false, whole := false, touched := false }

/-- Words that a core's L1 holds (R104). -/
def Core.l1Words (c : Core) : Nat := (c.l1.cells.map fun b => b.2.words.length).sum

/-- The block that leaves a full L1 next: blocks with the keep hint go last (R105) (log 50, DESIGN CHOICE). -/
def Core.victim (c : Core) : Option Nat :=
  ((c.l1.cells.find? fun b => !b.2.keep).or c.l1.cells.head?).map (·.1)

/-- Make room for a block of some words: blocks leave, at most `n`, until it fits into the 16,384 words of 16 bytes
(R104). -/
def State.makeRoom (s : State) (core size : Nat) : Nat → State
  | 0 => s
  | n + 1 =>
    if (s.core core).l1Words + size ≤ 16384 then s
    else match (s.core core).victim with
      | some b => (s.evictBlock core b).makeRoom core size n
      | none => s

/-- The predictor entry of an instruction (R205). -/
def predictIdx (pc : Addr) : Nat := pc.toNat / 8 % 256

/-- The block of the predicted size around a word: its first word and its size (R104, R205). A part of it that another
block holds already makes the block one word (log 77, DESIGN CHOICE). -/
def Core.fillSpan (c : Core) (w : Nat) (pc : Addr) : Nat × Nat :=
  let size := c.predict.get 8 (predictIdx pc)
  if (List.range size).all fun j => (c.blockOf (w / size * size + j)).isNone then (w / size * size, size) else (w, 1)

/-- A fill meets and repairs the corrected errors that wait for its sectors (R364). -/
def State.meetMarks (s : State) (span : Nat × Nat) : State :=
  if s.ceMarks.isEmpty then s
  else { s with ceMarks := s.ceMarks.filter fun m => m < span.1 / 2 || (span.1 + span.2 - 1) / 2 < m }

/-- A block filled from its home. -/
def State.fillBlock (s : State) (span : Nat × Nat) (pc : Addr) (keep : Bool) : L1Block :=
  { words := (List.range span.2).map (fun j => s.fillWord (span.1 + j)), keep, pcIdx := predictIdx pc, rel := none }

/-- Allocate the block of the predicted size around a word and fill it (R104). -/
def State.allocate (s : State) (core w : Nat) (pc : Addr) (keep : Bool) : State :=
  let span := (s.core core).fillSpan w pc
  let s := s.makeRoom core span.2 span.2
  (s.meetMarks span).modCore core fun c => { c with l1 := c.l1.insert span.1 (s.fillBlock span pc keep) }

/-- What a read of an L1 word sees, given its home's granule: what the word lacks comes from there, and the tag is that
of one write alone (R98, R147). -/
def L1Word.seen (x : L1Word) (home : Granule × Bool × Bool) : Granule × Bool × Bool :=
  if x.full then (x.data, x.tag, x.poison)
  else (overlay x.mine x.data home.1, if x.mine = 0 then home.2.1 else x.tag, x.drains home.2.2)

/-- Bytes that the word lacks come from its home. -/
def State.complete (s : State) (core w : Nat) : State :=
  let home := s.homeGranule w
  s.modL1Word core w fun x =>
    let (d, t, p) := x.seen home
    { x with data := d, full := true, tag := t, poison := p }

/-- The block of a word is evicted last: an access with the hint has met it (R105). -/
def State.markKeep (s : State) (core w : Nat) (cache : Cache) : State :=
  match cache, (s.core core).blockOf w with
  | .keep, some (b, blk) => s.modCore core fun c => { c with l1 := c.l1.insert b { blk with keep := true } }
  | _, _ => s

/-- A granule as a core reads it under a cache behaviour (R105): data, tag, poison. -/
def State.readGranule (s : State) (core w : Nat) (cache : Cache) (pc : Addr) :
    (Granule × Bool × Bool) × State :=
  let s := s.l1Upset core w
  let fromL1 : State → (Granule × Bool × Bool) × State := fun s =>
    let s := (s.complete core w).markKeep core w cache
    let s := s.modL1Word core w fun x => { x with touched := true }
    match (s.core core).blockOf w with
    | some (b, blk) => match blk.words[w - b]? with
      | some x => ((x.data, x.tag, x.poison), s)
      | none => (s.homeGranule w, s)
    | none => (s.homeGranule w, s)
  match cache with
  | .home =>
    let s := match (s.core core).blockOf w with
      | some (b, _) => s.evictBlock core b
      | none => s
    (s.homeGranule w, s)
  | .stream => if ((s.core core).blockOf w).isSome then fromL1 s else (s.homeGranule w, s)
  | _ =>
    if ((s.core core).blockOf w).isSome then fromL1 s
    else fromL1 (s.allocate core w pc (cache == .keep))

/-- Read `n` bytes within one granule as a core sees them: number and poison. -/
def State.coreRead (s : State) (core pa n : Nat) (cache : Cache) (pc : Addr) :
    (Nat × Bool) × State :=
  let ((d, _, p), s) := s.readGranule core (pa / 16) cache pc
  ((d.toNat / 2 ^ (8 * (pa % 16)) % 2 ^ (8 * n), p), s)

/-- A word of L1 with masked bytes written over it (R97, R116). -/
def L1Word.written (x : L1Word) (data : Granule) (mask : BitVec 16) (tag poison : Bool) : L1Word :=
  let all := mask == BitVec.allOnes 16
  { data := overlay mask data x.data
    full := x.full
    mine := x.mine ||| mask
    tag := tag
    poison := poison || (x.poison && !all)
    hurt := poison || (x.hurt && !all)
    whole := x.whole || all
    touched := true }

/-- Write masked bytes of a granule as a core (R104, R105, R116) (log 19, DESIGN CHOICE). -/
def State.writeGranule (s : State) (core w : Nat) (data : Granule) (mask : BitVec 16) (tag poison : Bool)
    (cache : Cache) (pc : Addr) : State :=
  match cache with
  | .home | .stream =>
    let s := match (s.core core).blockOf w with
      | some (b, _) => s.evictBlock core b
      | none => s
    (s.drainAll core).homeWriteGranule w data mask tag poison
  | _ =>
    let s := s.l1Upset core w
    let s := if ((s.core core).blockOf w).isSome then s.markKeep core w cache
      else s.allocate core w pc (cache == .keep)
    match (s.core core).blockOf w with
    | none => s
    | some (b, blk) =>
      let fresh := !blk.dirty
      let s := s.modL1Word core w fun x => x.written data mask (tag && isDevice (16 * w)) poison
      if fresh then s.pushFifo core (.block b) else s

/-- Write `n` bytes within one granule as a core. -/
def State.coreWrite (s : State) (core pa n value : Nat) (poison : Bool) (cache : Cache) (pc : Addr) :
    State :=
  let sh := 8 * (pa % 16)
  s.writeGranule core (pa / 16) (BitVec.ofNat 128 (value * 2 ^ sh))
    (BitVec.ofNat 16 ((2 ^ n - 1) * 2 ^ (pa % 16))) false poison cache pc

/-- Acquire at `.clu` or wider: clean blocks go, and bytes of dirty blocks that this core has not written
become absent (R147). -/
def State.acquireL1 (s : State) (core : Nat) : State :=
  s.modCore core fun c =>
    { c with l1 := ⟨(c.l1.cells.filter fun b => b.2.dirty).map fun (b, blk) =>
        (b, { blk with words := blk.words.map fun w => { w with full := false } })⟩ }

/-- The clean blocks of a core that hold some granules go: the retirement of a copy that has written them (R152). -/
def State.dropClean (s : State) (core : Nat) (ws : List Nat) : State :=
  s.modCore core fun c =>
    { c with l1 := ⟨c.l1.cells.filter fun b =>
        b.2.dirty || !ws.any fun w => b.1 ≤ w && w < b.1 + b.2.words.length⟩ }

/-- Drop a core's copies of a line that another agent has written at the home: written bytes are drained
first (R151). -/
def State.flushRange (s : State) (core pa n : Nat) : State :=
  if n = 0 then s
  else (List.range ((pa + n - 1) / 16 - pa / 16 + 1)).foldl (fun s i =>
    match (s.core core).blockOf (pa / 16 + i) with
    | some (b, _) => s.evictBlock core b
    | none => s) s

end Sys2Proof.Machine
end

