-- ==== Sys2Proof/Machine/Pad.lean ====
section
/-! DEFINITION. The scratchpads (R121 to R134): where a byte lies, what a read and a write of a word meet, and the
lane cycles in which a core's banks and parity banks serve the accesses that wait at them. An access takes its value
or leaves its data when it is made; the lane cycle that serves it decides when it is complete (log 16). -/

namespace Sys2Proof.Machine

/-! ## Places (R121, R122) -/

/-- Data banks in service order: the banks of groups that are not removed (R133). -/
def Spad.service (p : Spad) : List Nat := (List.range 64).filter fun b => !p.removed.contains (b / 4)

/-- Where a byte of a team's allocation lies: core, bank, row, byte of the word (R122). -/
structure PadLoc where
  core : Nat
  bank : Nat
  row  : Nat
  byte : Nat
deriving DecidableEq, Repr

def State.padLoc (s : State) (t : Team) (off : Nat) : PadLoc :=
  let seg := t.z / t.cores.length
  let i := if seg = 0 then 0 else off / seg
  let core := t.cores.getD i 0
  let w := t.segs.getD i 0 + (if seg = 0 then 0 else off % seg / 16)
  let banks := (s.core core).pad.service
  { core, bank := banks.getD (w % banks.length) 0, row := w / banks.length, byte := off % 16 }

/-- The key of a word. -/
def padKey (bank row : Nat) : Nat := bank * 1536 + row

/-- The parity group of a bank: data banks 0 to 63, parity banks 64 to 79 (R121). -/
def groupOfBank (bank : Nat) : Nat := if bank < 64 then bank / 4 else bank - 64

/-- The four data banks of a parity group. -/
def dataBanks (g : Nat) : List Nat := [4 * g, 4 * g + 1, 4 * g + 2, 4 * g + 3]

/-- The five banks of a parity group. -/
def banksOf (g : Nat) : List Nat := dataBanks g ++ [64 + g]

/-- The banks from which a word of a data bank is reconstructed. -/
def otherBanks (bank : Nat) : List Nat := (banksOf (bank / 4)).filter (· != bank)

/-- The state of a bank: 0 in service, 1 retired, 2 lost; the banks of a group that a partition reset has removed
still read 2 (R130, R131) (log 55, DESIGN CHOICE). -/
def Spad.bankState (p : Spad) (bank : Nat) : Nat :=
  let g := groupOfBank bank
  if p.lost.contains g || p.removed.contains g then 2 else if p.retired.contains bank then 1 else 0

/-- The group is in state normal (R131). -/
def Spad.normal (p : Spad) (g : Nat) : Bool := (banksOf g).all fun b => p.bankState b == 0

/-! ## Parity updates (R127) -/

/-- The row of a parity group is stale: a delta for it is queued. -/
def Spad.stale (p : Spad) (g row : Nat) : Bool := (p.updates.get [] g).any fun u => u.1 == row

/-- Queue a delta: merged into the entry of its row. Nothing is queued for a parity bank out of service. -/
def Spad.queueDelta (p : Spad) (g row : Nat) (d : Granule) : Spad :=
  if p.retired.contains (64 + g) then p
  else
    let q := p.updates.get [] g
    { p with updates := p.updates.put [] g (if p.stale g row
        then q.map fun e => if e.1 == row then (row, e.2 ^^^ d) else e
        else q ++ [(row, d)]) }

/-! ## Errors (R129) -/

/-- The curator retires the bank: 8 corrected errors within 2^30 cycles (R129). -/
def retireDue (errors : List Nat) : Bool :=
  8 ≤ errors.length && errors.headD 0 ≤ errors.getLastD 0 + 2 ^ 30

/-- A bank meets a corrected error in a cycle; an uncorrectable error that was repaired counts as 8, so
that the bank is retired at once (R129). -/
def Spad.noteError (p : Spad) (bank now n : Nat) : Spad :=
  let l := p.errors.get [] bank
  if retireDue l then p
  else { p with errors := p.errors.insert bank ((List.replicate n now ++ l).take 8) }

/-- A read of a word of a bank repairs a corrected error that waits for it (R129). -/
def Spad.repair (p : Spad) (now row bank : Nat) : Spad :=
  let key := padKey bank row
  if p.ce.contains key then ({ p with ce := p.ce.filter (· != key) } : Spad).noteError bank now 1 else p

/-- A word meets an uncorrectable error at its next read. -/
def Spad.broken (p : Spad) (row bank : Nat) : Bool := p.ue.contains (padKey bank row)

/-- A parity bank's uncorrectable error: the row is rebuilt from its four data words before it serves again, where all
four can be read; the bank is then due to be retired (R129). -/
def Spad.rebuild (p : Spad) (now g row : Nat) : Spad :=
  if p.broken row (64 + g) && (dataBanks g).all fun b => p.bankState b == 0 && !p.broken row b then
    let p := (dataBanks g).foldl (fun p b => p.repair now row b) p
    ({ p with ue := p.ue.filter (· != padKey (64 + g) row) } : Spad).noteError (64 + g) now 8
  else p

/-- The parity bank's read of a row, for a read-modify-write: its errors are met. -/
def Spad.parityRead (p : Spad) (now g row : Nat) : Spad := (p.rebuild now g row).repair now row (64 + g)

/-- Writes whose parity row has become current are complete (R128). -/
def Spad.completed (p : Spad) : Spad :=
  { p with reqs := p.reqs.filter fun r => !(r.done && !p.stale (groupOfBank r.bank) r.row) }

/-- Change a parity word by a delta: the parity bank reads it, and meets its errors, in the same access (R127, R129). -/
def Spad.addParity (p : Spad) (now g row : Nat) (d : Granule) : Spad :=
  if p.retired.contains (64 + g) then p
  else
    let p := p.parityRead now g row
    let key := padKey (64 + g) row
    { p with words := p.words.put 0 key (p.words.get 0 key ^^^ d) }

/-- Apply the oldest delta of a parity group (R127). -/
def Spad.applyDelta (p : Spad) (now g : Nat) : Spad :=
  match p.updates.get [] g with
  | [] => p
  | (row, d) :: r => ({ p with updates := p.updates.put [] g r } : Spad).addParity now g row d

/-- Apply every delta of a group. -/
def Spad.flushGroup (p : Spad) (now g : Nat) : Spad :=
  (List.range (p.updates.get [] g).length).foldl (fun p _ => p.applyDelta now g) p

/-! ## Words -/

/-- The parity of a row, with the deltas that are queued and those of writes that wait. -/
def Spad.parityNow (p : Spad) (g row : Nat) : Granule :=
  let x := (p.updates.get [] g).foldl (fun x u => if u.1 == row then x ^^^ u.2 else x)
    (p.words.get 0 (padKey (64 + g) row))
  p.reqs.foldl (fun x r => if r.write && !r.done && r.bank / 4 == g && r.row == row then x ^^^ r.delta else x) x

/-- XOR of the other three data words and the parity word (R126). -/
def Spad.reconstruct (p : Spad) (bank row : Nat) : Granule :=
  ((otherBanks bank).filter (· < 64)).foldl (fun x b => x ^^^ p.words.get 0 (padKey b row))
    (p.parityNow (bank / 4) row)

/-- The word of a data bank: a retired bank's by reconstruction. -/
def Spad.wordOf (p : Spad) (bank row : Nat) : Granule :=
  if p.retired.contains bank then p.reconstruct bank row else p.words.get 0 (padKey bank row)

/-- The four words from which a word is reconstructed are read: whether one of them fails, and the scratchpad after it.
The errors of data words that cannot be repaired stay for their own reads (R134). -/
def Spad.readOthers (p : Spad) (bank row now : Nat) : Bool × Spad :=
  let others := otherBanks bank
  (others.any (p.broken row), (others.foldl (fun p b => p.repair now row b) p).rebuild now (bank / 4) row)

/-- A word that cannot be repaired is poisoned in its bank (R129, R132, R134). -/
def Spad.spoil (p : Spad) (bank row : Nat) : Spad :=
  let key := padKey bank row
  { p with ue := p.ue.filter (· != key), poison := ninsert key p.poison }

/-- An uncorrectable error of a direct access in a normal group is repaired by reconstruction, and the bank is due to be
retired; else the word is poisoned (R129, R134). -/
def Spad.mend (p : Spad) (bank row now : Nat) : Bool × Spad :=
  let (fails, p) := p.readOthers bank row now
  (fails, if fails then p.spoil bank row
    else ({ p with ue := p.ue.filter (· != padKey bank row) } : Spad).noteError bank now 8)

/-- What a scratchpad read delivers: data, tag, poison; 0x19 for a vector access; the DETAIL of the
error record that the error leaves, 0 for none (R227). -/
structure PadRead where
  data   : Granule
  tag    : Bool
  poison : Bool
  lost   : Bool
  record : Nat
deriving DecidableEq, Repr

/-- Read a word of a bank that is not lost, in a cycle: whether a reconstruction has failed, the record, and the
scratchpad after it (R129, R132, R134). An access that waits at its bank leaves a repair to the lane cycle that serves
it. -/
def Spad.meet (p : Spad) (bank row now : Nat) (waits : Bool) : Bool × Nat × Spad :=
  if p.retired.contains bank then
    let (fails, p) := p.readOthers bank row now
    if fails then (true, 2, p.spoil bank row) else (false, 0, p)
  else if p.broken row bank then
    if p.normal (bank / 4) then
      let (fails, q) := p.mend bank row now
      if fails then (true, 2, q) else if waits then (false, 0, p) else (false, 3, q)
    else (false, 2, p.spoil bank row)
  else (false, 0, p.repair now row bank)

/-- Read a word in a cycle (R126, R129, R132 to R134). The engine is delivered a lost word poisoned. -/
def Spad.read (p : Spad) (bank row now : Nat) (waits : Bool) : PadRead × Spad :=
  let key := padKey bank row
  let tag := p.tags.contains key
  if p.lost.contains (bank / 4) then
    ({ data := Config.lostWord key, tag := false, poison := true, lost := true, record := 2 }, p)
  else
    let (lost, record, q) := p.meet bank row now waits
    ({ data := q.wordOf bank row, tag, poison := q.poison.contains key, lost, record }, q)

/-- Write masked bytes of a word in a cycle: a read-modify-write, and its delta (R127, R132). Not for a bank of a lost
group. -/
def Spad.write (p : Spad) (bank row now : Nat) (waits : Bool) (data : Granule) (mask : BitVec 16) (tag poison : Bool) :
    Nat × Granule × Spad :=
  let key := padKey bank row
  let (_, record, p) := p.meet bank row now waits
  let old := p.wordOf bank row
  let new := overlay mask data old
  let full := mask == BitVec.allOnes 16
  (record, old ^^^ new,
   { p with
     words := if p.retired.contains bank then p.words else p.words.put 0 key new
     tags := nset tag key p.tags
     poison := if poison then ninsert key p.poison else if full then nerase key p.poison else p.poison })

/-- The error record of an access that a lane cycle serves (R227). -/
def Spad.note (p : Spad) (r : PadReq) (detail : Nat) : Spad :=
  { p with notes := p.notes ++ [{ grid := r.grid, off := r.off, detail, pc := r.pc
                                  word := if detail = 2 then (p.wordOf r.bank r.row).setWidth 32 else 0 }] }

/-- The bank serves an access to a word that meets an uncorrectable error: whether the word is beyond repair, and the
scratchpad with its record (R129, R132, R134). -/
def Spad.mendFor (p : Spad) (now : Nat) (r : PadReq) : Bool × Spad :=
  let (fails, p) := if p.normal (r.bank / 4) then p.mend r.bank r.row now else (true, p.spoil r.bank r.row)
  (fails, p.note r (if fails then 2 else 3))

/-- The data and parity of every write that waits are written: what a release waits for (R128, R145). -/
def Spad.settle (p : Spad) (now : Nat) : Spad :=
  let p := (p.reqs.filter fun r => r.write && !r.done).foldl (fun p r =>
    let p := if !p.retired.contains r.bank && p.broken r.row r.bank then (p.mendFor now r).2 else p
    p.queueDelta (r.bank / 4) r.row r.delta) p
  let p := { p with reqs := p.reqs.filter fun r => !r.write }
  (p.updates.cells.map (·.1)).foldl (fun p g => p.flushGroup now g) p

/-! ## Accesses of a team -/

/-- Who makes an access: its priority at the banks and what waits for it (R125); `asks` is off for the read of a
read-modify-write, whose write alone waits at the bank. -/
structure PadUse where
  cls  : Nat
  unit : Nat
  asks : Bool := true
deriving DecidableEq, Repr

/-- An access waits at the banks, but for those of a lost group (R133). One unit reads a word once for each operand, and a
copy also writes it once. -/
def Spad.ask (p : Spad) (r : PadReq) : Spad :=
  let once := r.unit != 0 && (!r.write || r.cls < 4)
  let same := fun (x : PadReq) =>
    x.cls == r.cls && x.unit == r.unit && x.bank == r.bank && x.row == r.row && x.write == r.write
  if p.lost.contains (r.bank / 4) || (once && p.reqs.any same) then p else { p with reqs := p.reqs ++ [r] }

/-- The cycle that a core counts. -/
def State.nowAt (s : State) (core : Nat) : Nat := (s.cluster (clusterOf core)).cycles.toNat

/-- PC of the instruction that is executed. -/
def State.issuePc (s : State) : Dword := s.issue.elim 0 fun i => i.pc.setWidth 64

/-- The access of a use at a location. -/
def PadUse.req (u : PadUse) (grid off : Nat) (pc : Dword) (l : PadLoc) : PadReq :=
  { cls := u.cls, unit := u.unit, beat := 0, grid, off, pc, bank := l.bank, row := l.row, write := false, delta := 0
    done := false, elems := [] }

/-- Read a granule of a team's allocation, and wait at its bank for a use of it. -/
def State.padRead (s : State) (t : Team) (off : Nat) (use : Option PadUse := none) : PadRead × State :=
  let l := s.padLoc t off
  let (r, p) := (s.core l.core).pad.read l.bank l.row (s.nowAt l.core) use.isSome
  let p := match use with
    | some u => if u.asks then p.ask (u.req t.grid off s.issuePc l) else p
    | none => p
  (r, s.modCore l.core fun c => { c with pad := p })

/-- An error record that a scratchpad access leaves (R132 to R134, R227). -/
def State.padNote (s : State) (t : Team) (off record : Nat) (word : Granule) : State :=
  if record = 0 then s
  else s.modCore (s.padLoc t off).core fun c =>
    { c with pad := { c.pad with notes := c.pad.notes ++
        [{ grid := t.grid, off, detail := record, pc := s.issuePc
           word := if record = 2 then word.setWidth 32 else 0 }] } }

/-- Read a scratchpad granule as a party does: the errors it meets are recorded, but for those that fault in the lane
(R134). -/
def State.padSee (s : State) (t : Team) (off : Nat) (use : Option PadUse := none) : PadRead × State :=
  let (r, s) := s.padRead t off use
  (r, if r.lost then s else s.padNote t off r.record r.data)

/-- Read a scratchpad granule as an engine does: every error it meets is recorded (R133, R134). -/
def State.padTake (s : State) (t : Team) (off : Nat) (use : Option PadUse := none) : PadRead × State :=
  let (r, s) := s.padRead t off use
  (r, s.padNote t off r.record r.data)

/-- The bank of an offset belongs to a lost group (R133). -/
def State.padLost (s : State) (t : Team) (off : Nat) : Bool :=
  let l := s.padLoc t off
  (s.core l.core).pad.lost.contains (l.bank / 4)

/-- Write masked bytes of a granule of a team's allocation; a lost bank keeps nothing. A write of some use waits at its
bank, and its parity follows in the lane cycles after the bank has served it; whoever writes for no use has waited for
both. -/
def State.padWriteGranule (s : State) (t : Team) (off : Nat) (data : Granule) (mask : BitVec 16)
    (tag poison : Bool) (use : Option PadUse := none) : State :=
  let l := s.padLoc t off
  if s.padLost t off then s
  else
    let now := s.nowAt l.core
    let (record, delta, p) := (s.core l.core).pad.write l.bank l.row now use.isSome data mask tag poison
    let p := match use with
      | some u => p.ask { u.req t.grid off s.issuePc l with write := true, delta }
      | none => p.addParity now (l.bank / 4) l.row delta
    (s.modCore l.core fun c => { c with pad := p }).padNote t off record data

/-- A read-modify-write of a granule that leaves it as it is waits at its bank. -/
def State.padTouch (s : State) (t : Team) (off : Nat) (use : PadUse) : State :=
  let l := s.padLoc t off
  s.modCore l.core fun c => { c with pad := c.pad.ask { use.req t.grid off s.issuePc l with write := true } }

/-- Write `n` bytes within one granule of a team's allocation. -/
def State.padWrite (s : State) (t : Team) (off n value : Nat) (poison : Bool) (use : Option PadUse := none) : State :=
  let sh := 8 * (off % 16)
  s.padWriteGranule t off (BitVec.ofNat 128 (value * 2 ^ sh))
    (BitVec.ofNat 16 ((2 ^ n - 1) * 2 ^ (off % 16))) false poison use

/-- Bytes of a team's allocation as they stand, without the effects of a read. -/
def State.padBytes (s : State) (t : Team) (off n : Nat) : List Byte :=
  (List.range n).map fun i =>
    let (r, _) := s.padRead t (off + i)
    (r.data >>> (8 * ((off + i) % 16))).setWidth 8

/-- Some granule of a run of a team's allocation reads poisoned. -/
def State.padPoison (s : State) (t : Team) (off n : Nat) : Bool :=
  (List.range ((off + n - 1) / 16 - off / 16 + 1)).any fun i => (s.padRead t (off / 16 * 16 + 16 * i)).1.poison

/-- Meet the errors of a run of granules of a team's allocation, as an engine does. -/
def State.padMeet (s : State) (t : Team) (off n : Nat) (use : Option PadUse := none) : State :=
  if n = 0 then s
  else (List.range ((off + n - 1) / 16 - off / 16 + 1)).foldl
    (fun s i => (s.padTake t (off / 16 * 16 + 16 * i) use).2) s

/-- The accesses of a unit wait at some scratchpad (R128, R208). -/
def State.padOwes (s : State) (unit : Nat) : Bool := s.cores.cells.any fun x => x.2.pad.reqs.any (·.unit == unit)

/-! ## Lane cycles (R125 to R127) -/

/-- A lane cycle under way: data banks with a direct access, groups that a reconstruction occupies, deltas that the parity
banks apply in it, second reads served and refused, reads of retired banks that are served, and accesses that have met
an error beyond repair. -/
structure LaneTurn where
  pad      : Spad
  applying : List (Nat × Nat × Granule)
  direct   : List Nat
  rebuilt  : List Nat
  served   : Nat
  refused  : Nat
  late     : List PadReq
  failed   : List PadReq

/-- A row is stale until the end of the lane cycle in which its last delta is applied (R127). -/
def LaneTurn.stale (t : LaneTurn) (g row : Nat) : Bool :=
  t.pad.stale g row || t.applying.any fun a => a.1 == g && a.2.1 == row

/-- The queue of a parity group has a free entry; while it is full, a write to the group waits (R127). -/
def LaneTurn.room (t : LaneTurn) (g : Nat) : Bool :=
  t.pad.retired.contains (64 + g) ||
    (t.pad.updates.get [] g).length + (t.applying.filter (·.1 == g)).length < 8

/-- An access is served: a read is complete, a write waits for its parity row. -/
def Spad.serve (p : Spad) (r : PadReq) : Spad :=
  if r.write then
    (({ p with reqs := p.reqs.erase r ++ [{ r with done := true }] } : Spad)).queueDelta (r.bank / 4) r.row r.delta
  else { p with reqs := p.reqs.erase r }

/-- A bank of the group is due to be retired: its accesses wait until the parity-update queue is empty (R131). -/
def Spad.held (p : Spad) (g : Nat) : Bool :=
  (banksOf g).any fun b => p.bankState b == 0 && retireDue (p.errors.get [] b)

/-- A direct access, where its bank is free (R125). One that meets an uncorrectable error in a normal group waits for its
repair (R129). -/
def LaneTurn.direct_ (now : Nat) (t : LaneTurn) (r : PadReq) : LaneTurn :=
  let g := r.bank / 4
  let broken := t.pad.broken r.row r.bank
  if t.direct.contains r.bank || t.pad.retired.contains r.bank || (r.write && !t.room g) ||
    (broken && t.pad.normal g) then t
  else
    let t := { t with direct := r.bank :: t.direct, pad := t.pad.serve r }
    if broken then { t with pad := (t.pad.mendFor now r).2, failed := t.failed ++ [r] } else t

/-- The rest of the group and its parity bank are free in the lane cycle (R126). -/
def LaneTurn.free (t : LaneTurn) (bank : Nat) : Bool :=
  let g := bank / 4
  !t.rebuilt.contains g && !(t.applying.any fun a => a.1 == g) &&
    (dataBanks g).all fun b => b == bank || !t.direct.contains b

/-- A read of a retired bank waits for a store to its row, which goes first (R138). -/
def LaneTurn.behind (t : LaneTurn) (r : PadReq) : Bool :=
  !r.write && t.pad.reqs.any fun w => w.write && !w.done && w.bank / 4 == r.bank / 4 && w.row == r.row

/-- An access that no direct access serves, by reconstruction where the rest of the group is free: an access to a retired
bank, the repair of a word, or a second read (R126, R129, R132). -/
def LaneTurn.rebuild_ (now : Nat) (t : LaneTurn) (r : PadReq) : LaneTurn :=
  let g := r.bank / 4
  let away := t.pad.retired.contains r.bank
  let mends := !away && !t.direct.contains r.bank && t.pad.broken r.row r.bank && t.pad.normal g
  if !t.pad.reqs.contains r || (r.write && !away && !(mends && t.room g)) then t
  else if away && t.behind r then t
  else if t.stale g r.row then if away || mends then t else { t with refused := t.refused + 1 }
  else if !t.free r.bank then t
  else if away then
    let t := { t with rebuilt := g :: t.rebuilt, pad := t.pad.serve r }
    if r.write then t else { t with served := t.served + 1, late := t.late ++ [r] }
  else if mends then
    let (fails, p) := t.pad.mendFor now r
    { t with direct := r.bank :: t.direct, rebuilt := g :: t.rebuilt, pad := p.serve r
             failed := if fails then t.failed ++ [r] else t.failed }
  else if !t.pad.normal g then t
  else
    let (fails, p) := t.pad.readOthers r.bank r.row now
    { t with
      rebuilt := g :: t.rebuilt, served := t.served + 1
      pad := if fails then ((p.spoil r.bank r.row).note r 2).serve r else p.serve r
      failed := if fails then t.failed ++ [r] else t.failed }

/-- The accesses that a lane cycle can serve, by priority and age: of the matrix commands those of the oldest, step by
step, so that each operand reads one word of a group in a lane cycle and goes on to the group's next bank in the next
(R125). -/
def Spad.turnOrder (p : Spad) (front : List Nat) : List PadReq :=
  let mats := p.reqs.filter fun r => r.cls < 2 && front.contains r.unit
  let beat := ((mats.map (·.beat)).min?).getD 0
  let ready := p.reqs.filter fun r =>
    !r.done && !p.held (r.bank / 4) && (2 ≤ r.cls || (front.contains r.unit && r.beat == beat))
  (List.range 6).flatMap fun k => ready.filter (·.cls == k)

/-- One lane cycle: the parity banks take the oldest delta of each group ahead of any reconstruction, deltas of this
lane cycle wait for the next, and writes whose row has become current are complete (R125 to R128). -/
def Spad.laneCycle (p : Spad) (now : Nat) (front : List Nat) : LaneTurn :=
  let applying := p.updates.cells.filterMap fun (g, q) => q.head?.map fun e => (g, e)
  let rest := applying.foldl (fun u a => u.put [] a.1 ((u.get [] a.1).drop 1)) p.updates
  let order := p.turnOrder front
  let t := order.foldl (LaneTurn.direct_ now)
    { pad := { p with updates := rest }, applying, direct := [], rebuilt := [], served := 0, refused := 0, late := []
      failed := [] }
  let t := order.foldl (LaneTurn.rebuild_ now) t
  { t with pad := (applying.foldl (fun p a => p.addParity now a.1 a.2.1 a.2.2) t.pad).completed }

/-- The words of some accesses whose reconstruction would fail, lane cycle by lane cycle (R134). -/
def Spad.foresee (now unit : Nat) (front : List Nat) : Nat → Spad → List (Nat × Nat)
  | 0, _ => []
  | n + 1, p =>
    if !p.reqs.any (·.unit == unit) then []
    else
      let t := p.laneCycle now front
      (t.failed.filter (·.unit == unit)).map (fun r => (r.bank, r.row)) ++ Spad.foresee now unit front n t.pad

/-- The matrix commands whose operands the banks serve: the oldest of each core. -/
def State.matFront (s : State) : List Nat := s.cores.cells.filterMap fun x => x.2.matq.head?.map (·.id)

end Sys2Proof.Machine
end

