-- ==== Sys2Proof/Machine/Caps.lean ====
section
/-! DEFINITION. Capabilities (R92 to R96), page tables and their caches (R193 to R197), and the checks of
an access (R99, R100). -/

namespace Sys2Proof.Machine

/-! ## Faults of a lane -/

/-- Why a lane does not take part in an instruction: it faults, its strand is replayed for an invalid
latch (R23), it waits for page walks (R195), or the access leads to no memory. -/
inductive Stop where
  | fault (f : LaneFault)
  | replay
  | walk (page : Nat)
  | dead (pa : Nat)
deriving DecidableEq, Repr

/-- A lane faults. -/
def raise {α : Type} (f : LaneFault) : Except Stop α := .error (.fault f)

/-- Raise a fault unless the condition holds. -/
def require (b : Bool) (f : LaneFault) : Except Stop Unit := if b then .ok () else raise f

/-! ## Fields of a capability (R92, R93) -/

def Cap.space (c : Cap) : Nat := c.w0.toNat / 2 ^ 60 % 8
/-- Permission bits LD, ST, AT, CL, CS, X, Q from bit 0 up. -/
def Cap.perms (c : Cap) : Nat := c.w0.toNat / 2 ^ 52 % 128
def Cap.ld (c : Cap) : Bool := c.w0.getLsbD 52
def Cap.st (c : Cap) : Bool := c.w0.getLsbD 53
def Cap.atomic (c : Cap) : Bool := c.w0.getLsbD 54
def Cap.cl (c : Cap) : Bool := c.w0.getLsbD 55
def Cap.cs (c : Cap) : Bool := c.w0.getLsbD 56
def Cap.x (c : Cap) : Bool := c.w0.getLsbD 57
def Cap.q (c : Cap) : Bool := c.w0.getLsbD 58
def Cap.cursor (c : Cap) : Nat := c.w0.toNat % 2 ^ 52
def Cap.exp (c : Cap) : Nat := c.w1.toNat / 2 ^ 58
def Cap.mant (c : Cap) : Nat := c.w1.toNat / 2 ^ 50 % 256
def Cap.base (c : Cap) : Nat := c.w1.toNat % 2 ^ 50 * 4
def Cap.length (c : Cap) : Nat := (c.mant + 1) * 2 ^ c.exp
/-- First byte past the region. -/
def Cap.limit (c : Cap) : Nat := c.base + c.length

/-- Permissions that a space allows (R95). -/
def spacePerms : Nat → Nat
  | 1 | 2 => 0x5F
  | 3 => 0x01
  | 4 => 0x40
  | 5 => 0x21
  | _ => 0

/-- What a tagged capability always meets (R93). -/
def Cap.ok (c : Cap) : Bool :=
  c.exp ≤ 44 && c.base % 2 ^ max c.exp 2 == 0 && c.limit ≤ 2 ^ 52 &&
  !c.w0.getLsbD 63 && !c.w0.getLsbD 59 && (1 ≤ c.space && c.space ≤ 5) &&
  c.perms &&& spacePerms c.space == c.perms

/-- Word 0 of a capability. -/
def capWord0 (space perms cursor : Nat) : Dword :=
  BitVec.ofNat 64 (space * 2 ^ 60 + perms % 128 * 2 ^ 52 + cursor % 2 ^ 52)

/-- Word 1 of a capability. -/
def capWord1 (e m base : Nat) : Dword :=
  BitVec.ofNat 64 (e % 64 * 2 ^ 58 + m % 256 * 2 ^ 50 + base / 4 % 2 ^ 50)

/-- The same capability with another cursor; the tag is lost where the cursor leaves 52 bits (R96). -/
def Cap.withCursor (c : Cap) (v : Int) : Cap :=
  { c with
    w0 := BitVec.ofNat 64 (c.w0.toNat / 2 ^ 52 * 2 ^ 52 + (v % 2 ^ 52).toNat)
    tag := c.tag && 0 ≤ v && v < 2 ^ 52 }

/-- A capability over an exact region at the smallest e, cursor at its base; untagged where the region
has no encoding (R93, R380). -/
def Cap.spanning (space perms base length : Nat) : Cap :=
  match (List.range 45).find? fun e =>
      length % 2 ^ e == 0 && 0 < length && length / 2 ^ e ≤ 256 && base % 2 ^ max e 2 == 0 with
  | some e =>
    let c : Cap := { w0 := capWord0 space perms base, w1 := capWord1 e (length / 2 ^ e - 1) base,
                     tag := true }
    { c with tag := c.ok }
  | none => Cap.null

/-- A derived capability is tagged when the source was, and its region, permissions and space lie within
the source's, and R93 holds (R96). -/
def Cap.derive (parent child : Cap) : Cap :=
  { child with
    tag := parent.tag && child.tag && child.space == parent.space &&
      child.perms &&& parent.perms == child.perms && child.ok &&
      parent.base ≤ child.base && child.limit ≤ parent.limit }

/-! ## Page tables (R193, R194) -/

/-- Index bits of a level: lowest bit and width. -/
def levelBits : Nat → Nat × Nat
  | 1 => (42, 10)
  | 2 => (33, 9)
  | 3 => (28, 5)
  | 4 => (21, 7)
  | _ => (16, 5)

/-- Bytes that an entry of a level maps. -/
def levelSize (level : Nat) : Nat := 2 ^ (levelBits level).1

def entryTarget (e : Dword) : Nat := e.toNat / 2 ^ 62
def entryPort (e : Dword) : Nat := e.toNat / 2 ^ 59 % 8
def entryPeer (e : Dword) : Nat := e.toNat / 2 ^ 52 % 128
def entryAddr (e : Dword) : Nat := e.toNat / 2 ^ 16 % 2 ^ 36 * 2 ^ 16
def entryX (e : Dword) : Bool := e.getLsbD 5
def entryW (e : Dword) : Bool := e.getLsbD 4
def entryRd (e : Dword) : Bool := e.getLsbD 3
def entryLeaf (e : Dword) : Bool := e.getLsbD 1
def entryV (e : Dword) : Bool := e.getLsbD 0

/-- A malformed entry of a level (R194). The address of a non-leaf entry names a table aligned to 64 KiB,
more than a table needs (R193). PORT and PEER must be zero where the target is not a peer (log 80, DEDUCED). -/
def entryMalformed (level : Nat) (e : Dword) : Bool :=
  (entryLeaf e && level == 1) || (!entryLeaf e && level == 5) ||
  e.toNat / 2 ^ 6 % 2 ^ 10 != 0 || e.getLsbD 2 || entryTarget e == 3 ||
  (entryTarget e != 2 && e.toNat / 2 ^ 52 % 2 ^ 10 != 0) ||
  (entryLeaf e && entryAddr e % levelSize level != 0) ||
  (!entryLeaf e && entryTarget e != 0)

/-- What a walk comes to. -/
inductive Walked where
  | leaf (level : Nat) (entry : Dword)
  | absent (level : Nat)
  | malformed
  | dead (pa : Nat)
deriving DecidableEq, Repr

/-- The deepest non-leaf entry in a walk cache that leads to a page: its level, and the table below. -/
def cachedTable (wc : List WalkEntry) (part va : Nat) : Option (Nat × Nat) :=
  [4, 3, 2, 1].findSome? fun l =>
    (wc.find? fun w => w.part == part && w.level == l && w.base == va / levelSize l).map fun w =>
      (l, entryAddr w.entry)

/-- Walk from a table of a level, with fuel for the levels left: each entry is one 8-byte read at its
home. The non-leaf entries read are returned for the walk cache. -/
def State.walkFrom (s : State) (va part : Nat) :
    (fuel level table : Nat) → List WalkEntry → Walked × List WalkEntry
  | 0, _, _, acc => (.malformed, acc)
  | fuel + 1, level, table, acc =>
    let (lo, w) := levelBits level
    let pa := table + va / 2 ^ lo % 2 ^ w * 8
    if Config.hbmBytes ≤ pa then (.dead pa, acc)
    else
      let e : Dword := BitVec.ofNat 64 (leNat (s.homeBytes pa 8))
      if s.homePoison pa 8 then (.malformed, acc)
      else if !entryV e then (.absent level, acc)
      else if entryMalformed level e then (.malformed, acc)
      else if entryLeaf e then (.leaf level e, acc)
      else s.walkFrom va part fuel (level + 1) (entryAddr e)
        ({ part, level, base := va / levelSize level, entry := e } :: acc)

/-- A whole walk for a partition, from the walk cache given or from the root. -/
def State.walk (s : State) (wc : List WalkEntry) (part va : Nat) : Walked × List WalkEntry :=
  match cachedTable wc part va with
  | some (l, t) => s.walkFrom va part (5 - l) (l + 1) t []
  | none => s.walkFrom va part 5 1 (s.part part).root []

/-! ## Translation -/

/-- The physical address that a leaf gives a virtual address, unified (log 7, DESIGN CHOICE). -/
def leafPa (e : Dword) (size va : Nat) : Nat :=
  let pa := entryAddr e + va % size
  match entryTarget e with
  | 0 => pa
  | 1 => hostBase + pa
  | _ => peerAddr (entryPort e) (entryPeer e) pa

/-- The cached leaf for an address: core TLB, then cluster TLB (R195). -/
def State.tlbFind (s : State) (core part va : Nat) : Option TlbEntry :=
  let hit : TlbEntry → Bool := fun t => t.part == part && t.base ≤ va && va < t.base + t.size
  ((s.core core).tlb.find? hit).orElse fun _ => (s.cluster (clusterOf core)).tlb.find? hit

/-- What is known of the page of an address: a walk result kept for the party that waited for it, or a
cached leaf, the old one until an invalidation (log 81, DESIGN CHOICE); none is a miss. -/
def State.pageOf (s : State) (core part : Nat) (walks : List WalkResult) (va : Nat) :
    Option WalkResult :=
  match walks.find? fun w => w.page == va / 2 ^ 16 with
  | some w => some w
  | none => (s.tlbFind core part va).map fun t =>
      { page := va / 2 ^ 16, entry := t.entry, bad := false,
        level := ([2, 3, 4].find? fun l => levelSize l == t.size).getD 5 }

/-- Which accesses a page must allow. -/
structure Need where
  rd : Bool := false
  w  : Bool := false
  x  : Bool := false
deriving DecidableEq, Repr

/-- The state with every port up: for a check that no port has a part in. -/
def State.portsUp (s : State) : State := { s with ports := s.ports.map fun _ => true }

/-- Checks 6 and 7 of R100, for an address in space 1 or 5; a page behind a port that is down allows no access
(R396) (log 32, DEDUCED). -/
def State.translate (s : State) (core part : Nat) (walks : List WalkResult) (va : Nat) (need : Need)
    (f : LaneFault) : Except Stop Nat :=
  match s.pageOf core part walks va with
  | none => .error (.walk (va / 2 ^ 16))
  | some w =>
    if w.bad then
      if w.level = 0 then raise { f with code := 0x0C, detail := 4 }
      else raise { f with code := 0x0B, detail := w.level }
    else if need.rd && !entryRd w.entry then raise { f with code := 0x0C, detail := 1 }
    else if need.w && !entryW w.entry then raise { f with code := 0x0C, detail := 2 }
    else if need.x && !entryX w.entry then raise { f with code := 0x0C, detail := 3 }
    else
      let pa := leafPa w.entry (levelSize w.level) va
      if isDevice pa && Config.hbmBytes ≤ pa then .error (.dead pa)
      else if !s.reachable pa then
        raise { f with code := 0x0C, detail := if need.w && !need.rd then 2 else 1 }
      else .ok pa

/-! ## The checks of an access (R100) -/

/-- Who makes an access: its core, partition, team number and allocation, and kept walk results. -/
structure Accessor where
  core  : Nat
  part  : Nat
  team  : Nat
  z     : Nat
  walks : List WalkResult
deriving DecidableEq, Repr

/-- A memory access of one lane. `addr` is formed exactly (R99); `idx` is the element that formed it;
`perm` is the permission needed; `fields` are the operand field numbers of capability and index. -/
structure Access where
  cap   : Cap
  idx   : Elem
  addr  : Int
  size  : Nat
  align : Nat
  perm  : Bool
  need  : Need
deriving DecidableEq, Repr

/-- The fault that an access raises, without its code: address, space and size (R221, R222). The operand field
is `field` (log 24, DEDUCED). -/
def Access.fault (a : Access) (code : Byte) (field : Nat) : LaneFault :=
  { code, addr := BitVec.ofNat 64 (a.addr % 2 ^ 52).toNat, operand := field, space := a.cap.space,
    size := Nat.log2 (max a.size 1) }

/-- Checks 1 to 5 of R100 in order: the address. -/
def Access.checks (a : Access) (z : Nat) : Except Stop Nat := do
  require a.cap.tag (a.fault 0x07 6)
  require (!a.idx.poison) { a.fault 0x0E 5 with detail := 1, observed := a.idx.bits }
  require a.perm (a.fault 0x09 6)
  require ((a.cap.base : Int) ≤ a.addr && a.addr + a.size ≤ a.cap.limit) (a.fault 0x08 5)
  let va := a.addr.toNat
  require (a.cap.space != 2 || va + a.size ≤ z)
    { a.fault 0x12 5 with addr := BitVec.ofNat 64 (max va z) }
  require (va % a.align == 0) (a.fault 0x0A 5)
  return va

/-- Where an address of a space lies, with checks 6 and 7 of R100. In space 3 the offset must lie within
the partition's Folio, which every capability minted for it does. -/
def State.locate (s : State) (by_ : Accessor) (a : Access) (va : Nat) : Except Stop Place :=
  match a.cap.space with
  | 2 => .ok (.pad by_.team va)
  | 3 => .ok (.folio by_.part va)
  | 4 => .ok (.mem ((s.part by_.part).qtable + va))
  | _ => return .mem (← s.translate by_.core by_.part by_.walks va a.need (a.fault 0x0B 5))

/-- Checks 1 to 7 of R100 in order: where the access goes. -/
def State.access (s : State) (by_ : Accessor) (a : Access) : Except Stop Place := do
  s.locate by_ a (← a.checks by_.z)

end Sys2Proof.Machine
end

