-- ==== Sys2Proof/Machine/QueueBase.lean ====
section
/-! DEFINITION. Releases and acquires (R144 to R148), the scope checker (R156, R157), queue homes (R165 to
R185), and handler packets (R182, R183). -/

namespace Sys2Proof

/-- Rank of a scope (R142). -/
def Scope.rank : Scope → Nat
  | .grp => 0 | .core => 1 | .clu => 2 | .die => 3 | .dev => 4 | .sys => 5

end Sys2Proof

namespace Sys2Proof.Machine

/-! ## Contexts -/

/-- Key of a grid in the state: partition × 65,536 + context number. CTXID of a grid (R89) (log 49, DESIGN
CHOICE). -/
def gridKey (part ctx : Nat) : Nat := part * 65536 + ctx
def gridCtxid (key : Nat) : Word := BitVec.ofNat 32 (key % 65536 * 65536 + key / 65536 % 8)
/-- The grid that a CTXID names. -/
def ctxidGrid (c : Word) : Nat := gridKey (c.toNat % 8) (c.toNat / 65536)

/-! ## Releases and acquires -/

/-- The waits of a release (R145): scratchpad writes of the team complete, and at `.clu` or wider a marker enters the
core's dirty-line FIFO, which drains up to it. Every load and store of the issuing party has already been read or
written; posted writes arrive at once. -/
def State.releaseAt (s : State) (core : Nat) (teamCores : List Nat) (x : Scope) : State :=
  let s := teamCores.foldl (fun s c => s.modCore c fun k => { k with pad := k.pad.settle (s.nowAt c) }) s
  if 2 ≤ x.rank then (s.pushFifo core .marker).drainAll core else s

/-- The acquire actions (R147). -/
def State.acquireAt (s : State) (core : Nat) (y : Scope) : State :=
  if 2 ≤ y.rank then s.acquireL1 core else s

/-- The physical cores of a scope around a core of a partition. -/
def inScope (x : Scope) (around core : Nat) : Bool :=
  match x with
  | .grp | .core => around == core
  | .clu => clusterOf around == clusterOf core
  | .die => dieOf around == dieOf core
  | .dev | .sys => true

/-! ## The scope checker (R156, R157, R202) -/

/-- The number of a scratchpad line in its controller's table: the team and the offset. -/
def padLine (team off : Nat) : Nat := team * 2 ^ 25 + off / 128

/-- Record a release that reaches a line (R156). Host and peer lines keep no record (log 30, DEDUCED). -/
def State.recordRelease (s : State) (part core : Nat) (x : Scope) (p : Place) : State :=
  match p with
  | .mem pa =>
    if isDevice pa then
      s.homeRecord { line := pa / 128, scope := x, part, core }
    else s
  | .pad team off =>
    match s.teams.find? team with
    | some t =>
      s.modCore (s.padLoc t off).core fun c =>
        { c with scopes := putRecord c.scopes { line := padLine team off, scope := x, part, core } 1 256 }
    | none => s
  | _ => s

/-- A release of the clerks or of the device itself reaches a line: its record names no core, so that the line has none
afterwards (R156, R157) (log 30, DEDUCED). -/
def State.clearRecord (s : State) (part : Nat) (p : Place) : State :=
  match p with
  | .mem pa => s.modSlice ((s.part part).homeSlice pa) fun sl => { sl with scopes := sl.scopes.filter (·.line != pa / 128) }
  | .pad team off => match s.teams.find? team with
    | some t => s.modCore (s.padLoc t off).core fun c =>
        { c with scopes := c.scopes.filter (·.line != padLine team off) }
    | none => s
  | _ => s

/-- The record of a line. -/
def State.recordOf (s : State) (part : Nat) (p : Place) : Option ScopeRec :=
  match p with
  | .mem pa =>
    if isDevice pa then (s.slice ((s.part part).homeSlice pa)).scopes.find? (·.line == pa / 128) else none
  | .pad team off =>
    match s.teams.find? team with
    | some t => (s.core (s.padLoc t off).core).scopes.find? (·.line == padLine team off)
    | none => none
  | _ => none

/-- An acquire at a scope by a core passes the check (R157). -/
def State.acquireOk (s : State) (part core : Nat) (y : Scope) (p : Place) : Bool :=
  match s.recordOf part p with
  | none => true
  | some r => r.part == part && inScope r.scope r.core core && inScope y core r.core

/-! ## Plain access to places -/

/-- Bytes of a place as its home holds them. -/
def State.placeBytes (s : State) (p : Place) (n : Nat) : List Byte :=
  match p with
  | .mem pa => s.homeBytes pa n
  | .pad team off => match s.teams.find? team with
    | some t => s.padBytes t off n
    | none => List.replicate n 0
  | .folio part off =>
    (List.range n).map fun i =>
      s.folio.read ((s.part part).folio.getD ((off + i) / Config.bankGroupBytes) 0 *
        Config.bankGroupBytes + (off + i) % Config.bankGroupBytes)
  | .const bs => bs.take n

/-- A granule or sector of the place's bytes is poisoned, or lost with its bank. -/
def State.placePoison (s : State) (p : Place) (n : Nat) : Bool :=
  match p with
  | .mem pa => s.homePoison pa n || !s.reachable pa
  | .pad team off => match s.teams.find? team with
    | some t => s.padPoison t off n
    | none => false
  | .folio part off =>
    (List.range ((off + n - 1) / 32 - off / 32 + 1)).any fun i =>
      let o := off / 32 * 32 + 32 * i
      s.folioPoison.contains (((s.part part).folio.getD (o / Config.bankGroupBytes) 0 *
        Config.bankGroupBytes + o % Config.bankGroupBytes) / 32)
  | .const _ => false

/-- Read bytes at a place, with poison, as an atomic or a queue operation does (R125, R133, R134): the errors that a
scratchpad read meets are met. The read of a read-modify-write does not wait at the bank by itself. -/
def State.placeSee (s : State) (p : Place) (n : Nat) (asks : Bool := true) : (List Byte × Bool) × State :=
  match p with
  | .pad team off => match s.teams.find? team with
    | some t =>
      let s := s.padMeet t off n (some { cls := 5, unit := 0, asks })
      ((s.padBytes t off n, s.padPoison t off n), s)
    | none => ((List.replicate n 0, false), s)
  | p => ((s.placeBytes p n, s.placePoison p n), s)

/-- Write bytes at a place: capability tags go (R97). The Folio is written by FOLIO packets only. -/
def State.placeWrite (s : State) (p : Place) (bs : List Byte) (poison : Bool := false) (unit : Nat := 0) : State :=
  match p with
  | .mem pa => s.homeWrite pa bs poison
  | .pad team off =>
    if bs.isEmpty then s
    else match s.teams.find? team with
      | some t => (granulesOf off bs).foldl (fun s (w, d, m) =>
          s.padWriteGranule t (16 * w) d m false poison (some { cls := 5, unit })) s
      | none => s
  | _ => s

/-- A core's own stores to a place go to its home before another agent's operation there (R139,
R149). -/
def State.ownFirst (s : State) (core : Nat) (p : Place) (n : Nat) : State :=
  match p with
  | .mem pa => s.flushRange core pa n
  | _ => s

/-! ## Control blocks (R165 to R168) -/

/-- A queue control block. -/
structure Qcb where
  head     : Word
  tail     : Word
  reserve  : Word
  take     : Word
  free     : Word
  config   : Word
  slotBase : Dword
  sibling  : Dword
  pwait    : Word
  cwait    : Word
  home     : Word
  owner    : Word
  check    : Word
  rsvd     : Word
deriving DecidableEq, Repr

/-- Two words as one of 64 bits. -/
def join64 (lo hi : Word) : Dword := hi ++ lo

def Qcb.ofWords (w : List Word) : Qcb :=
  let g : Nat → Word := fun i => w.getD i 0
  { head := g 0, tail := g 1, reserve := g 2, take := g 3, free := g 4, config := g 5,
    slotBase := join64 (g 6) (g 7), sibling := join64 (g 8) (g 9), pwait := g 10, cwait := g 11,
    home := g 12, owner := g 13, check := g 14, rsvd := g 15 }

def Qcb.words (q : Qcb) : List Word :=
  [q.head, q.tail, q.reserve, q.take, q.free, q.config, q.slotBase.setWidth 32,
   (q.slotBase >>> 32).setWidth 32, q.sibling.setWidth 32, (q.sibling >>> 32).setWidth 32, q.pwait,
   q.cwait, q.home, q.owner, q.check, q.rsvd]

/-- The words of a run of bytes. -/
def wordsOf (n : Nat) (bs : List Byte) : List Word :=
  (List.range n).map fun i => BitVec.ofNat 32 (leNat ((bs.drop (4 * i)).take 4))

/-- The bytes of a run of words. -/
def bytesOf (ws : List Word) : List Byte := ws.flatMap fun w => leBytes 4 w.toNat

def Qcb.esz (q : Qcb) : Nat := q.config.toNat % 16
def Qcb.caplog (q : Qcb) : Nat := q.config.toNat / 16 % 32
def Qcb.cap (q : Qcb) : Nat := 2 ^ q.caplog
def Qcb.state (q : Qcb) : Nat := q.config.toNat / 2 ^ 9 % 4
def Qcb.blk (q : Qcb) : Bool := q.config.getLsbD 11
def Qcb.md (q : Qcb) : Bool := q.config.getLsbD 12
def Qcb.sp (q : Qcb) : Bool := q.config.getLsbD 13
def Qcb.kind (q : Qcb) : Nat := q.config.toNat / 2 ^ 14 % 4

/-- Difference of two counts modulo 2^32. -/
def countDiff (a b : Word) : Nat := (a - b).toNat

/-- CHECK as it should be (R168). -/
def Qcb.checkWord (q : Qcb) : Word :=
  q.config ^^^ q.slotBase.setWidth 32 ^^^ (q.slotBase >>> 32).setWidth 32 ^^^ q.sibling.setWidth 32 ^^^
    (q.sibling >>> 32).setWidth 32 ^^^ q.home ^^^ 0x5A5A5A5A

/-- CONFIG holds legal values (R166). -/
def configOk (c : Word) : Bool :=
  let q : Nat := c.toNat
  2 ≤ q % 16 && q % 16 ≤ 8 && 2 ≤ q / 16 % 32 && q / 16 % 32 ≤ 16 && q / 2 ^ 16 == 0

/-- Reserved bits of SIBLING (R167). -/
def siblingOk (d : Dword) : Bool :=
  let sp := d.toNat / 2 ^ 60
  d.toNat / 2 ^ 52 % 256 == 0 && (sp == 0 || sp == 1 || sp == 2 || sp == 4)

/-- Reserved bits of HOME (R167). -/
def homeOk (h : Word) : Bool :=
  if h.getLsbD 15 then h.toNat / 2 ^ 16 == 0 && h.toNat / 2 ^ 7 % 256 == 0
  else h.toNat / 2 ^ 9 == 0 && h.toNat / 2 ^ 5 % 8 == 0

/-- The check of R168 that fails: its number and the word found, for check 5 CONFIG (log 64, DESIGN CHOICE). -/
def Qcb.corrupt (q : Qcb) : Option (Nat × Word) :=
  if q.check != q.checkWord then some (1, q.check)
  else if q.free != BitVec.ofNat 32 q.cap - (q.reserve - q.head) then some (2, q.free)
  else if countDiff q.tail q.head < countDiff q.take q.head then some (3, q.take)
  else if countDiff q.reserve q.head < countDiff q.tail q.head then some (4, q.tail)
  else if q.cap < countDiff q.reserve q.head then some (4, q.reserve)
  else if !configOk q.config || q.state == 3 || q.rsvd != 0 || !siblingOk q.sibling || !homeOk q.home then
    some (5, q.config)
  else none

/-- FREE follows RESERVE and HEAD (R165). -/
def Qcb.setFree (q : Qcb) : Qcb := { q with free := BitVec.ofNat 32 q.cap - (q.reserve - q.head) }

/-- Set STATE; CHECK is recomputed (R168). -/
def Qcb.setState (q : Qcb) (st : Nat) : Qcb :=
  let q := { q with config := (q.config &&& 0xFFFFF9FF#32) ||| BitVec.ofNat 32 (st * 2 ^ 9) }
  { q with check := q.checkWord }

/-! ## Homes -/

/-- Key of a queue home (log 49, DESIGN CHOICE). -/
def Place.queueKey : Place → Nat
  | .mem pa => pa
  | .pad t off => 2 ^ 70 + t * 2 ^ 32 + off
  | _ => 0

/-- The place of a home's key. -/
def placeOfKey (k : Nat) : Place :=
  if k < 2 ^ 70 then .mem k else .pad ((k - 2 ^ 70) / 2 ^ 32) ((k - 2 ^ 70) % 2 ^ 32)

/-- A queue at work: the state, the block, what its home holds, and where it lies. -/
structure QSt where
  s     : State
  q     : Qcb
  h     : QHome
  place : Place

/-- Open a queue's home for an operation. A block in a lost bank reads as the lost words' free values (log 78, DESIGN
CHOICE). -/
def State.qOpen (s : State) (p : Place) : QSt :=
  let ((bs, _), s) := s.placeSee p 64
  { s, q := Qcb.ofWords (wordsOf 16 bs), h := s.queue p.queueKey, place := p }

/-- The wait-list word of a list (R165): the handle is a free value, never 0xFFFF_FFFF (log 2, DESIGN CHOICE).
-/
def waitWord (n : Nat) (empty : Bool) : Word :=
  if empty then 0xFFFFFFFF
  else
    let h := Config.waitHandle n
    if h = 0xFFFFFFFF then 0 else h

/-- Write the block and the home back. -/
def QSt.done (x : QSt) : State :=
  let s := { x.s with free := x.s.free + 2 }
  let q := { x.q with pwait := waitWord x.s.free x.h.producers.isEmpty,
                      cwait := waitWord (x.s.free + 1) x.h.consumers.isEmpty }
  (s.placeWrite x.place (bytesOf q.words)).setQueue x.place.queueKey { x.h with answered := s.clock.time }

/-- Translate for a home or for firmware: a walk of its own that caches nothing (R197). -/
def State.walkPa (s : State) (part va : Nat) (need : Need) (f : LaneFault) : Except Stop Nat :=
  match (s.walk [] part va).1 with
  | .leaf level e =>
    s.translate 0 part [{ page := va / 2 ^ 16, level, entry := e, bad := false }] va need f
  | .absent l => raise { f with code := 0x0B, detail := l }
  | .malformed => raise { f with code := 0x0C, detail := 4 }
  | .dead pa => .error (.dead pa)

/-- Address of slot i in the queue's own space (R169). -/
def Qcb.slotAddr (q : Qcb) (i : Word) : Nat :=
  q.slotBase.toNat % 2 ^ 52 + i.toNat % q.cap * 2 ^ q.esz

/-- The space of a queue reference. -/
def refSpace (r : Dword) : Nat := r.toNat / 2 ^ 60 % 8

/-- Where slot i lies: in the team's allocation, in the queue table, or at a translated address (log 25,
DEDUCED). -/
def QSt.slot (x : QSt) (w : QWait) (i : Word) (need : Need) : Except Stop Place :=
  let a := x.q.slotAddr i
  let f : LaneFault :=
    { code := 0x0B, addr := BitVec.ofNat 64 a, space := refSpace w.qref, size := x.q.esz, operand := 1 }
  let part := w.holder.ctx.toNat % 8
  match x.place with
  | .pad team _ =>
    match x.s.teams.find? team with
    | some t => if a + 2 ^ x.q.esz ≤ t.z then .ok (.pad team a)
        else raise { f with code := 0x12, addr := BitVec.ofNat 64 (max a t.z) }
    | none => raise { f with code := 0x12 }
  | _ =>
    if refSpace w.qref = 4 then .ok (.mem ((x.s.part part).qtable + a))
    else return .mem (← x.s.walkPa part a need f)

/-- No slot can be reserved (R170, R174). -/
def Qcb.full (q : Qcb) : Bool := q.cap ≤ countDiff q.reserve q.head || 64 ≤ countDiff q.reserve q.tail

/-- No slot can be taken. -/
def Qcb.empty (q : Qcb) : Bool := q.take == q.tail || 64 ≤ countDiff q.take q.head

/-- Closed and drained (R174). -/
def Qcb.drained (q : Qcb) : Bool := q.state == 1 && q.tail == q.reserve && q.take == q.tail

/-- TAIL moves over the committed prefix. -/
def commitRun : Nat → Word → List Nat → Word × List Nat
  | 0, t, c => (t, c)
  | n + 1, t, c => if c.contains t.toNat then commitRun n (t + 1) (nerase t.toNat c) else (t, c)

/-- Commit(q, i) (R174). -/
def QSt.commit (x : QSt) (i : Word) : QSt :=
  let c := ninsert i.toNat x.h.committed
  let (t, c) := commitRun c.length x.q.tail c
  { x with q := { x.q with tail := t }
           h := { x.h with committed := c, reserved := x.h.reserved.erase i.toNat } }

/-- HEAD moves over the done prefix, as far as TAKE. -/
def doneRun : Nat → Word → Word → List Nat → List Nat → Word × List Nat × List Nat
  | 0, h, _, d, v => (h, d, v)
  | n + 1, h, t, d, v =>
    if h != t && d.contains h.toNat then
      doneRun n (h + 1) t (nerase h.toNat d) (nerase h.toNat v)
    else (h, d, v)

/-- Done(q, i) (R174). -/
def QSt.finish (x : QSt) (i : Word) : QSt :=
  let d := ninsert i.toNat x.h.done
  let (h, d, v) := doneRun d.length x.q.head x.q.take d x.h.void
  { x with q := ({ x.q with head := h } : Qcb).setFree
           h := { x.h with done := d, void := v, taken := x.h.taken.erase i.toNat } }

/-- Give a lane its result. -/
def QWait.give (w : QWait) (lane : Nat) (ok : Bool) (words : List Word) : QWait :=
  { w with results := w.results ++ [{ lane, ok, words }] }

/-- A lane of the operation faults. -/
def QWait.fail (w : QWait) (lane : Nat) (f : LaneFault) : QWait :=
  { w with faults := w.faults ++ [(lane, f)] }

/-- The fault of a stop met at a home: a page that a home walks to is walked at once, so only a fault
can be met; memory that does not exist stops the lane as an absent page does. -/
def Stop.asFault : Stop → LaneFault
  | .fault f => f
  | .dead pa => { code := 0x0B, addr := BitVec.ofNat 64 pa }
  | _ => { code := 0x0B }

/-- An operation acquires. -/
def QOp.acquires : QOp → Bool
  | .enq => false
  | _ => true

/-- The scope checker judges the acquire of a lane when it takes its slot, or completes because the queue has closed, by
the record that stands then: nothing is delivered and no slot is taken where it fails (R157). -/
def QSt.scopeFault (x : QSt) (w : QWait) : Option LaneFault :=
  if w.op.acquires && !x.s.acquireOk (w.holder.ctx.toNat % 8) w.core w.scope x.place then
    some { code := 0x0D, detail := w.scope.rank, operand := 6, space := refSpace w.qref, size := 6
           addr := BitVec.ofNat 64 (w.qref.toNat % 2 ^ 52 / 128 * 128) }
  else none

/-- The producer pass over some lanes (R174, R175); lanes that find the queue full stay. -/
def enqPass : List (Nat × List Word) → QSt → QWait → QSt × QWait
  | [], x, w => (x, { w with lanes := [] })
  | (l, ws) :: r, x, w =>
    if x.q.full then (x, { w with lanes := (l, ws) :: r })
    else
      let i := x.q.reserve
      let bump : QSt → QSt := fun x => { x with q := ({ x.q with reserve := i + 1 } : Qcb).setFree }
      if w.op = .rsv then
        match x.scopeFault w with
        | some f => enqPass r x (w.fail l f)
        | none =>
          let x := bump x
          enqPass r { x with h := { x.h with reserved := x.h.reserved.insert i.toNat w.holder } }
            (w.give l true [i])
      else
        match x.slot w i { w := true } with
        | .error e => enqPass r x (w.fail l e.asFault)
        | .ok p =>
          let x := bump x
          let s := (x.s.ownFirst w.core p (2 ^ x.q.esz)).placeWrite p ((bytesOf ws).take (2 ^ x.q.esz))
          let by_ := (w.holder.ctx, (s.grids.find? (ctxidGrid w.holder.ctx)).elim 0 (·.cls))
          let h := if x.q.kind = 2 then { x.h with launchBy := x.h.launchBy.insert i.toNat by_ } else x.h
          enqPass r (({ x with s, h }).commit i) (w.give l true [])

/-- The consumer pass (R174, R175). -/
def deqPass : List (Nat × List Word) → QSt → QWait → QSt × QWait
  | [], x, w => (x, { w with lanes := [] })
  | (l, ws) :: r, x, w =>
    if x.q.empty then
      if x.q.drained then
        match x.scopeFault w with
        | some f => deqPass r x (w.fail l f)
        | none => deqPass r x (w.give l false [2])
      else (x, { w with lanes := (l, ws) :: r })
    else
      match x.scopeFault w with
      | some f => deqPass r x (w.fail l f)
      | none =>
        let i := x.q.take
        let bump : QSt → QSt := fun x => { x with q := { x.q with take := i + 1 } }
        if x.h.void.contains i.toNat then
          deqPass r ((bump x).finish i) (w.give l false [3])
        else if w.op = .take then
          let x := bump x
          deqPass r { x with h := { x.h with taken := x.h.taken.insert i.toNat w.holder } }
            (w.give l true [i])
        else
          match x.slot w i { w := true } with
          | .error e => deqPass r x (w.fail l e.asFault)
          | .ok p =>
            let n := 2 ^ x.q.esz
            let ((bs, bad), s) := (x.s.ownFirst w.core p n).placeSee p n
            let words := wordsOf ((n + 3) / 4) bs
            let x := (bump { x with s }).finish i
            if bad then
              let f : LaneFault :=
                { code := 0x0E, detail := 3, operand := 1, space := refSpace w.qref,
                  addr := BitVec.ofNat 64 (w.qref.toNat % 2 ^ 52), observed := words.getD 0 0 }
              deqPass r x (w.fail l f)
            else deqPass r x (w.give l true words)

/-- The pass of an operation over its lanes. -/
def QSt.pass (x : QSt) (w : QWait) : QSt × QWait :=
  match w.op with
  | .enq | .rsv => enqPass w.lanes x w
  | .deq | .take => deqPass w.lanes x w

/-- What a lane is given that finds no slot without blocking (R176). -/
def QWait.giveUp (w : QWait) : QWait :=
  let w' := w.lanes.foldl (fun a l => a.give l.1 false
    (match w.op with | .deq | .take => [1] | _ => [])) w
  { w' with lanes := [] }

/-- Serve the head of one wait list: none where nothing moves. -/
def QSt.serve (x : QSt) : Option QSt :=
  let tryC : Option QSt :=
    match x.h.consumers with
    | [] => none
    | w :: r =>
      let (x', w') := x.pass w
      if w'.lanes.length = w.lanes.length then none
      else if w'.lanes.isEmpty then
        some { x' with h := { x'.h with consumers := r, served := x'.h.served ++ [w'] } }
      else some { x' with h := { x'.h with consumers := w' :: r } }
  match tryC with
  | some y => some y
  | none =>
    match x.h.producers with
    | [] => none
    | w :: r =>
      let (x', w') := x.pass w
      if w'.lanes.length = w.lanes.length then none
      else if w'.lanes.isEmpty then
        some { x' with h := { x'.h with producers := r, served := x'.h.served ++ [w'] } }
      else some { x' with h := { x'.h with producers := w' :: r } }

def serveRun : Nat → QSt → QSt
  | 0, x => x
  | n + 1, x => match x.serve with
    | some y => serveRun n y
    | none => x

/-- Hand slots and room to the parked batches, first in first out (R177). -/
def QSt.pump (x : QSt) : QSt :=
  serveRun (((x.h.consumers ++ x.h.producers).map fun w => w.lanes.length).sum) x

/-- A parked producer meets a closed queue: its lanes complete with predicate 0, but for those of a `qrsv` whose acquire
the scope checker refuses (R157, R180). -/
def QSt.shut (x : QSt) (w : QWait) : QWait :=
  { w.lanes.foldl (fun (a : QWait) l => match x.scopeFault w with
      | some f => a.fail l.1 f
      | none => a.give l.1 false []) w with lanes := [] }

/-- Close (R180): parked producers complete. -/
def QSt.close (x : QSt) : QSt :=
  { x with q := x.q.setState 1
           h := { x.h with producers := [], served := x.h.served ++ x.h.producers.map x.shut } }

/-- Break (R181): every parked lane faults. -/
def QSt.breakQ (x : QSt) (detail : Nat) : QSt :=
  let out := (x.h.consumers ++ x.h.producers).map fun w =>
    let f : LaneFault := { code := 0x0F, detail, operand := 6, space := refSpace w.qref, size := 6
                           addr := BitVec.ofNat 64 (w.qref.toNat % 2 ^ 52) }
    { w.lanes.foldl (fun (a : QWait) l => a.fail l.1 f) w with lanes := [] }
  { x with q := x.q.setState 2
           h := { x.h with producers := [], consumers := [], served := x.h.served ++ out } }

/-- The home of a queue's block for the parties of a partition: an L2 slice or a scratchpad controller. -/
def State.homeOfQueue (s : State) (part : Nat) (p : Place) : Nat :=
  match p with
  | .mem pa => (s.part part).homeSlice pa
  | .pad t off => match s.teams.find? t with
    | some tm => 4096 + (s.padLoc tm off).core
    | none => 8192
  | _ => 8192

/-- Number of batches parked at the home of a queue, each counted at the home that its own partition gives its queue
(R177). -/
def State.homeLoad (s : State) (part : Nat) (p : Place) : Nat :=
  (s.queues.cells.map fun c => ((c.2.producers ++ c.2.consumers).filter fun w =>
    s.homeOfQueue (w.holder.ctx.toNat % 8) (placeOfKey c.1) == s.homeOfQueue part p).length).sum

/-! ## Handler packets (R182, R183) -/

def Packet.words (p : Packet) : List Word :=
  [BitVec.ofNat 32 (p.detail.toNat * 65536 + p.code.toNat * 256 + p.kind.toNat), p.party,
   p.qref.setWidth 32, (p.qref >>> 32).setWidth 32, p.pc.setWidth 32, (p.pc >>> 32).setWidth 32,
   p.observed, BitVec.ofNat 32 (p.core.toNat * 256 + p.lane.toNat)]

/-- MSI-X vector of a virtual function (R393) (log 48, DESIGN CHOICE). -/
def State.interrupt (s : State) (vf vector : Nat) : State :=
  { s with outbox := s.outbox ++ [.interrupt vf vector] }

/-- Enqueue a packet on an error queue without waiting; none where the block fails the checks, is no open
error queue, or is full. The flag says that the queue was empty. -/
def State.packetInto (s : State) (part : Nat) (p : Place) (space : Nat) (k : Packet) :
    Option (State × Bool) :=
  let x := s.qOpen p
  if x.q.corrupt.isSome || x.q.state != 0 || x.q.kind != 3 || x.q.esz != 5 || x.q.full then none
  else
    let w : QWait :=
      { party := .group 0, holder := { ctx := BitVec.ofNat 32 part, team := 0, group := 0 }, op := .enq,
        active := [0], lanes := [(0, k.words)], results := [], faults := [], pc := 0, core := 0, scope := .dev
        qref := BitVec.ofNat 64 (space * 2 ^ 60), args := none }
    let wasEmpty := x.q.take == x.q.tail
    let (x, w) := x.pass w
    if w.faults.isEmpty then some (x.pump.done.clearRecord part p, wasEmpty) else none

/-- The error queue of a partition (R187). -/
def State.errorQueue (s : State) (part : Nat) : Place := .mem ((s.part part).qtable + 64)

/-- Where SIBLING leads: the place of the queue and its space; the device queue table has 64 entries (R94, R187). -/
def State.siblingPlace (s : State) (part : Nat) (sibling : Dword) (team : Option Nat) :
    Option (Place × Nat) :=
  let a := sibling.toNat % 2 ^ 52
  if a % 64 != 0 || !siblingOk sibling then none
  else match refSpace sibling with
    | 1 => match s.walkPa part a { w := true } { code := 0 } with
      | .ok pa => if isDevice pa then some (.mem pa, 1) else none
      | .error _ => none
    | 2 => match team with
      | some t => match s.teams.find? t with
        | some tm => if a + 64 ≤ tm.z then some (.pad t a, 2) else none
        | none => none
      | none => none
    | 4 => if a < 4096 then some (.mem ((s.part part).qtable + a), 4) else none
    | _ => none

/-- The device keeps its last 256 error records (R401). -/
def State.keepRecord (s : State) (k : Packet) : State :=
  if k.kind = 4 then { s with errors := (s.errors ++ [k]).drop (s.errors.length + 1 - 256) } else s

/-- A packet goes to the partition's error queue, else HPDROP counts it (R183). -/
def State.toErrorQueue (s : State) (part : Nat) (k : Packet) : State :=
  match s.packetInto part (s.errorQueue part) 4 k with
  | some (s, wasEmpty) => if wasEmpty then s.interrupt part 0 else s
  | none => s.modPart part fun p => { p with hpdrop := p.hpdrop + 1 }

/-- The error record of a malformed page entry that a walk of the device's own has met at an address: a home, a clerk
or the trap-table read (R194, R227). -/
def walkRecord (party : Word) (va : Nat) (pc : Dword) (core lane : Nat) : Packet :=
  { kind := 4, code := 0x0C, detail := 4, party, qref := BitVec.ofNat 64 (2 ^ 60 + va % 2 ^ 52), pc, observed := 0
    core := BitVec.ofNat 7 core, lane := BitVec.ofNat 6 lane }

/-- A walk has met a malformed entry. -/
def walkMalformed : Except Stop Nat → Bool
  | .error (.fault f) => f.code == 0x0C && f.detail == 4
  | _ => false

/-- The walk to a sibling meets a malformed entry. -/
def State.siblingMalformed (s : State) (part : Nat) (sibling : Dword) : Bool :=
  refSpace sibling == 1 && sibling.toNat % 64 == 0 && siblingOk sibling &&
    walkMalformed (s.walkPa part (sibling.toNat % 2 ^ 52) { w := true } { code := 0 })

/-- Send a handler packet (R183): to the sibling, else to the error queue, else HPDROP. -/
def State.sendPacket (s : State) (part : Nat) (k : Packet) (sibling : Dword := 0)
    (team : Option Nat := none) : State :=
  let s := s.keepRecord k
  let first := match s.siblingPlace part sibling team with
    | some (p, sp) => if p = s.errorQueue part then none else s.packetInto part p sp k
    | none => none
  match first with
  | some (s, _) => s
  | none =>
    let s := if s.siblingMalformed part sibling then
        let r := walkRecord k.party (sibling.toNat % 2 ^ 52) 0 0 0
        (s.keepRecord r).toErrorQueue part r
      else s
    s.toErrorQueue part k

/-- An error record (R227). -/
def State.errorRecord (s : State) (part : Nat) (code : Byte) (detail : Nat) (party : Word) (qref pc : Dword)
    (observed : Word) (core lane : Nat) : State :=
  s.sendPacket part
    { kind := 4, code, detail := BitVec.ofNat 16 detail, party, qref, pc, observed,
      core := BitVec.ofNat 7 core, lane := BitVec.ofNat 6 lane }

/-- A walk of the device's own: a malformed entry that it has met leaves an error record (R194). -/
def State.noteWalk (s : State) (part : Nat) (party : Word) (va : Nat) (r : Except Stop Nat) : State :=
  if walkMalformed r then s.sendPacket part (walkRecord party va 0 0 0) else s

/-! ## Places of a party that goes (R185, R228, R276) -/

/-- Insert in ascending order of distance from a count. -/
def byCount (base : Word) (is : List Nat) : List Word :=
  let key := fun (i : Nat) => countDiff (BitVec.ofNat 32 i) base
  let ins := fun (l : List Nat) (i : Nat) =>
    (l.takeWhile fun j => key j ≤ key i) ++ [i] ++ (l.dropWhile fun j => key j ≤ key i)
  (is.foldl ins []).map fun i => BitVec.ofNat 32 i

/-- One queue when parties go: their reservations become void, their taken slots done, their batches
leave the lists; with a context killed, a queue that it owns closes. -/
def QSt.leave (x : QSt) (mine : Holder → Bool) (owner : Option Word) : QSt :=
  let gone := fun (l : List QWait) => l.filter fun w => !mine w.holder
  let x := { x with h := { x.h with producers := gone x.h.producers, consumers := gone x.h.consumers,
                                    served := gone x.h.served, held := gone x.h.held } }
  let voids := byCount x.q.tail ((x.h.reserved.cells.filter fun c => mine c.2).map (·.1))
  let x := voids.foldl (fun x i =>
    ({ x with h := { x.h with void := ninsert i.toNat x.h.void } } : QSt).commit i) x
  let dones := byCount x.q.head ((x.h.taken.cells.filter fun c => mine c.2).map (·.1))
  let x := dones.foldl (fun x i => x.finish i) x
  let x := match owner with
    | some c => if c != 0 && x.q.owner == c && x.q.state == 0 then x.close else x
    | none => x
  x.pump

/-- A queue has something of the parties, or is the context's own. -/
def State.queueTouched (s : State) (key : Nat) (h : QHome) (mine : Holder → Bool) (owner : Option Word) :
    Bool :=
  (h.producers ++ h.consumers ++ h.served ++ h.held).any (fun w => mine w.holder) ||
  h.reserved.cells.any (fun c => mine c.2) || h.taken.cells.any (fun c => mine c.2) ||
  match owner with
  | some c => c != 0 && (s.qOpen (placeOfKey key)).q.owner == c
  | none => false

/-- Every queue when parties go. -/
def State.leaveQueues (s : State) (mine : Holder → Bool) (owner : Option Word) : State :=
  (s.queues.cells.map (·.1)).foldl (fun s k =>
    if s.queueTouched k (s.queue k) mine owner then ((s.qOpen (placeOfKey k)).leave mine owner).done
    else s) s

end Sys2Proof.Machine
end

