-- ==== Sys2Proof/Machine/Ops.lean ====
section
/-! DEFINITION. What every instruction shares: the context it executes in, taking an exception and
returning from one (R218 to R228), the replay of a strand (R30), the wait for page walks (R195), and the
course of a group instruction and of a Stoker instruction. -/

namespace Sys2Proof.Machine

/-- The outcome of a step. -/
abbrev Result := Host.Outcome State Fault Refusal

/-! ## Contexts of execution -/

/-- What a group's instruction is executed in: the state, the group, its team and grid, and the issue. -/
structure Ctx where
  s   : State
  gid : Nat
  g   : Group
  t   : Team
  gr  : Grid
  is  : Issue

/-- The context of the instruction that a group executes. -/
def State.ctx? (s : State) : Option Ctx := do
  let is ← s.issue
  match is.party with
  | .group gid =>
    let g ← s.groups.find? gid
    let t ← s.teams.find? g.team
    let gr ← s.grids.find? t.grid
    return { s, gid, g, t, gr, is }
  | .stoker _ => none

/-- What a Stoker's instruction is executed in: the stream and its owner. -/
structure SCtx where
  s    : State
  core : Nat
  st   : Stream
  g    : Group
  t    : Team
  gr   : Grid
  is   : Issue

/-- The context of the instruction that a Stoker executes. -/
def State.sctx? (s : State) : Option SCtx := do
  let is ← s.issue
  match is.party with
  | .stoker core =>
    let st ← (s.core core).stream
    let g ← s.groups.find? st.owner
    let t ← s.teams.find? g.team
    let gr ← s.grids.find? t.grid
    return { s, core, st, g, t, gr, is }
  | .group _ => none

/-- The fibre of a lane. -/
def Ctx.fibre? (c : Ctx) (l : Nat) : Option Fibre := c.g.fibres.find? l

/-- A wait names a page. -/
def Wait.forPage (w : Option Wait) (page : Nat) : Bool :=
  match w with
  | some (.walk ps) => ps.contains page
  | _ => false

/-- The kept walk results that serve an access of some lanes: an absent or malformed entry serves those alone that
have waited for it, since no structure holds it (R195, R197). -/
def Group.walksFor (g : Group) (ls : List Nat) : List WalkResult :=
  g.walks.filter fun w => !w.bad || ls.any fun l => (g.fibres.find? l).any fun f => Wait.forPage f.wait w.page

/-- Who makes the accesses of a group. -/
def Ctx.accessor (c : Ctx) : Accessor :=
  { core := c.g.core, part := c.gr.part, team := c.g.team, z := c.t.z,
    walks := c.g.walksFor c.is.lanes }

/-- Who makes the accesses of a stream. -/
def SCtx.accessor (c : SCtx) : Accessor :=
  { core := c.core, part := c.gr.part, team := c.g.team, z := c.t.z, walks := c.st.walks }

/-! ## Records and kills (R227, R228) -/

/-- QREF of a fault that concerns an address. -/
def LaneFault.qref (f : LaneFault) : Dword :=
  if f.space = 0 then 0 else BitVec.ofNat 64 (f.space * 2 ^ 60 + f.addr.toNat % 2 ^ 52)

/-- The error record of a party's fault. -/
def faultRecord (s : State) (t : Team) (gr : Grid) (core lane : Nat) (pc : Addr) (f : LaneFault)
    (detail : Nat) : Packet :=
  { kind := 4, code := f.code, detail := BitVec.ofNat 16 detail, party := gridCtxid t.grid,
    qref := f.qref, pc := pc.setWidth 64,
    observed := if detail = 1 ∨ detail = 2 then f.observed else 0,
    core := BitVec.ofNat 7 ((s.part gr.part).logical core), lane := BitVec.ofNat 6 lane }

/-- A team is to be killed, with error records. -/
def State.requestKill (s : State) (team : Nat) (recs : List Packet) : State :=
  s.modTeam team fun t => { t with kill := some (t.kill.getD [] ++ recs) }

/-! ## Replay (R30) -/

/-- The fibre goes back to its strand start, and its predicates that are not survivors are cleared. A fibre that
stands before a header, its closing instruction completed, stays there (R31, R280) (log 23, DEDUCED). -/
def Fibre.rollback (f : Fibre) : Fibre :=
  if f.needHdr then { f with wait := none, block := none }
  else
    { f with
      pc := f.strand, wait := none, block := none
      pred := f.pred &&& ((f.surv.map fun h => h.pmask).getD 0) }

/-- A load's result for a near register of some lanes. -/
def LaneWrite.nearIn (w : LaneWrite) (ls : List Nat) : Bool :=
  ls.contains w.lane && match w.reg with
    | .n _ => true
    | _ => false

/-- Near valid bits of the lanes go, and with them the near results that loads in flight have for the lanes: no
near register carries a value across (R25, R75). -/
def Group.dropNear (g : Group) (ls : List Nat) : Group :=
  { g with
    nearValid := g.nearValid.filter fun k => !ls.contains (k % 64)
    flights := g.flights.map fun f => { f with writes := f.writes.filter fun w => !w.nearIn ls } }

/-- A kept walk result that another fibre than those of some lanes still waits for. -/
def Group.keptWalks (g : Group) (ls : List Nat) : List WalkResult :=
  g.walks.filter fun w => g.fibres.cells.any fun (l, f) => !ls.contains l && Wait.forPage f.wait w.page

/-- Replay of lanes of a group: the part that lies in the group. -/
def Group.replay (g : Group) (ls : List Nat) : Group :=
  { ((g.discard ls).dropNear ls).modFibres ls (fun _ f => f.rollback) with walks := g.keptWalks ls }

/-- Replay of lanes of a group, the slots' latches included. -/
def State.replay (s : State) (gid : Nat) (ls : List Nat) : State :=
  match s.groups.find? gid with
  | none => s
  | some g =>
    if ls.isEmpty then s
    else (s.setGroup gid (g.replay ls)).modCore g.core fun c => c.dropLatches gid ls

/-! ## Taking an exception (R220 to R226) -/

/-- TRAPCAUSE (R88). -/
def trapCauseWord (v n : Bool) (lane : Nat) (code : Byte) : Word :=
  BitVec.ofNat 32 ((if v then 2 ^ 31 else 0) + (if n then 2 ^ 30 else 0) + lane % 64 * 65536 + code.toNat)

/-- TRAPINFO (R222) (log 24, DEDUCED). -/
def trapInfoWord (pc strand : Addr) (f : LaneFault) : Dword :=
  let off : Int := ((pc.toNat : Int) - strand.toNat) / 8
  BitVec.ofNat 64 ((off % 2 ^ 32).toNat * 2 ^ 32 + f.detail % 256 * 65536 + f.operand % 16 * 4096 +
    f.space % 16 * 16 + f.size % 16)

/-- The trap registers of a fault (R221): V is clear for a restartable fault. -/
def Fibre.record (f : Fibre) (v : Bool) (lane : Nat) (pc : Addr) (x : LaneFault) : Fibre :=
  { f with
    trapCause := trapCauseWord v (f.trapMask.getLsbD 0) lane x.code
    trapPc := pc.setWidth 64
    trapAddr := x.addr
    trapInfo := trapInfoWord pc f.strand x }

/-- Handler entry (R223): record, resume point, masked, and the PC at the handler, where a header must stand
(R206). A `brk` that faults clears the skip bit (R278) (log 23, DEDUCED). -/
def Fibre.enter (f : Fibre) (lane : Nat) (pc handler : Addr) (x : LaneFault) : Fibre :=
  { f.record true lane pc x with
    resume := f.strand, pcWritten := false, trapMask := 1, handler := true, pc := handler,
    needHdr := true, block := none, wait := none, parked := none, entryCode := x.code, entryPc := pc
    skip := if x.code = 0x16 then none else f.skip }

/-- The address of an entry of the trap vector table: none where TRAPBASE is 0, which names no table (R381), or the
entry lies outside the code region (R206). -/
def Grid.trapSlot (gr : Grid) (c : Nat) : Option Nat :=
  let a := gr.kernel.trapBase.toNat % 2 ^ 52 + 8 * c
  if gr.kernel.trapBase != 0 && gr.kernel.code.base ≤ a && a + 8 ≤ gr.kernel.code.limit then some a else none

/-- The physical address of an entry of the trap vector table, translated as a fetch is (R206). -/
def State.trapPa (s : State) (g : Group) (gr : Grid) (a : Nat) : Except Stop Nat :=
  match s.translate g.core gr.part [] a { x := true } { code := 0x0B } with
  | .error (.walk _) => s.walkPa gr.part a { x := true } { code := 0x0B }
  | r => r

/-- An entry of the trap vector table, read as a fetch is (R206): none where it cannot be read or has a reserved
bit set (log 34, DEDUCED). -/
def State.trapEntry (s : State) (g : Group) (gr : Grid) (c : Nat) : Option Dword :=
  match gr.trapSlot c with
  | none => none
  | some a =>
    match s.trapPa g gr a with
    | .error _ => none
    | .ok pa =>
      let e : Dword := BitVec.ofNat 64 (leNat (s.homeBytes pa 8))
      if (s.homeGranule (pa / 16)).2.2 || e.toNat / 2 ^ 52 != 0 || e.toNat % 8 != 0 then none else some e

/-- The handler of a fault code (R206). -/
def State.handlerOf (s : State) (g : Group) (gr : Grid) (code : Byte) : Option Addr :=
  match s.trapEntry g gr code.toNat with
  | none => none
  | some e =>
    if e != 0 then some (e.setWidth 52)
    else match s.trapEntry g gr 0 with
      | none => none
      | some e0 => if e0 != 0 then some (e0.setWidth 52) else none

/-- One page request for each page and context (R226). -/
def State.pageRequest (s : State) (t : Team) (gr : Grid) (core lane : Nat) (pc : Addr) (f : LaneFault) :
    State :=
  let key := (t.grid, f.addr.toNat % 2 ^ 52 / 2 ^ 16)
  if (s.part gr.part).pages.contains key then s
  else
    let s := s.modPart gr.part fun p => { p with pages := p.pages ++ [key] }
    (s.sendPacket gr.part (faultRecord s t gr core lane pc f 10)).interrupt gr.part 1

/-- What a fault of one lane comes to. -/
inductive Fate where
  | park
  | enter (handler : Addr)
  | kill (detail : Nat)
deriving DecidableEq, Repr

/-- The kind of a fault decides its fate (R220, R225) (log 53, DEDUCED); the error record of consumed poison has DETAIL 1
(R227) (log 63, DEDUCED). -/
def State.fateOf (s : State) (g : Group) (gr : Grid) (f : Fibre) (code : Byte) : Fate :=
  if code = 0x0B then .park
  else if code = 0x0E then .kill 1
  else if f.trapMask.getLsbD 0 then .kill 8
  else match s.handlerOf g gr code with
    | some h => .enter h
    | none => .kill 7

/-- Take the fault of one lane at an instruction. -/
def State.takeFault (s : State) (gid : Nat) (pc : Addr) (lane : Nat) (x : LaneFault) : State :=
  match s.groups.find? gid with
  | none => s
  | some g =>
    match s.teams.find? g.team, g.fibres.find? lane with
    | some t, some f =>
      match s.grids.find? t.grid with
      | none => s
      | some gr =>
        match s.fateOf g gr f x.code with
        | .park =>
          let g := (g.replay [lane]).modFibre lane fun r =>
            { (f.record false lane pc x) with
              pc := r.pc, pred := r.pred, wait := none, block := none, parked := some x.code }
          (s.setGroup gid g).pageRequest t gr g.core lane pc x
        | .enter h => s.setGroup gid (g.modFibre lane fun f => f.enter lane pc h x)
        | .kill d =>
          let s := s.setGroup gid (g.modFibre lane fun f =>
            { f.record true lane pc x with parked := some x.code, wait := none })
          s.requestKill g.team [faultRecord s t gr g.core lane pc x d]
    | _, _ => s

/-- The fault of a malformed page entry (R194). -/
def LaneFault.malformed (x : LaneFault) : Bool := x.code == 0x0C && x.detail == 4

/-- One error record for each page whose walk an instruction has found malformed (R194, R227) (log 33, DEDUCED).
-/
def State.malformedRecords (s : State) (t : Team) (gr : Grid) (core : Nat) (pc : Addr)
    (bad : List (Nat × LaneFault)) : State :=
  let first := (bad.filter fun b => b.2.malformed).foldl (fun (acc : List (Nat × LaneFault)) b =>
    if acc.any fun a => a.2.addr.toNat / 2 ^ 16 == b.2.addr.toNat / 2 ^ 16 then acc else acc ++ [b]) []
  first.foldl (fun s (l, x) => s.sendPacket gr.part (faultRecord s t gr core l pc x 4)) s

/-- The faults of some lanes read the trap vector table, and the walk for it meets a malformed entry: an error record
(R194, R206). -/
def State.noteTable (s : State) (t : Team) (g : Group) (gr : Grid) (pc : Addr) (bad : List (Nat × LaneFault)) : State :=
  let reads := bad.find? fun b => b.2.code != 0x0B && b.2.code != 0x0E &&
    (g.fibres.find? b.1).elim false fun f => !f.trapMask.getLsbD 0
  match reads, gr.trapSlot 0 with
  | some (l, _), some a =>
    if walkMalformed (s.trapPa g gr a) then
      s.sendPacket gr.part (walkRecord (gridCtxid t.grid) a (pc.setWidth 64) ((s.part gr.part).logical g.core) l)
    else s
  | _, _ => s

/-- Take the faults of some lanes of an instruction: the lanes leave their batch, whose latches become invalid
(R219, R23) (log 53, DEDUCED). -/
def State.takeFaults (s : State) (gid : Nat) (pc : Addr) (bad : List (Nat × LaneFault)) : State :=
  match bad, s.groups.find? gid with
  | [], _ => s
  | _, none => s
  | bad, some g =>
    let s := s.modCore g.core fun c => c.dropLatches gid (bad.map (·.1))
    let s := match s.teams.find? g.team with
      | some t => match s.grids.find? t.grid with
        | some gr => (s.malformedRecords t gr g.core pc bad).noteTable t g gr pc bad
        | none => s
      | none => s
    bad.foldl (fun s (l, x) => s.takeFault gid pc l x) s

/-- Return from a handler (R224, R278): V and M are cleared, the batch is ordinary again, and the PC is
TRAPPC where it was written, else the resume point; a header must stand there. The handler was entered for what its
entry has recorded: a restartable fault within it writes the trap registers again (R225). -/
def Fibre.leave (f : Fibre) : Fibre :=
  { f with
    trapCause := f.trapCause &&& 0x7FFFFFFF#32
    trapMask := 0
    handler := false
    pc := if f.pcWritten then f.trapPc.setWidth 52 else f.resume
    skip := if !f.pcWritten && f.entryCode == 0x16 then some f.entryPc else f.skip
    needHdr := true }

/-! ## Waiting for walks (R195) -/

/-- A page walk is under way for the die: one walk serves every core that misses on the page. -/
def State.startWalk (s : State) (core part page : Nat) : State :=
  let d := dieOf core
  if (s.die d).walks.any fun w => w.part == part && w.page == page then
    s.modDie d fun x =>
      { x with walks := x.walks.map fun w =>
          if w.part == part && w.page == page then { w with cores := ninsert core w.cores } else w }
  else
    let (id, s) := s.fresh
    s.modDie d fun x => { x with walks := x.walks ++ [{ id, part, page, cores := [core] }] }

/-- Remove repeats. -/
def dedup (l : List Nat) : List Nat := l.foldl (fun a x => if a.contains x then a else a ++ [x]) []

/-- A batch waits for walks, and issues its instruction again then. -/
def Ctx.awaitWalks (c : Ctx) (pages : List Nat) : State :=
  let pages := dedup pages
  let s := pages.foldl (fun s p => s.startWalk c.g.core c.gr.part p) c.s
  s.setGroup c.gid (c.g.modFibres c.is.lanes fun _ f => { f with wait := some (.walk pages) })

/-- A stream waits for walks. -/
def SCtx.awaitWalks (c : SCtx) (pages : List Nat) : State :=
  let pages := dedup pages
  let s := pages.foldl (fun s p => s.startWalk c.core c.gr.part p) c.s
  s.modCore c.core fun k => { k with stream := some { c.st with wait := some (.walk pages) } }

/-! ## The course of a group instruction -/

/-- How an instruction stands to strands and predicate blocks: a class 0 instruction other than `nop` and
a closing instruction may not stand in a block (R248). -/
inductive Kind where
  | plain | control | closing
deriving DecidableEq, Repr

/-- The predicate block after one covered instruction (R248). -/
def Block.next (b : Block) : Option Block :=
  if b.left ≤ 1 then none else some { b with left := b.left - 1, pattern := b.pattern >>> 1 }

/-- The fibre goes on to the next instruction; after a closing instruction a header must follow (R28). -/
def Fibre.advance (f : Fibre) (pc : Addr) (closing : Bool) : Fibre :=
  { f with pc := pc + 8, block := f.block.bind Block.next, needHdr := closing, wait := none }

/-- The fibre of a lane stands in a predicate block. -/
def Ctx.coveredLane (c : Ctx) (l : Nat) : Bool :=
  match c.fibre? l with
  | some f => f.block.isSome
  | none => false

/-- Some fibre of the batch stands in a predicate block. -/
def Ctx.covered (c : Ctx) : Bool := c.is.lanes.any c.coveredLane

/-- The lanes go on; kept walk results have served. -/
def Ctx.advance (c : Ctx) (closing : Bool) (ls : List Nat) : State :=
  c.s.setGroup c.gid
    { c.g.modFibres ls fun _ f => f.advance c.is.pc closing with walks := c.g.keptWalks c.is.lanes }

/-- The batch's strand is replayed after a read of an invalid latch, with its slot held up to the
instruction (R23). -/
def Ctx.latchReplay (c : Ctx) (s : State) (ls : List Nat) : State :=
  if ls.isEmpty then s
  else
    (s.replay c.gid ls).modCore c.g.core fun k =>
      { k.setSlot c.is.slot { owner := some (c.gid, ls), latch := [], chain := 0, hold := some c.is.pc } with
        latchReplay := k.latchReplay + 1 }

/-- The results of the lanes of an instruction, sorted by what they came to. -/
structure Sorted (β : Type) where
  good  : List (Nat × β)
  bad   : List (Nat × LaneFault)
  again : List Nat
  pages : List Nat
  dead  : List Nat

/-- Sort lane results. -/
def sortLanes {β : Type} : List (Nat × Except Stop β) → Sorted β
  | [] => { good := [], bad := [], again := [], pages := [], dead := [] }
  | (l, r) :: rest =>
    let s := sortLanes rest
    match r with
    | .ok b => { s with good := (l, b) :: s.good }
    | .error (.fault f) => { s with bad := (l, f) :: s.bad }
    | .error .replay => { s with again := l :: s.again }
    | .error (.walk p) => { s with pages := p :: s.pages }
    | .error (.dead pa) => { s with dead := pa :: s.dead }

/-- The fault in every active lane. -/
def Ctx.faultAll (c : Ctx) (f : LaneFault) : State :=
  c.s.takeFaults c.gid c.is.pc (c.is.lanes.map fun l => (l, f))

/-- The illegal instruction fault records the instruction word (R221). -/
def illegal (w : Dword) : LaneFault := { code := 0x01, addr := w }

/-- The wrong stream fault (R38). -/
def wrongStream (w : Dword) : LaneFault := { code := 0x18, addr := w }

/-- The word at an offset is poisoned in its bank: its reconstruction has failed (R134). A lost bank keeps nothing. -/
def State.padSpoil (s : State) (t : Team) (off : Nat) : State :=
  let l := s.padLoc t off
  if s.padLost t off then s
  else s.modCore l.core fun k => { k with pad := { k.pad with poison := ninsert (padKey l.bank l.row) k.pad.poison } }

/-- What the scratchpad read of a lane that faults leaves there: a word beyond reconstruction is poisoned, and the errors
that the read of poisoned data has met are met (R129, R132, R134). -/
def Ctx.markLost (c : Ctx) (bad : List (Nat × LaneFault)) (s : State) : State :=
  bad.foldl (fun s (_, f) =>
    if f.code = 0x19 then (s.padRead c.t f.addr.toNat).2.padSpoil c.t f.addr.toNat
    else if f.code = 0x0E && f.space = 2 && f.operand = 5 && f.detail != 1 then (s.padSee c.t f.addr.toNat).2
    else s) s

/-- The course of a group instruction, given the results of its checks lane by lane. Lanes that pass go
on and have the effect; lanes that fault are taken out afterwards, so that the others complete (R218,
R219, R228). Where no lane passes, `idle` is what the issue alone does (R22, R208). A read of an invalid latch
replays the strand of the batch, whose lanes then do nothing (R23). A lane whose page must be walked first keeps the
whole batch waiting. -/
def Ctx.finish {β : Type} (c : Ctx) (closing : Bool) (r : Sorted β)
    (effect : List (Nat × β) → State → State) (idle : State → State := id) : Result :=
  match r.dead with
  | pa :: _ => .fault (.noSuchMemory pa)
  | [] =>
    if !r.pages.isEmpty then .next (c.awaitWalks r.pages)
    else
      let out := r.bad.map (·.1)
      let stay := c.is.lanes.filter fun l => !out.contains l
      let s :=
        if r.again.isEmpty then
          let s := c.advance closing stay
          if r.good.isEmpty then idle s else effect r.good s
        else c.latchReplay c.s stay
      .next ((c.markLost r.bad s).takeFaults c.gid c.is.pc r.bad)

/-- The lanes of an instruction with their checks: within a predicate block, a control or closing instruction is
illegal in every active lane, whether or not it would take effect there (R248). -/
def Ctx.checks {β : Type} (c : Ctx) (kind : Kind) (check : Ctx → Nat → Except Stop β) :
    List (Nat × Except Stop β) :=
  if kind = .plain then c.is.eff.map fun l => (l, check c l)
  else c.is.lanes.map fun l => (l, if c.coveredLane l then .error (.fault (illegal c.is.word)) else check c l)

/-- A group instruction: `check` is made in each lane in which the instruction takes effect, `effect` is
performed for the lanes that pass. -/
def groupStep {β : Type} (s : State) (kind : Kind) (check : Ctx → Nat → Except Stop β)
    (effect : Ctx → List (Nat × β) → State → State) (idle : Ctx → State → State := fun _ s => s) : Result :=
  match s.ctx? with
  | none => .refused .noIssue
  | some c => c.finish (kind == .closing) (sortLanes (c.checks kind check)) (effect c) (idle c)

/-! ## The course of a Stoker instruction -/

/-- A fault in a stream stops it and kills the team (R38, R220, R227). -/
def SCtx.fault (c : SCtx) (f : LaneFault) : State :=
  let s := c.s.modCore c.core fun k => { k with stream := some { c.st with stopped := true } }
  let s := s.malformedRecords c.t c.gr c.core c.is.pc [(0, f)]
  s.requestKill c.g.team
    [faultRecord s c.t c.gr c.core 0 c.is.pc f (if f.code = 0x0E then 1 else 7)]

/-- Where the stream goes after an instruction that completes without a taken branch: the loops,
innermost first (R353). The flag marks an iteration boundary. -/
def loopNext (pc : Addr) : List Loop → Addr × List Loop × Bool
  | [] => (pc + 8, [], false)
  | l :: r =>
    if pc = l.last then
      if 1 < l.left then (l.first, { l with left := l.left - 1 } :: r, true)
      else
        let (p, r', _) := loopNext pc r
        (p, r', true)
    else (pc + 8, l :: r, false)

/-- The stream of a core changed. -/
def State.modStream (s : State) (core : Nat) (f : Stream → Stream) : State :=
  s.modCore core fun k => { k with stream := k.stream.map f }

/-- The stream stands at its instruction and waits. -/
def SCtx.stay (c : SCtx) (w : Wait) : State :=
  c.s.modStream c.core fun _ => { c.st with wait := some w }

/-- A pre-emption request stands that stops the batches of a team at their headers (R230, R231). -/
def Grid.polite (gr : Grid) (t : Team) : Bool := gr.preempt.isSome && !t.drain

/-- The stream goes on to the next instruction; at an iteration boundary a polite request stops it
(R231). -/
def SCtx.advance (c : SCtx) : State :=
  let (pc, loops, boundary) := loopNext c.is.pc c.st.loops
  c.s.modStream c.core fun _ =>
    { c.st with
      pc := pc, loops := loops, wait := none, walks := []
      stopped := c.st.stopped || (boundary && c.gr.polite c.t) }

/-- A Stoker instruction (log 51, DESIGN CHOICE). -/
def streamStep {β : Type} (s : State) (check : SCtx → Except Stop β)
    (effect : SCtx → β → State → State) : Result :=
  match s.sctx? with
  | none => .refused .noIssue
  | some c =>
    match check c with
    | .ok b => .next (effect c b c.advance)
    | .error (.fault f) => .next (c.fault f)
    | .error .replay => .next c.advance
    | .error (.walk p) => .next (c.awaitWalks [p])
    | .error (.dead pa) => .fault (.noSuchMemory pa)

/-- An instruction of the other stream raises the wrong stream fault (R38). -/
def wrongForStoker (s : State) : Result :=
  match s.sctx? with
  | none => .refused .noIssue
  | some c => .next (c.fault (wrongStream c.is.word))

def wrongForGroup (s : State) : Result :=
  groupStep s .plain (fun c _ => (raise (wrongStream c.is.word) : Except Stop Unit)) fun _ _ s => s

/-- The party that issues is a Stoker. -/
def State.stokerIssues (s : State) : Bool :=
  match s.issue with
  | some i => match i.party with
    | .stoker _ => true
    | .group _ => false
  | none => false

/-- An instruction of group code only. -/
def groupOnly {β : Type} (s : State) (kind : Kind) (check : Ctx → Nat → Except Stop β)
    (effect : Ctx → List (Nat × β) → State → State) (idle : Ctx → State → State := fun _ s => s) : Result :=
  if s.stokerIssues then wrongForStoker s else groupStep s kind check effect idle

/-- An instruction of Stoker code only. -/
def stokerOnly {β : Type} (s : State) (check : SCtx → Except Stop β)
    (effect : SCtx → β → State → State) : Result :=
  if s.stokerIssues then streamStep s check effect else wrongForGroup s

end Sys2Proof.Machine
end

