-- ==== Sys2Proof/Machine/Operands.lean ====
section
/-! DEFINITION. Operand forms (R15, R20, R48, R57, R60, R61): the bounds of an operand, the reading of a
source with its tag, and the writing of a destination, in group code and in Stoker code. -/

namespace Sys2Proof

/-- A 64-bit type takes two registers (R48). -/
def Ty.regs (t : Ty) : Nat := if t = .s64 ∨ t = .n64 ∨ t = .b64 then 2 else 1

/-- The untyped format of a type's width. -/
def Ty.untyped (t : Ty) : Ty := if t.regs = 2 then .b64 else .b32

/-- A destination of class 3, 4 or 5: v, n, k or b0 (R238). -/
def Opnd.isDst : Opnd → Bool
  | .v _ | .n _ | .u _ => true
  | .b i => i == 0
  | _ => false

/-- A register destination. -/
def Opnd.isReg : Opnd → Bool
  | .v _ | .n _ | .u _ => true
  | _ => false

/-- A uniform source of group or Stoker code (R281). -/
def Opnd.isUniform : Opnd → Bool
  | .u _ | .zero => true
  | _ => false

end Sys2Proof

namespace Sys2Proof.Machine

/-! ## Sources -/

/-- What a source is taken from: it decides how its tag is judged (R60). -/
inductive SrcKind where
  | stored | uniform | special | immediate | zero
deriving DecidableEq, Repr

/-- A source read in one lane: its elements, low register first, and the stored tags. -/
structure Src where
  elems : List Elem
  tags  : List Tag
  kind  : SrcKind
deriving DecidableEq, Repr

/-- The value: one element, or a pair with the low half first. -/
def Src.value (x : Src) : Dword :=
  match x.elems with
  | [e] => e.bits.setWidth 64
  | lo :: hi :: _ => hi.bits ++ lo.bits
  | [] => 0

def Src.low (x : Src) : Elem := x.elems.headD Elem.zero

/-- Some element is poisoned. -/
def Src.poison (x : Src) : Bool := x.elems.any (·.poison)

/-- The first poisoned element's bits. -/
def Src.poisoned (x : Src) : Word :=
  match x.elems.find? (·.poison) with
  | some e => e.bits
  | none => 0

/-- Some tag carries the NaN scale (R58). -/
def Src.nanScale (x : Src) : Bool := x.tags.any fun t => t.scale == 255

/-- The tag that a move copies (R59): the stored tag, or the type that an unstored source is taken as. -/
def Src.tagAs (x : Src) (ty : Ty) : Tag :=
  match x.tags, x.kind with
  | t :: _, _ => t
  | [], .special => Tag.of .b32
  | [], _ => Tag.of ty

/-- The stored tag of the upper register of a pair. -/
def Src.hiTag (x : Src) : Option Tag := x.tags[1]?

/-- A tag as TRAPADDR shows it (R221). -/
def tagWord (t : Tag) : Dword :=
  BitVec.ofNat 64 (t.fmt.code + (if t.valid then 16 else 0) + t.scale.toNat * 256)

/-- Field numbers of TRAPINFO.OPERAND (R222). -/
def fDst : Nat := 1
def fS1 : Nat := 2
def fS2 : Nat := 3
def fS3 : Nat := 4
def fIndex : Nat := 5
def fCap : Nat := 6
def fAux : Nat := 7
def fImm : Nat := 8

/-- The illegal operand fault. -/
def badOperand (field : Nat) : LaneFault := { code := 0x02, operand := field }

/-- The first register, near or uniform index, of `n` that the operand names is aligned to `n`. -/
def aligned (i n : Nat) : Bool := i % n == 0

/-- The operand names no reserved code, and its `n` registers stay within its level, v0 to v607 among them, the window
and the role's counts (R15, R20). -/
def Ctx.within (c : Ctx) (l : Nat) (o : Opnd) (n : Nat) : Bool :=
  match o with
  | .v i => match c.fibre? l with
    | some f => i + n ≤ 608 && f.wbase.toNat + i + n ≤ c.g.vregs
    | none => false
  | .n i => i + n ≤ 32
  | .u i => i + n ≤ c.g.kregs
  | .b i => i + n ≤ 4
  | .res _ => false
  | _ => true

/-- The index of a register operand. -/
def regIndex : Opnd → Nat
  | .v i | .n i | .u i | .b i => i
  | _ => 0

/-- The operand is within its bounds, and a pair is even (R48). An immediate is checked where its format
admits it. -/
def Ctx.inBounds (c : Ctx) (l : Nat) (o : Opnd) (n : Nat) : Bool :=
  aligned (regIndex o) n && c.within l o n

/-- The register that an operand names in a lane. -/
def Ctx.reg (c : Ctx) (l : Nat) (o : Opnd) : Reg :=
  match o with
  | .v i => .v ((match c.fibre? l with | some f => f.wbase.toNat | none => 0) + i)
  | .n i => .n i
  | .u i => .k i
  | _ => .s 0

/-- The value of a special source (R13). -/
def Ctx.special (c : Ctx) (l : Nat) : Opnd → Nat
  | .lane => l
  | .tlane => c.g.tlane0 + l
  | .width => c.g.width
  | .core => c.s.coreNumber c.g
  | .groupix => c.g.index
  | _ => 0

/-- Column position of a lane on its core. -/
def Group.position (g : Group) (l : Nat) : Nat := g.col0 * 8 + l

/-- Read a source of `n` registers in a lane: a near register that is not valid is stale (R25), an
invalid latch replays the strand (R23), and so does one that too few results have filled (log 59, DESIGN CHOICE). `imm` is
what IMM reads as, two elements. -/
def Ctx.read (c : Ctx) (l : Nat) (o : Opnd) (n field : Nat) (imm : Dword) : Except Stop Src := do
  match o with
  | .v _ | .n _ =>
    let r := c.reg l o
    let rs := (List.range n).map r.succ
    require (rs.all fun r => c.g.nearOk r l)
      { code := 0x05, addr := BitVec.ofNat 64 o.code, operand := field }
    return { elems := rs.map fun r => c.g.elem r l, tags := rs.map fun r => c.g.tag r l,
             kind := .stored }
  | .u i =>
    return { elems := (List.range n).map fun j => c.g.elem (.k (i + j)) l, tags := [],
             kind := .uniform }
  | .b i =>
    let slot := (c.s.core c.g.core).slot c.is.slot
    if !slot.validFor c.gid c.is.lanes || slot.latch.length < i + n then .error .replay
    else
      let ls := (List.range n).map fun j => slot.latch.getD (i + j) Latch.empty
      let p := c.g.position l
      return { elems := ls.map fun x => x.elems.get Elem.zero p,
               tags := ls.map fun x => x.tags.get Tag.start (p / 8), kind := .stored }
  | .imm =>
    return { elems := (List.range n).map fun j =>
               { bits := (imm >>> (32 * j)).setWidth 32, poison := false }
             tags := [], kind := .immediate }
  | .zero => return { elems := List.replicate n Elem.zero, tags := [], kind := .zero }
  | _ =>
    return { elems := { bits := BitVec.ofNat 32 (c.special l o), poison := false } ::
               List.replicate (n - 1) Elem.zero
             tags := [], kind := .special }

/-- A source is accepted for a type (R60): its format is the type, or the untyped format where the
instruction is loose (class 3 and the moves); an unstored source always, a special source as b32. An operand with a type
of its own is judged by that type (log 60, DEDUCED). -/
def Src.accepted (x : Src) (ty : Ty) (loose : Bool) : Bool :=
  let fits := fun (t : Tag) => t.valid && (t.fmt == ty || (loose && t.fmt == ty.untyped))
  match x.kind with
  | .stored => x.tags.all fits
  | .special => fits (Tag.of .b32)
  | _ => true

/-- The tag that TRAPADDR shows. -/
def Src.failing (x : Src) (ty : Ty) (loose : Bool) : Tag :=
  match x.kind with
  | .special => Tag.of .b32
  | _ => (x.tags.find? fun t => !(t.valid && (t.fmt == ty || (loose && t.fmt == ty.untyped)))).getD
      Tag.start

/-- Raise the tag mismatch fault unless the source is accepted. -/
def Src.accept (x : Src) (ty : Ty) (loose : Bool) (field : Nat) : Except Stop Unit :=
  require (x.accepted ty loose)
    { code := 0x03, addr := tagWord (x.failing ty loose), operand := field }

/-- Every scale is 127 or the NaN scale (R61). -/
def Src.scaleOk (x : Src) (field : Nat) : Except Stop Unit :=
  match x.tags.find? fun t => t.scale != 127 && t.scale != 255 with
  | some t => raise { code := 0x03, addr := tagWord t, operand := field }
  | none => .ok ()

/-! ## Destinations -/

/-- The destination is in bounds and admitted. -/
def Ctx.dstOk (c : Ctx) (l : Nat) (o : Opnd) (n : Nat) : Except Stop Unit :=
  require (o.isDst && c.inBounds l o n) (badOperand fDst)

/-- The index ranges of two operand runs meet. -/
def meets (i n lo hi : Nat) : Bool := lo ≤ hi && i ≤ hi && lo < i + n

/-- The destination is a declared survivor of the fibre's strand (R29). -/
def Fibre.surviving (f : Fibre) (o : Opnd) (n : Nat) : Bool :=
  match f.surv, o with
  | some h, .v i => meets i n h.vlo.toNat h.vhi.toNat
  | some h, .u i => meets i n h.klo.toNat h.khi.toNat
  | _, _ => false

/-- Raise the survivor write fault (R29). -/
def Ctx.survivor (c : Ctx) (l : Nat) (o : Opnd) (n : Nat) : Except Stop Unit :=
  match c.fibre? l with
  | some f => require (!f.surviving o n)
      { code := 0x04, addr := BitVec.ofNat 64 o.code, operand := fDst }
  | none => .ok ()

/-- A predicate is a survivor of the fibre's strand. -/
def Fibre.predSurvives (f : Fibre) (i : BitVec 4) : Bool :=
  match f.surv with
  | some h => predBit h.pmask i
  | none => false

/-- Raise the survivor write fault for a predicate. -/
def Ctx.predSurvivor (c : Ctx) (l : Nat) (i : BitVec 4) : Except Stop Unit :=
  match c.fibre? l with
  | some f => require (!f.predSurvives i)
      { code := 0x04, addr := i.setWidth 64, operand := fDst }
  | none => .ok ()

/-- The result of one lane: one element, or a pair, and its tag; the upper register of a pair that is copied keeps a
tag of its own (R295, R298, R316). -/
structure VRes where
  elems : List Elem
  tag   : Tag
  hiTag : Option Tag := none
deriving DecidableEq, Repr

/-- The tag of the j-th register of a result. -/
def VRes.tagAt (r : VRes) (j : Nat) : Tag := if j = 0 then r.tag else r.hiTag.getD r.tag

/-- Loads that have results for the registers land first (R72). -/
def Group.landRegs (g : Group) (rs : List Reg) : Group :=
  if g.flights.isEmpty then g else rs.foldl (fun g r => g.landOn r) g

/-- Write results into a register destination: v and n per lane, k from the lowest lane that
passes (R77) (log 62, DESIGN CHOICE). -/
def Ctx.writeRegs (c : Ctx) (dst : Opnd) (rs : List (Nat × VRes)) (g : Group) : Group :=
  let put := fun (g : Group) (x : Nat × VRes) =>
    let r := c.reg x.1 dst
    let regs := (List.range x.2.elems.length).map r.succ
    ((regs.zip x.2.elems).zipIdx).foldl (fun g ((r, e), j) => g.write r x.1 e (x.2.tagAt j)) (g.landRegs regs)
  match dst with
  | .v _ | .n _ => rs.foldl put g
  | .u _ => (rs.take 1).foldl put g
  | _ => g

/-- What a latch holds in a lane that has never been given a result: a free value (log 2, DESIGN CHOICE). -/
def freeElem (n : Nat) : Elem :=
  let x := Config.latchLane n
  { bits := x.setWidth 32, poison := x.getLsbD 32 }

/-- A latch in the positions of the batch that get no result: what the latch of the same number held, and its
column tags (R294, R58) (log 28, DEDUCED). -/
def Latch.keep (new : Latch) (old : Option Latch) (free : Nat) (ps : List Nat) (cols : List Nat) : Latch :=
  ps.foldl (fun x p =>
    let e := match old with
      | some o => o.elems.get Elem.zero p
      | none => freeElem (free + p)
    let t := match old with
      | some o => o.tags.get Tag.start (p / 8)
      | none => Tag.start
    { elems := x.elems.put Elem.zero p e
      tags := if cols.contains (p / 8) then x.tags else x.tags.put Tag.start (p / 8) t }) new

/-- Shift the results of `n` registers into the latches of the issue slot (R22): a pair shifts twice, so that the low
half stands in b0 and the high half in b1. -/
def Ctx.pushLatches (c : Ctx) (n : Nat) (rs : List (Nat × VRes)) (s : State) : State :=
  let slot := (s.core c.g.core).slot c.is.slot
  let done := rs.map fun r => c.g.position r.1
  let idle := (c.is.lanes.map c.g.position).filter fun p => !done.contains p
  let at_ := fun (j : Nat) =>
    (Latch.ofResults (rs.map fun (l, r) => (c.g.position l, r.elems.getD j Elem.zero, r.tagAt j))).keep
      slot.latch[j]? (s.free + 64 * j) idle (done.map fun p => p / 8)
  let s := if idle.isEmpty then s else { s with free := s.free + 64 * n }
  s.modCore c.g.core fun k =>
    k.setSlot c.is.slot
      ((List.range n).reverse.foldl (fun (x : Slot) j => x.push (at_ j)) (k.slot c.is.slot))

/-- Write the results of a class 3, 4 or 5 instruction: its destination, and the latches. -/
def Ctx.writeVec (c : Ctx) (dst : Opnd) (rs : List (Nat × VRes)) (s : State) : State :=
  c.pushLatches ((rs.head?.map fun r => r.2.elems.length).getD 0) rs
    (s.modGroup c.gid fun g => c.writeRegs dst rs g)

/-- An instruction that writes `n` registers and takes effect in no lane of its batch shifts the latches all the same
(R22). -/
def shiftIdle (n : Nat) (c : Ctx) (s : State) : State := c.pushLatches n [] s

/-- Write results that do not reach the latches. -/
def Ctx.writeOnly (c : Ctx) (dst : Opnd) (rs : List (Nat × VRes)) (s : State) : State :=
  s.modGroup c.gid fun g => c.writeRegs dst rs g

/-- One 32-bit result. -/
def VRes.one (x : Nat) (poison : Bool) (t : Tag) : VRes :=
  { elems := [{ bits := BitVec.ofNat 32 x, poison }], tag := t }

/-- A lane value of a type as a result: one element, or a pair. -/
def VRes.of (ty : Ty) (x : Dword) (poison : Bool) (t : Tag) : VRes :=
  { elems := (List.range ty.regs).map fun j => { bits := (x >>> (32 * j)).setWidth 32, poison }
    tag := t }

/-- Write a predicate in the fibres of some lanes. -/
def State.setPreds (s : State) (gid : Nat) (i : BitVec 4) (ls : List (Nat × Bool)) : State :=
  s.modGroup gid fun g => ls.foldl (fun g (l, b) => g.setPred l i b) g

/-! ## The sources of a vector instruction -/

/-- What an instruction asks of a source: its type, its field, whether untyped data is admitted, and
whether its scale must be 127 or the NaN scale. -/
structure SrcReq where
  o      : Opnd
  ty     : Ty
  field  : Nat
  loose  : Bool := false
  scaled : Bool := false
deriving DecidableEq, Repr

/-- Read and judge one source. -/
def Ctx.source (c : Ctx) (l : Nat) (q : SrcReq) (imm : Dword) : Except Stop Src := do
  let x ← c.read l q.o q.ty.regs q.field imm
  x.accept q.ty q.loose q.field
  if q.scaled then x.scaleOk q.field
  return x

/-- All the sources of a vector instruction in a lane, in the order of R218: operands within bounds, the
destination no survivor, then the reads in field order. `imm` is the immediate of a VI form; each source
that names it takes it as its own type expands it (R57, R293). -/
def Ctx.sources (c : Ctx) (l : Nat) (dst : Opnd) (dn : Nat) (imm : Option (BitVec 16))
    (qs : List SrcReq) : Except Stop (List Src) := do
  c.dstOk l dst dn
  qs.forM fun q =>
    require (c.inBounds l q.o q.ty.regs && (q.o != .imm || imm.isSome)) (badOperand q.field)
  qs.forM fun q => require (q.o != .imm || immOk q.ty (imm.getD 0)) (badOperand fImm)
  c.survivor l dst dn
  qs.mapM fun q => c.source l q (expandImm q.ty (imm.getD 0))

/-! ## Indexes (R99) -/

/-- The value of an index: signed for s32 and b32, unsigned for n32 and uniform registers (log 14, DEDUCED). -/
def Src.index (x : Src) : Int :=
  let b := x.low.bits
  let signed : Bool := match x.kind, x.tags with
    | .stored, t :: _ => t.fmt == .s32 || t.fmt == .b32
    | .special, _ => true
    | _, _ => false
  if signed then b.toInt else b.toNat

/-- An index operand is admitted (R238) and in bounds. -/
def Ctx.indexOk (c : Ctx) (l : Nat) (o : Opnd) : Except Stop Unit :=
  require (match o with
    | .b _ | .imm | .res _ => false
    | _ => c.inBounds l o 1) (badOperand fIndex)

/-- Read an index in a lane: tags s32, n32 and b32 are accepted. -/
def Ctx.index (c : Ctx) (l : Nat) (o : Opnd) (field : Nat := fIndex) : Except Stop Src := do
  let x ← c.read l o 1 field 0
  match x.tags with
  | t :: _ =>
    require (t.valid && (t.fmt == .s32 || t.fmt == .n32 || t.fmt == .b32))
      { code := 0x03, addr := tagWord t, operand := field }
  | [] => .ok ()
  return x

/-- The address of a memory operand (R99). -/
def memAddr (cap : Cap) (idx : Int) (shift : BitVec 3) (imm : BitVec 16) : Int :=
  cap.cursor + idx * 2 ^ shift.toNat + imm.toInt

/-! ## Stoker operands -/

/-- A Stoker scalar. -/
def SCtx.sreg (c : SCtx) (i : Nat) : SReg := c.st.s.get SReg.zero i

/-- Read a Stoker operand under a type: s, ZERO, or IMM where the form has it (R238) (log 27, DEDUCED). -/
def SCtx.read (c : SCtx) (o : Opnd) (ty : Ty) (field : Nat) (imm : Option Dword := none) :
    Except Stop Src := do
  match o with
  | .u i =>
    require (i < 32) (badOperand field)
    let r := c.sreg i
    let lo : Elem := { bits := r.bits.setWidth 32, poison := r.plo }
    let hi : Elem := { bits := (r.bits >>> 32).setWidth 32, poison := r.phi }
    return { elems := if ty.regs = 2 then [lo, hi] else [lo], tags := [], kind := .uniform }
  | .zero => return { elems := List.replicate ty.regs Elem.zero, tags := [], kind := .zero }
  | .imm =>
    match imm with
    | some v => return { elems := (List.range ty.regs).map fun j =>
        { bits := (v >>> (32 * j)).setWidth 32, poison := false }, tags := [], kind := .immediate }
    | none => raise (badOperand field)
  | _ => raise (badOperand field)

/-- A Stoker destination. -/
def SCtx.dstOk (o : Opnd) : Except Stop Unit :=
  require (match o with | .u i => i < 32 | _ => false) (badOperand fDst)

/-- A 32-bit result fills the upper half with copies of bit 31 for s32, and with zeros otherwise
(R281). -/
def stokerWide (ty : Ty) (x : Dword) : Dword :=
  if ty.regs = 2 then x
  else if ty = .s32 then (x.setWidth 32).signExtend 64
  else (x.setWidth 32).setWidth 64

/-- Write a Stoker scalar. -/
def State.setSreg (s : State) (core i : Nat) (r : SReg) : State :=
  s.modStream core fun st => { st with s := st.s.put SReg.zero i r }

/-- Write a predicate of the stream. -/
def State.setStreamPred (s : State) (core : Nat) (i : BitVec 4) (b : Bool) : State :=
  s.modStream core fun st =>
    { st with pred := (st.pred &&& ~~~(1#16 <<< i.toNat)) |||
        ((if b then 1#16 else 0#16) <<< i.toNat) }

end Sys2Proof.Machine
end

