-- ==== Sys2Proof/Machine/Flags.lean ====
section
/-! DEFINITION. Predicates: compare codes (R255) over integers and floats, the predicates that an instruction reads
(R265, R284, R288), and the check that a shadow unit makes of a float result (R405). -/

namespace Sys2Proof.Machine

/-- An ordered compare of integers; `un` never holds and `ord` always does, and no integer compare admits
them. -/
def compareInt (cc : CmpCode) (a b : Int) : Bool :=
  match cc with
  | .eq => a == b
  | .ne => a != b
  | .lt => a < b
  | .le => a ≤ b
  | .gt => b < a
  | .ge => b ≤ a
  | .un => false
  | .ord => true

/-- A compare of exact values: the ordered codes fail with NaN except `ne`, which holds (R303). -/
def compareNum (cc : CmpCode) (a b : ExactNum) : Bool :=
  match cc with
  | .eq => ExactNum.eqv a b
  | .ne => !ExactNum.eqv a b
  | .lt => ExactNum.lt a b
  | .le => ExactNum.le a b
  | .gt => ExactNum.lt b a
  | .ge => ExactNum.le b a
  | .un => a.isNan || b.isNan
  | .ord => !a.isNan && !b.isNan

/-- A predicate of the fibre of a lane. -/
def Ctx.pred (c : Ctx) (l : Nat) (i : BitVec 4) : Bool :=
  match c.fibre? l with
  | some f => predBit f.pred i
  | none => false

/-- The sources g1 and g2 of class 2 (R288). -/
def Ctx.g1 (c : Ctx) (a : GArgs) (l : Nat) : Bool := c.pred l a.ps1 != a.ng1
def Ctx.g2 (c : Ctx) (a : GArgs) (l : Nat) : Bool := c.pred l a.ps2 != a.ng2

/-! ## Shadow units (R405) -/

/-- The class of an element. -/
def classOf (t : Ty) (x : Nat) : FloatClass :=
  match floatOf t x with
  | .nan => .nan
  | .inf _ => .infinity
  | .zero _ => .zero
  | .fin _ _ => if x / 2 ^ (floatFmt t).fbits % 2 ^ (floatFmt t).ebits = 0 then .subnormal else .normal

/-- What a sound shadow unit forms of an element (R405). -/
def shadowForm (t : Ty) (x : Nat) : ShadowForm :=
  let f := floatFmt t
  { neg := x.testBit (f.fbits + f.ebits), cls := classOf t x
    top := x % 2 ^ (f.fbits + f.ebits) / 2 ^ (f.fbits - 6) }

/-- A result and its shadow diverge (R405). -/
def ShadowForm.diverges (a b : ShadowForm) : Bool :=
  a.neg != b.neg || a.cls != b.cls || a.top + 1 < b.top || b.top + 1 < a.top

/-- What the shadow unit forms of an element: an error makes it otherwise than sound (log 8, DESIGN CHOICE). -/
def formedBy (us : List ShadowUpset) (unit lane elem : Nat) (t : Ty) (x : Nat) : ShadowForm :=
  match us.find? fun u => u.unit == unit && u.lane == lane && u.elem == elem with
  | some u => u.form
  | none => shadowForm t x

/-- An element diverges from its shadow. -/
def shadowDiverges (us : List ShadowUpset) (unit lane elem : Nat) (t : Ty) (x : Nat) : Bool :=
  (shadowForm t x).diverges (formedBy us unit lane elem t x)

end Sys2Proof.Machine
end

