-- ==== Sys2Proof/Machine/Control.lean ====
section
/-! DEFINITION. Class 0: control, fibres and strands (R263 to R280), and the timer events of waiting
batches. -/

namespace Sys2Proof.Machine

/-! ## Targets (R263) -/

/-- A target given by an offset: PC + 8 × offset. -/
def offsetTarget (pc : Addr) (off : Int) : Int := pc.toNat + 8 * off

/-- A target lies within the code capability. -/
def inCode (gr : Grid) (t : Int) : Bool :=
  (gr.kernel.code.base : Int) ≤ t && t < gr.kernel.code.limit

/-- The bits of a target as TRAPADDR shows them. -/
def targetWord (t : Int) : Dword := BitVec.ofNat 64 (t % 2 ^ 52).toNat

/-- Check a target: alignment, then bounds; the target as a program counter. -/
def checkTarget (gr : Grid) (t : Int) (field : Nat) : Except Stop Addr := do
  require (t % 8 == 0) { code := 0x0A, addr := targetWord t, detail := 1, operand := field }
  require (inCode gr t) { code := 0x08, addr := targetWord t, detail := 1, operand := field }
  return BitVec.ofNat 52 t.toNat

/-- Send fibres to new program counters. -/
def State.jump (s : State) (gid : Nat) (ts : List (Nat × Addr)) : State :=
  s.modGroup gid fun g => ts.foldl (fun g (l, t) => g.modFibre l fun f => { f with pc := t }) g

/-! ## nop, bra, brx -/

/-- `nop` (R264). -/
def execNop (s : State) : Result :=
  if s.stokerIssues then streamStep s (fun _ => .ok ()) fun _ _ s => s
  else groupStep s .plain (fun _ _ => .ok ()) fun _ _ s => s

/-- The branch is taken. -/
def braTaken (a : BraArgs) (p : BitVec 4 → Bool) : Bool :=
  match a.cond with
  | none => true
  | some (i, neg) => p i != neg

/-- `bra` (R265). In Stoker code a taken branch may not leave an open loop (R353). -/
def execBra (a : BraArgs) (s : State) : Result :=
  if s.stokerIssues then
    streamStep s
      (fun c => do
        if braTaken a (predBit c.st.pred) then
          let t ← checkTarget c.gr (offsetTarget c.is.pc a.off.toInt) fImm
          match c.st.loops with
          | l :: _ => require (l.first.toNat ≤ t.toNat && t.toNat ≤ l.last.toNat) (badOperand fImm)
          | [] => .ok ()
          return some t
        else return none)
      (fun c r s => match r with
        | some t => s.modStream c.core fun st =>
            { st with pc := t, loops := c.st.loops, stopped := c.st.stopped }
        | none => s)
  else
    groupStep s .control
      (fun c l => do
        if braTaken a (c.pred l) then
          return some (← checkTarget c.gr (offsetTarget c.is.pc a.off.toInt) fImm)
        else return none)
      (fun c rs s => s.jump c.gid (rs.filterMap fun (l, r) => r.map fun t => (l, t)))

/-- An operand that `brx` and `ret` admit: an even v, n or k register (R266, R269). -/
def Ctx.linkOk (c : Ctx) (l : Nat) (o : Opnd) : Except Stop Unit :=
  require (o.isReg && c.inBounds l o 2) (badOperand fDst)

/-- Read a 64-bit address operand: tag b64, n64 or s64, not poisoned (R266, R117 row 1). -/
def Ctx.address64 (c : Ctx) (l : Nat) (o : Opnd) : Except Stop Dword := do
  let x ← c.read l o 2 fDst 0
  let fits := fun (t : Tag) => t.valid && (t.fmt == .b64 || t.fmt == .n64 || t.fmt == .s64)
  require (x.tags.all fits)
    { code := 0x03, addr := tagWord ((x.tags.find? fun t => !fits t).getD Tag.start), operand := fDst }
  require (!x.poison) { code := 0x0E, detail := 1, operand := fDst, observed := x.poisoned }
  return x.value

/-- `brx` (R266). -/
def execBrx (target : Opnd) (s : State) : Result :=
  groupOnly s .control
    (fun c l => do
      c.linkOk l target
      let v ← c.address64 l target
      checkTarget c.gr (v.toNat % 2 ^ 52) fDst)
    (fun c rs s => s.jump c.gid rs)

/-! ## call and ret -/

/-- A link (R267). -/
def linkWord (frame : BitVec 10) (pc : Addr) : Dword :=
  frame ++ (0#2 ++ (pc + 8))

/-- `call` (R268): the link goes into the first two rows of the new window. -/
def execCall (a : CallArgs) (s : State) : Result :=
  groupOnly s .closing
    (fun c l => do
      let wb := (c.fibre? l).elim 0 fun f => f.wbase.toNat
      let nb := wb + a.frame.toNat
      require (nb ≤ 4095 && nb + 1 < c.g.vregs) (badOperand fImm)
      let t ← checkTarget c.gr (offsetTarget c.is.pc a.off.toInt) fImm
      return (nb, t))
    (fun c rs s =>
      let link := linkWord a.frame c.is.pc
      s.modGroup c.gid fun g =>
        rs.foldl (fun g (l, nb, t) =>
          let g := g.landRegs [.v nb, .v (nb + 1)]
          let g := g.write (.v nb) l { bits := link.setWidth 32, poison := false } (Tag.of .b64)
          let g := g.write (.v (nb + 1)) l
            { bits := (link >>> 32).setWidth 32, poison := false } (Tag.of .b64)
          g.modFibre l fun f => { f with wbase := BitVec.ofNat 12 nb, pc := t }) g)

/-- `ret` (R269). -/
def execRet (link : Opnd) (s : State) : Result :=
  groupOnly s .closing
    (fun c l => do
      c.linkOk l link
      let k ← c.address64 l link
      let frame := k.toNat / 2 ^ 54
      let t : Nat := k.toNat % 2 ^ 52
      let wb := (c.fibre? l).elim 0 fun f => f.wbase.toNat
      require (t % 8 == 0) { code := 0x0A, addr := targetWord t, detail := 1, operand := fDst }
      require (frame ≤ wb) (badOperand fDst)
      require (inCode c.gr t) { code := 0x08, addr := targetWord t, detail := 1, operand := fDst }
      return (BitVec.ofNat 12 (wb - frame), BitVec.ofNat 52 t))
    (fun c rs s =>
      s.modGroup c.gid fun g =>
        rs.foldl (fun g (l, wb, t) => g.modFibre l fun f => { f with wbase := wb, pc := t }) g)

/-! ## strand -/

/-- The ranges of a header lie within their limits (R247). -/
def headerInRange (a : StrandArgs) : Bool :=
  (a.vhi.toNat < a.vlo.toNat || a.vhi.toNat ≤ 607) && (a.khi.toNat < a.klo.toNat || a.khi.toNat ≤ 95)

/-- `strand` (R270): a new strand start with its survivors; the near level of the lanes is lost. -/
def execStrand (a : StrandArgs) (s : State) : Result :=
  groupOnly s .control
    (fun _ _ => require (headerInRange a) (badOperand fImm))
    (fun c rs s =>
      let ls := rs.map (·.1)
      let now := (s.cluster (clusterOf c.g.core)).cycles.toNat
      s.modGroup c.gid fun g =>
        { (g.dropNear ls).modFibres ls (fun _ f => { f with strand := c.is.pc, surv := some a }) with
          lastHdr := now })

/-! ## rcv, yield, pause -/

/-- The fibre stands at the same `rcv` as a batch, or does not hold it up: it is parked, or of the other
class (R271). -/
def Fibre.atRcv (f : Fibre) (pc : Addr) (handler : Bool) : Bool :=
  f.parked.isSome || f.handler != handler ||
  (f.pc == pc && match f.wait with
    | some (.rcv _) => true
    | _ => false)

/-- Every other unparked batch of the group and class stands at the `rcv`. -/
def Group.rcvMet (g : Group) (pc : Addr) (handler : Bool) (ls : List Nat) : Bool :=
  g.fibres.cells.all fun (l, f) => ls.contains l || f.atRcv pc handler

/-- The lanes that leave a `rcv` together. -/
def Group.rcvLanes (g : Group) (pc : Addr) (handler : Bool) (ls : List Nat) : List Nat :=
  (g.fibres.cells.filter fun (l, f) => ls.contains l ||
    (f.parked.isNone && f.handler == handler && f.atRcv pc handler)).map (·.1)

/-- The batch belongs to a handler. -/
def Ctx.handler (c : Ctx) : Bool :=
  c.is.lanes.any fun l => (c.fibre? l).elim false fun f => f.handler

/-- Front-end cycles of the group's cluster. -/
def State.cyclesOf (s : State) (core : Nat) : Nat := (s.cluster (clusterOf core)).cycles.toNat

/-- `rcv` (R271): all leave as one when all have come; else the batch waits, at most 256 cycles. -/
def execRcv (s : State) : Result :=
  groupOnly s .control (fun _ _ => .ok ())
    (fun c rs s =>
      let ls := rs.map (·.1)
      let pc := c.is.pc
      if c.g.rcvMet pc c.handler ls then
        s.modGroup c.gid fun g =>
          g.modFibres (c.g.rcvLanes pc c.handler ls) fun _ f => f.advance pc false
      else
        let limit := s.cyclesOf c.g.core + 256
        s.modGroup c.gid fun g =>
          g.modFibres ls fun l f =>
            { f with
              pc := pc
              wait := match c.g.fibres.find? l with
                | some o => match o.wait with
                  | some (.rcv n) => some (.rcv n)
                  | _ => some (.rcv limit)
                | none => some (.rcv limit) })

/-- An event that cannot take place now (log 51, DESIGN CHOICE). -/
def notNow (name : String) : Result := .refused (.notEnabled name)

/-- The lanes of a group that wait for something. -/
def Group.waiters (g : Group) (ls : List Nat) (p : Wait → Bool) : Bool :=
  !ls.isEmpty && ls.all fun l => match g.fibres.find? l with
    | some f => f.parked.isNone && (f.wait.elim false p)
    | none => false

/-- One of the lanes has waited its 256 cycles at a `rcv`. -/
def Group.rcvSpent (g : Group) (now : Nat) (ls : List Nat) : Bool :=
  ls.any fun l => match g.fibres.find? l with
    | some f => match f.wait with
      | some (.rcv n) => n ≤ now
      | _ => false
    | none => false

/-- RCV_TIMEOUT: after 256 cycles the batch goes on alone (R17, R271). -/
def execRcvTimeout (gid : Nat) (ls : List Nat) (s : State) : Result :=
  match s.groups.find? gid with
  | none => notNow "RCV_TIMEOUT"
  | some g =>
    let now := s.cyclesOf g.core
    if g.waiters ls (fun w => match w with | .rcv _ => true | _ => false) && g.rcvSpent now ls then
      .next (s.setGroup gid (g.modFibres ls fun _ f => f.advance f.pc false))
    else notNow "RCV_TIMEOUT"

/-- `yield` (R272): the strand closes, and the batch is not ready for 64 cycles. -/
def execYield (s : State) : Result :=
  groupOnly s .closing (fun _ _ => .ok ())
    (fun c rs s =>
      let limit := s.cyclesOf c.g.core + 64
      s.modGroup c.gid fun g =>
        g.modFibres (rs.map (·.1)) fun _ f => { f with wait := some (.yielded limit) })

/-- `pause n` (R272). -/
def execPause (n : BitVec 16) (s : State) : Result :=
  groupOnly s .control (fun _ _ => .ok ())
    (fun c rs s =>
      if n = 0 then s
      else
        let limit := s.cyclesOf c.g.core + n.toNat
        s.modGroup c.gid fun g =>
          g.modFibres (rs.map (·.1)) fun _ f => { f with wait := some (.paused limit) })

/-- PAUSE_EXPIRY (R272). -/
def execPauseExpiry (gid : Nat) (ls : List Nat) (s : State) : Result :=
  match s.groups.find? gid with
  | none => notNow "PAUSE_EXPIRY"
  | some g =>
    let now := s.cyclesOf g.core
    if g.waiters ls (fun w => match w with | .paused n => n ≤ now | _ => false) then
      .next (s.setGroup gid (g.modFibres ls fun _ f => { f with wait := none }))
    else notNow "PAUSE_EXPIRY"

/-! ## pb -/

/-- `pb` (R248, R273): each fibre reads its predicate once. -/
def execPb (a : PbArgs) (s : State) : Result :=
  groupOnly s .control (fun _ _ => .ok ())
    (fun c rs s =>
      s.modGroup c.gid fun g =>
        g.modFibres (rs.map (·.1)) fun l f =>
          { f with block := some { left := a.count.toNat + 1, pattern := a.pattern,
                                   g := c.pred l a.pred != a.comp } })

/-! ## fspawn, fend, exit -/

/-- A new fibre (R14, R274). -/
def Fibre.start (pc : Addr) (wbase : BitVec 12) (age : Nat) : Fibre :=
  { pc, pred := 0, wbase, strand := pc, surv := none, needHdr := true, handler := false,
    trapCause := 0, trapPc := 0, trapAddr := 0, trapInfo := 0, trapMask := 0, resume := pc,
    entryCode := 0, entryPc := pc, pcWritten := false, skip := none, arrived := 0, released := 0, block := none, wait := none,
    parked := none, age }

/-- Give idle lanes to spawns in lane order: spawning lane, base, target; the new fibres and the status
of each lane. -/
def spawnAll : List (Nat × BitVec 12 × Addr) → List Nat → List (Nat × BitVec 12 × Addr) × List (Nat × Bool)
  | [], _ => ([], [])
  | (l, b, t) :: r, j :: idle =>
    let (fs, ps) := spawnAll r idle
    ((j, b, t) :: fs, (l, true) :: ps)
  | (l, _, _) :: r, [] =>
    let (fs, ps) := spawnAll r []
    (fs, (l, false) :: ps)

/-- A lane of a group has issued in this front-end cycle: one whose fibre has ended in it is not eligible for
a spawn (R280). -/
def State.issuedNow (s : State) (core gid l : Nat) : Bool :=
  (s.core core).issued.any fun x => x.2.1.contains (gid * 64 + l)

/-- The window base that `fspawn` reads is admitted: where its tag or its poison does not let it be read, a later check
fails (R218, R274). -/
def Ctx.baseOk (c : Ctx) (l : Nat) (o : Opnd) : Bool :=
  match c.index l o fDst with
  | .ok x => x.poison || (x.low.bits.toNat ≤ 4095 && x.low.bits.toNat < c.g.vregs)
  | .error _ => true

/-- `fspawn` (R274). -/
def execFspawn (a : FspawnArgs) (s : State) : Result :=
  groupOnly s .closing
    (fun c l => do
      require (match a.base with
        | .b _ | .imm | .res _ => false
        | o => c.inBounds l o 1) (badOperand fDst)
      require (c.baseOk l a.base) (badOperand fDst)
      c.predSurvivor l a.status
      let x ← c.index l a.base fDst
      require (!x.poison) { code := 0x0E, detail := 1, operand := fDst, observed := x.poisoned }
      let b := x.low.bits.toNat
      let t ← checkTarget c.gr (offsetTarget c.is.pc a.off.toInt) fImm
      return (BitVec.ofNat 12 b, t))
    (fun c rs s =>
      let idle := (List.range c.g.width).filter fun l =>
        (c.g.fibres.find? l).isNone && !s.issuedNow c.g.core c.gid l
      let (fs, ps) := spawnAll rs idle
      let age := s.cyclesOf c.g.core + 1
      let s := s.modGroup c.gid fun g =>
        { g with fibres := fs.foldl (fun t (j, b, pc) => t.insert j (Fibre.start pc b age)) g.fibres }
      s.setPreds c.gid a.status ps)

/-- `fend` (R275). -/
def execFend (s : State) : Result :=
  groupOnly s .closing (fun _ _ => .ok ())
    (fun c rs s =>
      let s := s.modGroup c.gid fun g =>
        { g with fibres := rs.foldl (fun t (l, _) => t.erase l) g.fibres }
      s.modCore c.g.core fun k => k.dropLatches c.gid (rs.map (·.1)))

/-- `exit` (R276): every fibre of the group ends, and its places in the queues are released. -/
def execExit (s : State) : Result :=
  groupOnly s .closing (fun _ _ => .ok ())
    (fun c _ s =>
      let s := s.modGroup c.gid fun g => { g with fibres := ⟨[]⟩ }
      let s := s.modCore c.g.core fun k => k.dropLatches c.gid (List.range c.g.width)
      s.leaveQueues (fun h => h.group == c.gid) none)

/-! ## trap, brk, rte -/

/-- `trap n` (R277). -/
def execTrap (n : BitVec 16) (s : State) : Result :=
  groupOnly s .closing
    (fun _ _ => (raise { code := 0x15, addr := n.setWidth 64, operand := fImm } : Except Stop Unit))
    (fun _ _ s => s)

/-- `brk` (R278): a fibre with the skip bit for this address passes once. -/
def execBrk (s : State) : Result :=
  groupOnly s .control
    (fun c l => require ((c.fibre? l).elim false fun f => f.skip == some c.is.pc) { code := 0x16 })
    (fun c rs s =>
      s.modGroup c.gid fun g => g.modFibres (rs.map (·.1)) fun _ f => { f with skip := none })

/-- `rte` (R224, R278, R279). -/
def execRte (s : State) : Result :=
  groupOnly s .control
    (fun c l => do
      let f ← match c.fibre? l with
        | some f => .ok f
        | none => raise (illegal c.is.word)
      require f.handler (illegal c.is.word)
      let _ ← checkTarget c.gr f.leave.pc.toNat 0)
    (fun c rs s =>
      s.modGroup c.gid fun g =>
        g.modFibres (rs.map (·.1)) fun l f =>
          { ((c.g.fibres.find? l).getD f).leave with wait := none, block := none })

end Sys2Proof.Machine
end

