-- ==== Sys2Proof/Machine/Access.lean ====
section
/-! DEFINITION. Loads and stores of a lane at the level that holds the place, the `vm` units of a group
(R208), and the release and acquire of a party's access. -/

namespace Sys2Proof.Machine

/-- Read `n` bytes within one granule at a place as a core's vector access: number and poison. `unit` is what is complete
only once a scratchpad has served the access. -/
def State.load (s : State) (core : Nat) (p : Place) (n : Nat) (cache : Cache) (pc : Addr) (unit : Nat := 0) :
    (Nat × Bool) × State :=
  match p with
  | .mem pa => s.coreRead core pa n cache pc
  | .pad team off =>
    match s.teams.find? team with
    | some t =>
      let (r, s) := s.padSee t off (some { cls := 4, unit })
      ((r.data.toNat / 2 ^ (8 * (off % 16)) % 2 ^ (8 * n), r.poison), s)
    | none => ((0, false), s)
  | p => ((leNat (s.placeBytes p n), s.placePoison p n), s)

/-- Write `n` bytes within one granule at a place, at the banks as a vector access (log 16, DEDUCED). -/
def State.store (s : State) (core : Nat) (p : Place) (n value : Nat) (poison : Bool) (cache : Cache)
    (pc : Addr) : State :=
  match p with
  | .mem pa => s.coreWrite core pa n value poison cache pc
  | .pad team off =>
    match s.teams.find? team with
    | some t => s.padWrite t off n value poison (some { cls := 4, unit := 0 })
    | none => s
  | _ => s

/-- The granule that a place of one access lies in, as a key. -/
def Place.granule : Place → Nat × Nat × Nat
  | .mem pa => (0, 0, pa / 16)
  | .pad t off => (1, t, off / 16)
  | .folio p off => (2, p, off / 16)
  | .const _ => (3, 0, 0)

/-- The scratchpad word of a place, and which 32 bits of it. -/
def State.wordAt (s : State) (p : Place) : Option (Nat × Nat × Nat) :=
  match p with
  | .pad team off => (s.teams.find? team).map fun t =>
      let l := s.padLoc t off
      (l.core, padKey l.bank l.row, off % 16 / 4)
  | _ => none

/-- The results of loads in flight stay as they are: what the group stores from here on they do not take (R139). -/
def Group.fixReads (g : Group) : Group :=
  { g with flights := g.flights.map fun f => { f with writes := f.writes.map fun w => { w with word := none } } }

/-- Data to be written into one granule. -/
structure GranuleWrite where
  place  : Place
  data   : Granule
  mask   : BitVec 16
  tag    : Bool
  poison : Bool

/-- Lay an element into the granule that an instruction writes (R116): later elements overwrite earlier
ones, and one poisoned element poisons the word, until an element covers it whole. -/
def GranuleWrite.lay (w : GranuleWrite) (off n value : Nat) (poison : Bool) : GranuleWrite :=
  let mask := BitVec.ofNat 16 ((2 ^ n - 1) * 2 ^ (off % 16))
  let bits := BitVec.ofNat 128 (value % 2 ^ (8 * n) * 2 ^ (8 * (off % 16)))
  let hole := BitVec.ofNat 128 ((2 ^ (8 * n) - 1) * 2 ^ (8 * (off % 16)))
  { w with data := (w.data &&& ~~~hole) ||| bits, mask := w.mask ||| mask
           poison := poison || (w.poison && mask != BitVec.allOnes 16) }

/-- Byte offset of a place in its memory. -/
def Place.offset : Place → Nat
  | .mem pa => pa
  | .pad _ off => off
  | .folio _ off => off
  | .const _ => 0

/-- The elements of one store, gathered by granule in the order of their first element. -/
def gather (ws : List (Place × Nat × Nat × Bool)) : List GranuleWrite :=
  ws.foldl (fun gs (p, n, v, q) =>
    if gs.any fun g => g.place.granule == p.granule then
      gs.map fun g => if g.place.granule == p.granule then g.lay p.offset n v q else g
    else
      gs ++ [({ place := p, data := 0, mask := 0, tag := false, poison := false } : GranuleWrite).lay
        p.offset n v q]) []

/-- Write a granule as a core's vector access (log 19, DESIGN CHOICE). -/
def State.storeGranule (s : State) (core : Nat) (w : GranuleWrite) (cache : Cache) (pc : Addr) (unit : Nat) : State :=
  match w.place with
  | .mem pa => s.writeGranule core (pa / 16) w.data w.mask w.tag w.poison cache pc
  | .pad team off =>
    match s.teams.find? team with
    | some t => s.padWriteGranule t off w.data w.mask w.tag w.poison (some { cls := 4, unit })
    | none => s
  | _ => s

/-- A releasing store: its record goes to the home with the block that it stands in, or at once where the store
has gone to the home (R156, R105) (log 30, DEDUCED). -/
def State.recordStore (s : State) (part core : Nat) (x : Scope) (cache : Cache) (p : Place) : State :=
  match p, cache with
  | .mem pa, .dflt | .mem pa, .keep =>
    match (s.core core).blockOf (pa / 16) with
    | some (b, blk) =>
      if isDevice pa then
        let r : ScopeRec := { line := pa / 128, scope := x, part, core }
        s.modCore core fun c => { c with l1 := c.l1.insert b { blk with rel := some r } }
      else s
    | none => s.recordRelease part core x p
  | p, _ => s.recordRelease part core x p

/-- A scratchpad place whose read meets a lost group or a reconstruction that fails (R133, R134), with
the physical bank. -/
def State.readLost (s : State) (p : Place) : Option Nat :=
  match p with
  | .pad team off =>
    match s.teams.find? team with
    | some t => if (s.padRead t off).1.lost then some (s.padLoc t off).bank else none
    | none => none
  | _ => none

/-- A scratchpad place whose bank is lost (R133). -/
def State.placeLost (s : State) (p : Place) : Option Nat :=
  match p with
  | .pad team off =>
    match s.teams.find? team with
    | some t => if s.padLost t off then some (s.padLoc t off).bank else none
    | none => none
  | _ => none

/-- A scratchpad place whose bank is lost (R133), or whose old word meets a reconstruction that fails: a write reads it
(R125, R132, R134). -/
def State.writeLost (s : State) (p : Place) : Option Nat :=
  match p with
  | .pad team off =>
    match s.teams.find? team with
    | some t =>
      let l := s.padLoc t off
      if s.padLost t off || ((s.core l.core).pad.meet l.bank l.row (s.nowAt l.core) true).1 then some l.bank else none
    | none => none
  | _ => none

/-- A scratchpad place whose word a vector access would read as a second read, in the order in which the places' words
wait at their banks, by a reconstruction that meets an uncorrectable error (R126, R134). -/
def State.secondLost (s : State) (ps : List Place) (p : Place) : Option Nat :=
  match p with
  | .pad team off =>
    match s.teams.find? team with
    | some t =>
      let l := s.padLoc t off
      let pad := (s.core l.core).pad
      if pad.ue.isEmpty then none
      else
        let unit := s.nextId
        let asked := ps.foldl (fun (x : Spad) q => match q with
          | .pad t' o =>
            let m := s.padLoc t o
            if t' = team && m.core = l.core then x.ask (({ cls := 4, unit } : PadUse).req t.grid o 0 m) else x
          | _ => x) pad
        let failing := Spad.foresee (s.nowAt l.core) unit s.matFront (16 + 8 * asked.reqs.length) asked
        if failing.contains (l.bank, l.row) then some l.bank else none
    | none => none
  | _ => none

/-- The reconstruction fault of an access (R221). -/
def requireBank (lost : Option Nat) (a : Access) : Except Stop Unit :=
  match lost with
  | some b => raise { a.fault 0x19 fIndex with detail := b }
  | none => .ok ()

/-- The physical Folio bank groups that some places read. -/
def State.gates (s : State) (ps : List Place) : List Nat :=
  dedup (ps.filterMap fun p => match p with
    | .folio part off => some ((s.part part).folio.getD (off / Config.bankGroupBytes) 0)
    | _ => none)

/-- The host's or a peer's memory. -/
def Place.isOutside : Place → Bool
  | .mem pa => !isDevice pa
  | _ => false

/-- The fabric port of a place in a peer's memory. -/
def Place.port : Place → Option Nat
  | .mem pa => if isPeer pa then some (portOf pa) else none
  | _ => none

/-! ## vm units (R208) -/

/-- A new `vm` unit of a group. -/
def State.vmUnit (s : State) (gid : Nat) : Nat × State :=
  let (id, s) := s.fresh
  (id, s.modGroup gid fun g => { g with vm := g.vm ++ [{ id, done := false }] })

/-- Units retire in issue order. -/
def retireUnits : List VUnit → List VUnit
  | [] => []
  | u :: r => if u.done then retireUnits r else u :: r

/-- A unit's access is performed. -/
def Group.unitDone (g : Group) (id : Nat) : Group :=
  { g with vm := retireUnits (g.vm.map fun u => if u.id == id then { u with done := true } else u) }

/-- The `vm` unit of an access that no lane of its batch makes: it is complete as soon as it is issued (R208). -/
def idleUnit (c : Ctx) (s : State) : State :=
  let (id, s) := s.vmUnit c.gid
  s.modGroup c.gid fun g => g.unitDone id

/-! ## Ordering of a group's access -/

/-- The release of a batch (R145): its loads have returned, then the waits of its core. -/
def Ctx.release (c : Ctx) (x : Scope) (s : State) : State :=
  let s := s.modGroup c.gid fun g => g.landLanes c.is.lanes
  s.releaseAt c.g.core c.t.cores x

/-- The acquire of a batch (R147). -/
def Ctx.acquire (c : Ctx) (y : Scope) (s : State) : State := s.acquireAt c.g.core y

/-- What a core's L1 holds dirty of a place goes home, with every FIFO entry ahead of it: the party's own stores come
before what it reads at the home (R105, R139). -/
def State.drainPlace (s : State) (core : Nat) (p : Place) : State :=
  match p with
  | .mem pa => match (s.core core).blockOf (pa / 16) with
    | some (b, _) => s.drainUpTo core b
    | none => s
  | _ => s

/-- The state in which a load reads some places: an acquire at `.clu` or wider reads at the home (R157, R158), so that
no older clean copy of the core answers it (log 54, DEDUCED). -/
def Ctx.readsIn (c : Ctx) (o : Order) (y : Scope) (ps : List Place) (s : State) : State :=
  if o == .acq then
    c.acquire y (if 2 ≤ y.rank then ps.foldl (fun s p => s.drainPlace c.g.core p) s else s)
  else s

/-- The scope checker judges an acquire of a lane, by the record that stands once the core's own stores to the place are
home (R157, R158). -/
def Ctx.scopeOk (c : Ctx) (y : Scope) (p : Place) (a : Access) : Except Stop Unit :=
  require ((c.s.drainPlace c.g.core p).acquireOk c.gr.part c.g.core y p)
    { a.fault 0x0D fIndex with
      addr := BitVec.ofNat 64 ((a.addr % 2 ^ 52).toNat / 128 * 128), detail := y.rank }

/-- The access of one lane through a memory operand (R99). -/
def Ctx.laneAccess (c : Ctx) (cap : BitVec 4) (idx : Src) (shift : BitVec 3) (imm : BitVec 16) (size : Nat)
    (perm : Cap → Bool) (need : Need) : Access :=
  let k := c.g.cap cap
  { cap := k, idx := idx.low, addr := memAddr k idx.index shift imm, size, align := size,
    perm := perm k, need }

/-- ACCESS_PERFORMED: the accesses of a unit that carries no register result are performed, and its scratchpad writes are
complete (R128, R208). -/
def execAccessPerformed (gid id : Nat) (s : State) : Result :=
  match s.groups.find? gid with
  | none => notNow "ACCESS_PERFORMED"
  | some g =>
    if g.vm.any (fun u => u.id == id && !u.done) && !g.flights.any (·.id == id) && !s.padOwes id then
      .next (s.setGroup gid (g.unitDone id))
    else notNow "ACCESS_PERFORMED"

/-- The Folio windows that a load waits for are closed (R112). -/
def State.gatesClosed (s : State) (gates : List Nat) : Bool :=
  gates.all fun b => !((s.die (b / 8)).windows.getD (b % 8) false)

/-- LOAD_COMPLETE: a load lands (R72, R208). -/
def execLoadComplete (gid id : Nat) (s : State) : Result :=
  match s.groups.find? gid with
  | none => notNow "LOAD_COMPLETE"
  | some g =>
    match g.flights.find? (·.id == id) with
    | some f =>
      if s.gatesClosed f.gates && !s.padOwes id then
        let g := g.land id
        let g := { g with flights := g.flights.filter (·.id != id) }
        .next (s.setGroup gid (if f.unit then g.unitDone id else g))
      else notNow "LOAD_COMPLETE"
    | none => notNow "LOAD_COMPLETE"

end Sys2Proof.Machine
end

