-- ==== Sys2Proof/Machine/LoadStore.lean ====
section
/-! DEFINITION. Class 6, first part: loads and stores of lane elements and of capabilities, and the
instructions that change where data is held (R321 to R324). -/

namespace Sys2Proof.Machine

/-! ## ld (R321) -/

/-- A v or n register operand of `n` registers. -/
def Ctx.vnOk (c : Ctx) (l : Nat) (o : Opnd) (n : Nat) : Except Stop Unit :=
  require (match o with | .v _ | .n _ => c.inBounds l o n | _ => false) (badOperand fDst)

/-- A v, n or k register operand of `n` registers. -/
def Ctx.vnkOk (c : Ctx) (l : Nat) (o : Opnd) (n : Nat) : Except Stop Unit :=
  require (o.isReg && c.inBounds l o n) (badOperand fDst)

/-- Put a load's results in flight (R72) under a `vm` unit of the group: they are what the memory held when the
load was issued (log 19, DESIGN CHOICE), but for words of retired banks (R138). -/
def Ctx.launchLoad (c : Ctx) (id : Nat) (ls : List Nat) (ws : List LaneWrite) (tag : Tag)
    (quad quads : List Nat) (ps : List Place) (s : State) : State :=
  let regs := ws.foldl (fun (a : List Reg) w => if a.contains w.reg then a else a ++ [w.reg]) []
  let gates := s.gates ps
  s.modGroup c.gid fun g =>
    let g := g.landRegs regs
    { g with flights := g.flights ++
        [{ id, lanes := ls, writes := ws, regs, tag, quad, quads, unit := true, gates }] }

/-- Read the places of some lanes, one after another. -/
def State.loadAll (s : State) (core n : Nat) (cache : Cache) (pc : Addr) (unit : Nat) :
    List (Nat × Place) → List (Nat × Nat × Bool) × State
  | [] => ([], s)
  | (l, p) :: r =>
    let ((v, q), s) := s.load core p n cache pc unit
    let (vs, s) := s.loadAll core n cache pc unit r
    ((l, v, q) :: vs, s)

/-- The places that an address leads some lanes to. -/
def lanePlaces (ls : List Nat) (place : Nat → Except Stop (Access × Place)) : List Place :=
  ls.filterMap fun l => match place l with
    | .ok x => some x.2
    | .error _ => none

/-- The reconstruction faults of one lane of a vector read (R133, R134), judged after its other checks (R218); `ps` is
all that its instruction reads. -/
def Ctx.requireRead (c : Ctx) (ps : List Place) (p : Place) (a : Access) : Except Stop Unit := do
  requireBank (c.s.readLost p) a
  requireBank (c.s.secondLost ps p) a

/-- Where `ld` reads in a lane. -/
def Ctx.ldPlace (c : Ctx) (a : MArgs) (n : Nat) (l : Nat) : Except Stop (Access × Place) := do
  let x ← c.index l a.index
  let acc := c.laneAccess a.cap x a.shift a.imm n Cap.ld { rd := true }
  return (acc, ← c.s.access c.accessor acc)

/-- `ld` (R321). -/
def execLd (a : MArgs) (s : State) : Result :=
  let n := accessSizeOf a.ty
  groupOnly s .plain
    (fun c l => do
      c.vnOk l a.data a.ty.regs
      c.indexOk l a.index
      c.survivor l a.data a.ty.regs
      let (acc, p) ← c.ldPlace a n l
      if a.order == .acq then c.scopeOk a.scope p acc
      c.requireRead (lanePlaces c.is.eff (c.ldPlace a n)) p acc
      return p)
    (fun c rs s =>
      let (id, s) := s.vmUnit c.gid
      let (vs, s) := (c.readsIn a.order a.scope (rs.map (·.2)) s).loadAll c.g.core n a.cache c.is.pc id rs
      let ws := (vs.zip rs).flatMap fun ((l, v, q), _, p) =>
        (List.range a.ty.regs).map fun j =>
          ({ reg := (c.reg l a.data).succ j, lane := l
             elem := { bits := BitVec.ofNat 32 (v / 2 ^ (32 * j)), poison := q }
             port := p.port, word := (s.wordAt p).map fun x => (x.1, x.2.1, x.2.2 + j) } : LaneWrite)
      let s := c.launchLoad id (rs.map (·.1)) ws (Tag.of a.ty) [] [] (rs.map (·.2)) s
      if a.order == .acq then c.acquire a.scope s else s)
    idleUnit
where
  /-- Bytes of an access of a type. -/
  accessSizeOf (t : Ty) : Nat := 4 * t.regs

/-! ## st (R322) -/

/-- A store of poisoned data to the host or a peer is not made (R118). -/
def requireClean (poison : Bool) (bits : Word) (p : Place) (a : Access) : Except Stop Unit :=
  require (!(poison && p.isOutside)) { a.fault 0x0E fDst with detail := 7, observed := bits }

/-- Store some granules as a `vm` unit; each granule of a release carries its record with it (R156). -/
def Ctx.storeAll (c : Ctx) (o : Order) (x : Scope) (cache : Cache) (ws : List GranuleWrite) (s : State) : State :=
  let (id, s) := (s.modGroup c.gid Group.fixReads).vmUnit c.gid
  ws.foldl (fun s w =>
    let s := s.storeGranule c.g.core w cache c.is.pc id
    if o == .rel then s.recordStore c.gr.part c.g.core x cache w.place else s) s

/-- `st` (R322). -/
def execSt (a : MArgs) (s : State) : Result :=
  let n := 4 * a.ty.regs
  groupOnly s .plain
    (fun c l => do
      c.vnkOk l a.data a.ty.regs
      c.indexOk l a.index
      let d ← c.source l { o := a.data, ty := a.ty, field := fDst } 0
      let x ← c.index l a.index
      let acc := c.laneAccess a.cap x a.shift a.imm n Cap.st { w := true }
      let p ← c.s.access c.accessor acc
      requireClean d.poison d.poisoned p acc
      requireBank (c.s.writeLost p) acc
      return (p, d))
    (fun c rs s =>
      let s := if a.order == .rel then c.release a.scope s else s
      c.storeAll a.order a.scope a.cache (gather (rs.map fun (_, p, d) => (p, n, d.value.toNat, d.poison))) s)
    idleUnit

/-! ## ldc and stc (R323) -/

/-- Read a granule with its tag at a place as a core. -/
def State.loadGranule (s : State) (core : Nat) (p : Place) (cache : Cache) (pc : Addr) (unit : Nat := 0) :
    (Granule × Bool × Bool) × State :=
  match p with
  | .mem pa => s.readGranule core (pa / 16) cache pc
  | .pad team off =>
    match s.teams.find? team with
    | some t =>
      let (r, s) := s.padSee t off (some { cls := 4, unit })
      ((r.data, r.tag, r.poison), s)
    | none => ((0, false, false), s)
  | p => ((BitVec.ofNat 128 (leNat (s.placeBytes p 16)), false, s.placePoison p 16), s)

/-- The granule as a capability: the tag goes where the bits break R93. -/
def capOf (d : Granule) (tag : Bool) : Cap :=
  let c : Cap := { w0 := d.setWidth 64, w1 := (d >>> 64).setWidth 64, tag }
  { c with tag := tag && c.ok }

/-- The bits of a capability as a granule. -/
def Cap.granule (c : Cap) : Granule := c.w1 ++ c.w0

/-- Where `ldc` reads in a lane. -/
def Ctx.ldcPlace (c : Ctx) (a : LdcArgs) (l : Nat) : Except Stop (Access × Place) := do
  let x ← c.index l a.index
  let acc := c.laneAccess a.cap x a.shift a.imm 16 Cap.cl { rd := true }
  return (acc, ← c.s.access c.accessor acc)

/-- The access of `ldc` in one of the lanes that read: the granule that it reads. A granule beyond reconstruction has no poison of its own
to meet before the fault that it raises (R218). -/
def Ctx.ldcLane (c : Ctx) (a : LdcArgs) (ls : List Nat) (l : Nat) : Except Stop (Place × Cap) := do
  let (acc, p) ← c.ldcPlace a l
  if a.order == .acq then c.scopeOk a.scope p acc
  c.requireRead (lanePlaces ls (c.ldcPlace a)) p acc
  let (d, t, q) := ((c.readsIn a.order a.scope [p] c.s).loadGranule c.g.core p a.cache c.is.pc).1
  require (!q) { acc.fault 0x0E fIndex with detail := 6, observed := d.setWidth 32 }
  return (p, capOf d t)

/-- A quad operand (R82). -/
def Ctx.quadOk (c : Ctx) (l : Nat) (o : Opnd) (field : Nat) : Except Stop Unit :=
  require (match o with | .v _ => c.inBounds l o 4 | _ => false) (badOperand field)

/-- The four words of a capability. -/
def Cap.words (c : Cap) : List Word :=
  [c.w0.setWidth 32, (c.w0 >>> 32).setWidth 32, c.w1.setWidth 32, (c.w1 >>> 32).setWidth 32]

/-- `ldc` into a quad: each lane its own granule. -/
def ldcQuad (a : LdcArgs) (q : Opnd) (s : State) : Result :=
  groupOnly s .plain
    (fun c l => do
      c.quadOk l q fDst
      c.indexOk l a.index
      c.survivor l q 4
      c.ldcLane a c.is.eff l)
    (fun c rs s =>
      let (id, s) := s.vmUnit c.gid
      let s := rs.foldl (fun s (_, p, _) => (s.loadGranule c.g.core p a.cache c.is.pc id).2)
        (c.readsIn a.order a.scope (rs.map (·.2.1)) s)
      let rowOf := fun (l : Nat) => (match c.reg l q with | .v r => r | _ => 0)
      let ws := rs.flatMap fun (l, p, k) =>
        k.words.zipIdx.map fun (w, j) =>
          ({ reg := .v (rowOf l + j), lane := l, elem := { bits := w, poison := false }
             port := p.port, word := (s.wordAt p).map fun x => (x.1, x.2.1, j) } : LaneWrite)
      let key := fun (l : Nat) => rowOf l * 64 + l
      let tagged := (rs.filter fun r => r.2.2.tag).map fun r => key r.1
      let s := c.launchLoad id (rs.map (·.1)) ws (Tag.of .b32) tagged (rs.map fun r => key r.1)
        (rs.map (·.2.1)) s
      if a.order == .acq then c.acquire a.scope s else s)
    idleUnit

/-- `ldc` into a c register: the lowest active lane's granule; a check that fails there fails in every
active lane. -/
def ldcCreg (a : LdcArgs) (i : BitVec 4) (s : State) : Result :=
  groupOnly s .closing
    (fun c l => do
      let l := c.is.eff.headD l
      c.indexOk l a.index
      c.ldcLane a [l] l)
    (fun c rs s => match rs with
      | (_, p, k) :: _ =>
        let (id, s) := s.vmUnit c.gid
        let s := ((c.readsIn a.order a.scope [p] s).loadGranule c.g.core p a.cache c.is.pc id).2
        let s := s.modGroup c.gid fun g => g.setCap i k
        if a.order == .acq then c.acquire a.scope s else s
      | [] => s)
    idleUnit

/-- `ldc` (R323). -/
def execLdc (a : LdcArgs) (s : State) : Result :=
  match a.data with
  | .quad q => ldcQuad a q s
  | .creg i => ldcCreg a i s

/-- The capability that a quad holds in a lane, and whether a row is poisoned (log 29, DEDUCED). -/
def Group.quadCap (g : Group) (row l : Nat) : Cap × Bool :=
  let e := fun (j : Nat) => g.elem (.v (row + j)) l
  ({ w0 := (e 1).bits ++ (e 0).bits, w1 := (e 3).bits ++ (e 2).bits
     tag := g.quads.contains (row * 64 + l) },
   (List.range 4).any fun j => (e j).poison)

/-- The value that `stc` stores from a lane: capability and poison (log 29, DEDUCED). -/
def Ctx.stcValue (c : Ctx) (a : LdcArgs) (l : Nat) : Cap × Bool :=
  match a.data with
  | .creg i => (c.g.cap i, false)
  | .quad q => match c.reg l q with
    | .v r => c.g.quadCap r l
    | _ => (Cap.null, false)

/-- `stc` (R323): ST, and CS where the value is tagged. -/
def execStc (a : LdcArgs) (s : State) : Result :=
  groupOnly s .plain
    (fun c l => do
      match a.data with
      | .quad q => c.quadOk l q fDst
      | .creg _ => pure ()
      c.indexOk l a.index
      let x ← c.index l a.index
      let (v, q) := c.stcValue a l
      let acc := c.laneAccess a.cap x a.shift a.imm 16 (fun k => k.st && (!v.tag || k.cs)) { w := true }
      let p ← c.s.access c.accessor acc
      requireClean q (v.w0.setWidth 32) p acc
      requireBank (c.s.writeLost p) acc
      return (p, v, q))
    (fun c rs s =>
      let s := if a.order == .rel then c.release a.scope s else s
      c.storeAll a.order a.scope a.cache (rs.map fun (_, p, v, q) =>
        { place := p, data := v.granule, mask := BitVec.allOnes 16, tag := v.tag, poison := q }) s)
    idleUnit

/-! ## pf, cwb, cinv (R324) -/

/-- `pf` (R324): checks 1 to 5; a lane that fails a page check is dropped, and a malformed entry still leaves its error
record (R194). -/
def execPf (a : MArgs) (s : State) : Result :=
  groupOnly s .plain
    (fun c l => do
      c.indexOk l a.index
      let x ← c.index l a.index
      let acc := c.laneAccess a.cap x a.shift a.imm 1 Cap.ld { rd := true }
      let va ← acc.checks c.t.z
      match c.s.locate c.accessor acc va with
      | .ok p => return (some p, none)
      | .error (.fault f) => return (none, some f)
      | .error e => .error e)
    (fun c rs s =>
      let s := s.malformedRecords c.t c.gr c.g.core c.is.pc
        (rs.filterMap fun (l, _, f) => f.map fun f => (l, f))
      let s := rs.foldl (fun s (_, p, _) =>
        match p, a.cache with
        | some (.mem pa), .dflt | some (.mem pa), .keep =>
          if ((s.core c.g.core).blockOf (pa / 16)).isSome then s
          else s.allocate c.g.core (pa / 16) c.is.pc (a.cache == .keep)
        | _, _ => s) s
      (s.vmUnit c.gid).2)
    idleUnit

/-- The blocks of a core's L1 that meet a range of physical addresses. -/
def Core.blocksIn (c : Core) (pa n : Nat) : List Nat :=
  (c.l1.cells.filter fun (b, blk) => b * 16 < pa + n && pa < (b + blk.words.length) * 16).map (·.1)

/-- Drain the dirty blocks of a range, and with `drop` invalidate every block of it. -/
def State.cleanRange (s : State) (core pa n : Nat) (drop : Bool) : State :=
  let bs := (s.core core).blocksIn pa n
  let s := bs.foldl (fun s b => s.drainUpTo core b) s
  if drop then
    s.modCore core fun c => { c with l1 := bs.foldl (fun t b => t.erase b) c.l1 }
  else s

/-- The pieces of a range of virtual addresses by page: first address and length. -/
def pagesOf (va n : Nat) : List (Nat × Nat) :=
  if n = 0 then []
  else (List.range ((va + n - 1) / 2 ^ 16 - va / 2 ^ 16 + 1)).map fun i =>
    let p := (va / 2 ^ 16 + i) * 2 ^ 16
    let lo := max va p
    (lo, min (va + n) (p + 2 ^ 16) - lo)

/-- The check of `cwb` and `cinv` in a lane: the range, none for a length of 0 (log 31, DEDUCED). -/
def Ctx.rangeLane (c : Ctx) (a : MArgs) (l : Nat) : Except Stop (Option (Nat × Nat)) := do
  require (match a.data with
    | .v _ | .n _ | .u _ | .zero => c.inBounds l a.data 1
    | _ => false) (badOperand fDst)
  c.indexOk l a.index
  let len ← c.read l a.data 1 fDst 0
  match len.tags.find? fun t => !(t.valid && (t.fmt == .n32 || t.fmt == .b32)) with
  | some t => raise { code := 0x03, addr := tagWord t, operand := fDst }
  | none => pure ()
  let x ← c.index l a.index
  let n := len.low.bits.toNat
  if n = 0 && !len.poison then return none
  else
    let acc := c.laneAccess a.cap x a.shift a.imm n (fun k => k.ld || k.st) {}
    let acc := { acc with align := 1, idx := if x.low.poison then x.low else len.low }
    match acc.checks c.t.z with
    | .ok va => return some (va, n)
    | .error (.fault f) =>
      raise { f with size := 0, operand := if f.code = 0x0E && !x.low.poison then fDst else f.operand }
    | .error e => .error e

/-- `cwb` and `cinv`: pages that are absent hold nothing in a cache (log 31, DEDUCED). -/
def rangeStep (a : MArgs) (drop : Bool) (s : State) : Result :=
  groupOnly s .plain (fun c l => c.rangeLane a l)
    (fun c rs s =>
      let s := rs.foldl (fun s (_, r) =>
        match r with
        | none => s
        | some (va, n) =>
          if (c.g.cap a.cap).space = 2 || (c.g.cap a.cap).space = 3 then s
          else (pagesOf va n).foldl (fun s (lo, k) =>
            match s.walkPa c.gr.part lo {} { code := 0 } with
            | .ok pa => s.cleanRange c.g.core pa k drop
            | .error _ => s) s) s
      (s.vmUnit c.gid).2)
    idleUnit

/-- `cwb` (R324). -/
def execCwb (a : MArgs) (s : State) : Result := rangeStep a false s

/-- `cinv` (R324). -/
def execCinv (a : MArgs) (s : State) : Result := rangeStep a true s

end Sys2Proof.Machine
end

