-- ==== Sys2Proof/Machine/Atomic.lean ====
section
/-! DEFINITION. Class 7, first part: atomics and the fence (R332 to R336). -/

namespace Sys2Proof.Machine

/-! ## Steps (R333) -/

/-- One step of an operation on the bits of a type: the new value. -/
def atomOp (op : AtomOp) (t : Ty) (old d : Nat) : Nat :=
  let w := elemBits t
  let f := floatOf .f32
  let enc := roundFloat .f32 .rne false
  match op with
  | .add => (old + d) % 2 ^ w
  | .min => if intOf t old ≤ intOf t d then old else d
  | .max => if intOf t old ≤ intOf t d then d else old
  | .and => Nat.land old d
  | .or => Nat.lor old d
  | .xor => Nat.xor old d
  | .xchg => d
  | .inc => if d ≤ old then 0 else old + 1
  | .fadd => enc (ExactNum.add false (f old) (f d))
  | .fmin => enc (ExactNum.min (f old) (f d))
  | .fmax => enc (ExactNum.max (f old) (f d))

/-- An operation that host memory performs (R114). -/
def AtomOp.onHost : AtomOp → Bool
  | .add | .xchg => true
  | _ => false

/-! ## Where an atomic executes (R149, R203) -/

/-- The contention counter of a line: the hash of the line address is the model's choice (log 6, DESIGN CHOICE),
and no value depends on it. -/
def contention (line : Nat) : Nat := (line ^^^ line / 1024 ^^^ line / 1024 ^ 2 ^^^ line / 1024 ^ 3) % 1024

/-- The contention predictor notes an atomic of a core on a line of device memory (R203). -/
def State.noteAtomic (s : State) (part core : Nat) (p : Place) : State :=
  match p with
  | .mem pa =>
    if !isDevice pa then s
    else
      let line := pa / 128
      let i := contention line
      s.modSlice ((s.part part).homeSlice pa) fun sl =>
        let c := sl.predict.get 0 i
        match sl.owners.find? line with
        | some (o, n) =>
          if o = core then
            if n + 1 = 16 then
              { sl with predict := sl.predict.put 0 i (c - 1), owners := sl.owners.insert line (core, 0) }
            else { sl with owners := sl.owners.insert line (core, n + 1) }
          else
            let c := min 3 (c + 1)
            { sl with
              predict := sl.predict.put 0 i c
              owners := if c ≤ 1 then sl.owners.insert line (core, 1) else sl.owners.erase line }
        | none => if c ≤ 1 then { sl with owners := sl.owners.insert line (core, 1) } else sl
  | _ => s

/-- The value at a place as an atomic reads it there, and the state in which it may be written: the core's
own dirty copy goes to the home first (R149). -/
def State.atomRead (s : State) (core : Nat) (p : Place) (n : Nat) : (Nat × Bool) × State :=
  let ((bs, q), s) := (s.ownFirst core p n).placeSee p n false
  ((leNat bs, q), s)

/-- An atomic's access to a scratchpad is one read-modify-write, which returns the old word (R125); one that writes nothing
leaves the word as it is (log 16, DEDUCED). -/
def State.atomWrite (s : State) (p : Place) (n : Nat) (new : Option Nat) (unit : Nat) : State :=
  match new, p with
  | some v, _ => s.placeWrite p (leBytes n v) false unit
  | none, .pad team off => match s.teams.find? team with
    | some t => s.padTouch t off { cls := 5, unit }
    | none => s
  | none, _ => s

/-! ## The checks of a lane -/

/-- What the atomics have in common. -/
structure AtomForm where
  ty    : Ty
  scope : Scope
  cap   : BitVec 4
  index : Opnd
  data  : Opnd
  order : Order
  imm7  : BitVec 7
  /-- Registers of DATA, and the alignment of its first. -/
  regs  : Nat
  align : Nat
  /-- Destination, where there is one. -/
  dst   : Option Opnd
  /-- Host memory performs it. -/
  host  : Bool
  /-- The data may not carry the NaN scale (R333). -/
  float : Bool

def Order.acquires : Order → Bool
  | .acq | .acqRel => true
  | _ => false

def Order.releases : Order → Bool
  | .rel | .acqRel => true
  | _ => false

/-- The address and data of one lane (R332); a word beyond reconstruction has no poison of its own to meet before the
fault that it raises (R218). -/
def Ctx.atomLane (c : Ctx) (a : AtomForm) (l : Nat) : Except Stop (Place × Src) := do
  let n := 4 * a.ty.regs
  match a.dst with
  | some d => c.vnkOk l d a.ty.regs
  | none => pure ()
  require (a.data.isReg && aligned (regIndex a.data) a.align && c.within l a.data a.regs)
    (badOperand fDst)
  c.indexOk l a.index
  match a.dst with
  | some d => c.survivor l d a.ty.regs
  | none => pure ()
  let d ← c.read l a.data a.regs fDst 0
  d.accept a.ty false fDst
  match d.tags.find? fun t => a.float && t.scale == 255 with
  | some t => raise { code := 0x03, addr := tagWord t, operand := fDst }
  | none => pure ()
  let x ← c.index l a.index
  let k := c.g.cap a.cap
  let acc : Access :=
    { cap := k, idx := x.low, addr := (k.cursor : Int) + x.index * n + a.imm7.toNat * n, size := n
      align := n, perm := k.atomic, need := { rd := true, w := true } }
  let p ← c.s.access c.accessor acc
  require (a.host || !(match p with | .mem pa => isHost pa | _ => false))
    { acc.fault 0x0C fIndex with detail := 5 }
  if Order.acquires a.order then c.scopeOk a.scope p acc
  require (!d.poison) { acc.fault 0x0E fDst with detail := 2, observed := d.poisoned }
  requireBank (c.s.readLost p) acc
  let (old, q) := (c.s.atomRead c.g.core p n).1
  require (!q) { acc.fault 0x0E fIndex with detail := 2, observed := BitVec.ofNat 32 old }
  return (p, d)

/-- The course of an atomic: lane after lane, `f` gives the new value, none for no write. The result of a
lane is the old value. Places that a lower lane has won are kept for `cas`. -/
def Ctx.atomEffect (c : Ctx) (a : AtomForm) (f : Nat → Src → Bool → Option Nat)
    (rs : List (Nat × Place × Src)) (s : State) : State :=
  let n := 4 * a.ty.regs
  let s := if Order.releases a.order then c.release a.scope s else s
  let (id, s) := (s.modGroup c.gid Group.fixReads).vmUnit c.gid
  let step := fun (acc : State × List (Nat × VRes) × List Place) (x : Nat × Place × Src) =>
    let (s, out, won) := acc
    let (l, p, d) := x
    let ((old, _), s) := s.atomRead c.g.core p n
    let new := f old d (won.contains p)
    let s := s.atomWrite p n new id
    let s := s.noteAtomic c.gr.part c.g.core p
    let s := if Order.releases a.order && new.isSome then s.recordRelease c.gr.part c.g.core a.scope p
      else s
    (s, out ++ [(l, VRes.of a.ty (BitVec.ofNat 64 old) false (Tag.of a.ty))],
     if new.isSome then won ++ [p] else won)
  let (s, out, _) := rs.foldl step (s, [], [])
  let s := match a.dst with
    | some d => c.writeOnly d out s
    | none => s
  if Order.acquires a.order then c.acquire a.scope s else s

/-- An atomic instruction. -/
def atomStep (s : State) (a : AtomForm) (f : Nat → Src → Bool → Option Nat) : Result :=
  groupOnly s .closing (fun c l => c.atomLane a l) (fun c rs s => c.atomEffect a f rs s) idleUnit

/-- The operation is on f32. -/
def AtomOp.isFloat : AtomOp → Bool
  | .fadd | .fmin | .fmax => true
  | _ => false

/-- `atom` (R332, R333). -/
def execAtom (a : AtomArgs) (s : State) : Result :=
  atomStep s
    { ty := a.ty, scope := a.scope, cap := a.cap, index := a.index, data := a.data, order := a.order
      imm7 := a.imm7, regs := a.ty.regs, align := a.ty.regs, dst := some a.dst, host := AtomOp.onHost a.op
      float := AtomOp.isFloat a.op }
    fun old d _ => some (atomOp a.op a.ty old d.value.toNat)

/-- `red` (R332): no form of it executes in host memory (R114). -/
def execRed (a : RedArgs) (s : State) : Result :=
  atomStep s
    { ty := a.ty, scope := a.scope, cap := a.cap, index := a.index, data := a.data, order := a.order
      imm7 := a.imm7, regs := a.ty.regs, align := a.ty.regs, dst := none, host := false
      float := AtomOp.isFloat a.op }
    fun old d _ => some (atomOp a.op a.ty old d.value.toNat)

/-- A run of registers as a number, low register first. -/
def srcNat (es : List Elem) : Nat := es.foldr (fun e n => e.bits.toNat + 2 ^ 32 * n) 0

/-- `cas` (R334): at most one success at a location. -/
def execCas (a : CasArgs) (s : State) : Result :=
  atomStep s
    { ty := a.ty, scope := a.scope, cap := a.cap, index := a.index, data := a.data, order := a.order
      imm7 := a.imm7, regs := 2 * a.ty.regs, align := if a.ty.regs = 2 then 4 else 1, dst := some a.dst
      host := true, float := false }
    fun old d won =>
      if old = srcNat (d.elems.take a.ty.regs) ∧ !won then some (srcNat (d.elems.drop a.ty.regs)) else none

/-! ## fence (R336) -/

/-- `fence` (R148, R336). -/
def execFence (scope : Scope) (s : State) : Result :=
  groupOnly s .closing (fun _ _ => .ok ()) (fun c _ s => c.acquire scope (c.release scope s))

end Sys2Proof.Machine
end

