-- ==== Sys2Proof/Machine/Barrier.lean ====
section
/-! DEFINITION. Class 7, second part: named barriers and the grid barrier (R337 to R340). -/

namespace Sys2Proof.Machine

/-! ## Barriers -/

/-- A barrier at team start (R337). -/
def Barrier.fresh : Barrier := { e := 0, z := false, a := 0, gen := 0, arrived := [] }

/-- Where a barrier is held: a team's named barrier, or a grid's. -/
inductive BarRef where
  | named (team b : Nat)
  | grid (key : Nat)
deriving DecidableEq, Repr

/-- The bit of a fibre's arrived mask. -/
def BarRef.bit : BarRef → Nat
  | .named _ b => b
  | .grid _ => 16

def State.bar (s : State) : BarRef → Barrier
  | .named t b => match s.teams.find? t with
    | some tm => tm.bars.get Barrier.fresh b
    | none => Barrier.fresh
  | .grid k => match s.grids.find? k with
    | some g => g.gbar
    | none => Barrier.fresh

def State.setBar (s : State) (r : BarRef) (x : Barrier) : State :=
  match r with
  | .named t b => s.modTeam t fun tm => { tm with bars := tm.bars.put Barrier.fresh b x }
  | .grid k => s.modGrid k fun g => { g with gbar := x }

/-- The bit set or cleared in a mask. -/
def maskSet (m : BitVec 17) (i : Nat) (b : Bool) : BitVec 17 :=
  (m &&& ~~~(1#17 <<< i)) ||| ((if b then 1#17 else 0#17) <<< i)

/-- The groups of a team, or of a grid, that have not ended: one without fibres has not while its counters do not all stand
at zero (R14). -/
def State.liveGroups (s : State) : BarRef → List Nat
  | .named t _ => (s.groups.cells.filter fun (_, g) => g.team == t).map (·.1)
  | .grid k => (s.groups.cells.filter fun (_, g) => (s.teams.find? g.team).elim false fun t => t.grid == k).map (·.1)

/-- Teams of a grid are still to be placed, or placed again: their groups have not ended (R228, R339). -/
def State.teamsToCome (s : State) (key : Nat) : Bool := (s.grids.find? key).elim false fun g => !g.unplaced.isEmpty

/-- Complete (R338): the generation ends, and the fibres that have arrived in it may leave (log 26, DEDUCED). -/
def State.completeBar (s : State) (r : BarRef) : State :=
  let x := s.bar r
  let s := s.setBar r { Barrier.fresh with gen := x.gen + 1 }
  x.arrived.foldl (fun s gid => s.modGroup gid fun g =>
    { g with fibres := ⟨g.fibres.cells.map fun (l, f) =>
        (l, if f.arrived.getLsbD r.bit then { f with released := maskSet f.released r.bit true } else f)⟩ }) s

/-- Complete the generation if every arrival that it waits for has been made: E for a named barrier; at the
grid barrier every group that has not ended (R339). -/
def State.tryComplete (s : State) (r : BarRef) : State :=
  let x := s.bar r
  let due := match r with
    | .named _ _ => 0 < x.e && x.a == x.e
    | .grid k => !x.arrived.isEmpty && !s.teamsToCome k && (s.liveGroups r).all fun g => x.arrived.contains g
  if due then s.completeBar r else s

/-- A group has ended (R338, R339): with Z set it leaves E if it has not arrived, and the generation may
complete. -/
def State.groupLeavesBars (s : State) (gid : Nat) (g : Group) (grid : Nat) : State :=
  let s := (List.range 16).foldl (fun s b =>
    let r := BarRef.named g.team b
    let x := s.bar r
    if x.z && 0 < x.e && !x.arrived.contains gid then
      (s.setBar r { x with e := x.e - 1 }).tryComplete r
    else s) s
  s.tryComplete (.grid grid)

/-! ## Arriving and leaving -/

/-- Barrier misuse (R221). -/
def misuse (b : Nat) : LaneFault := { code := 0x17, addr := BitVec.ofNat 64 b }

/-- The fibre waits at the barrier: the instruction resumes. -/
def Ctx.resumes (c : Ctx) (l b : Nat) : Bool :=
  match c.fibre? l with
  | some f => f.wait == some (.barrier b)
  | none => false

/-- The COUNT operand of a batch: the expected count, and whether it is ZERO (R337) (log 26, DEDUCED). -/
def Ctx.barCount (c : Ctx) (l b : Nat) (o : Opnd) : Except Stop (Nat × Bool) := do
  require (o.isUniform && c.inBounds l o 1) (badOperand fS1)
  match o with
  | .zero => return ((c.s.liveGroups (.named c.g.team 0)).length, true)
  | _ =>
    let x ← c.read l o 1 fS1 0
    let n := x.low.bits.toNat
    require (1 ≤ n && n ≤ c.t.groups.length) (misuse b)
    return (n, false)

/-- The fibre has not arrived yet. -/
def Ctx.fresh (c : Ctx) (l b : Nat) : Except Stop Unit :=
  match c.fibre? l with
  | some f => require (!f.arrived.getLsbD b) (misuse b)
  | none => .ok ()

/-- The lanes of a group whose fibres are not parked. -/
def Group.unparked (g : Group) : List Nat := (g.fibres.cells.filter fun (_, f) => f.parked.isNone).map (·.1)

/-- The arrival of some lanes (R338): the state, and whether their count differs from the generation's: then none of the
group's fibres has arrived (log 26, DEDUCED). -/
def Ctx.arrive (c : Ctx) (r : BarRef) (scope : Scope) (count : Option (Nat × Bool)) (ls : List Nat)
    (s : State) : State × Bool :=
  let s := c.release scope s
  let s := s.modGroup c.gid fun g =>
    g.modFibres ls fun _ f => { f with arrived := maskSet f.arrived r.bit true
                                       released := maskSet f.released r.bit false }
  let x := s.bar r
  let whole := match s.groups.find? c.gid with
    | some g => g.fibres.cells.all fun (_, f) => f.parked.isSome || f.arrived.getLsbD r.bit
    | none => false
  if !whole || x.arrived.contains c.gid then (s, false)
  else
    let x := match count with
      | some (n, z) => if x.a = 0 then { x with e := n, z := z } else x
      | none => x
    if count.any fun n => n.1 != x.e then
      (s.modGroup c.gid fun g =>
        g.modFibres g.unparked fun _ f => { f with arrived := maskSet f.arrived r.bit false
                                                   released := maskSet f.released r.bit false }, true)
    else
      let s := s.setBar r { x with a := x.a + 1, arrived := ninsert c.gid x.arrived }
      (s.tryComplete r, false)

/-- The lanes leave where their generation has completed, and wait otherwise (R338) (log 26, DEDUCED). -/
def Ctx.waitBar (c : Ctx) (r : BarRef) (scope : Scope) (ls : List Nat) (s : State) : State :=
  let out := ls.filter fun l => match (s.groups.find? c.gid).bind fun g => g.fibres.find? l with
    | some f => f.released.getLsbD r.bit
    | none => false
  let stay := ls.filter fun l => !out.contains l
  let s := s.modGroup c.gid fun g =>
    (g.modFibres out fun _ f =>
      { f with arrived := maskSet f.arrived r.bit false
               released := maskSet f.released r.bit false }).modFibres stay fun _ f =>
      { f with pc := c.is.pc, needHdr := false, wait := some (.barrier r.bit) }
  if out.isEmpty then s else c.acquire scope s

/-- The count of an arrival clashes: every fibre of the group that is not parked faults (R338, R340), those of the batch at
this instruction, the others where they stand (log 26, DEDUCED). -/
def Ctx.barClash (c : Ctx) (bit : Nat) (ls : List Nat) (s : State) : State :=
  let all := (s.groups.find? c.gid).elim [] Group.unparked
  let s := s.takeFaults c.gid c.is.pc ((all.filter ls.contains).map fun l => (l, misuse bit))
  (all.filter fun l => !c.is.lanes.contains l).foldl (fun s l =>
    match (s.groups.find? c.gid).bind fun g => g.fibres.find? l with
    | some f => s.takeFaults c.gid f.pc [(l, misuse bit)]
    | none => s) s

/-- The effect of an arrival, with the wait of `bar` and `gbar`. -/
def Ctx.barEffect (c : Ctx) (r : BarRef) (scope : Scope) (count : Option (Nat × Bool)) (waits : Bool)
    (ls : List Nat) (s : State) : State :=
  let new := ls.filter fun l => !c.resumes l r.bit
  let (s, clash) := if new.isEmpty then (s, false) else c.arrive r scope count new s
  if clash then c.barClash r.bit ls s
  else if waits then c.waitBar r scope ls s else s

/-! ## Instructions -/

/-- `bar` and `barv`. -/
def barStep (a : BarArgs) (waits : Bool) (s : State) : Result :=
  let b := a.id.toNat
  groupOnly s .closing
    (fun c l =>
      if c.resumes l b then .ok (0, false)
      else do
        let n ← c.barCount l b a.count
        c.fresh l b
        return n)
    (fun c rs s =>
      let count := (rs.find? fun x => !c.resumes x.1 b).map (·.2)
      c.barEffect (.named c.g.team b) .clu count waits (rs.map (·.1)) s)

/-- `bar` (R338): arrive, then wait. -/
def execBar (a : BarArgs) (s : State) : Result := barStep a true s

/-- `barv` (R338): arrive, and go on. -/
def execBarv (a : BarArgs) (s : State) : Result := barStep a false s

/-- `barw` (R338): wait; without an arrival it is barrier misuse. -/
def execBarw (id : BitVec 4) (s : State) : Result :=
  let b := id.toNat
  groupOnly s .closing
    (fun c l => match c.fibre? l with
      | some f => require (f.arrived.getLsbD b) (misuse b)
      | none => .ok ())
    (fun c rs s => c.waitBar (.named c.g.team b) .clu (rs.map (·.1)) s)

/-- `gbar` (R339): the grid barrier, in a co-resident grid. -/
def execGbar (s : State) : Result :=
  groupOnly s .closing
    (fun c l => do
      require c.gr.coresident (illegal c.is.word)
      if !c.resumes l 16 then c.fresh l 16)
    (fun c rs s => c.barEffect (.grid c.t.grid) .dev none true (rs.map (·.1)) s)

end Sys2Proof.Machine
end

