-- ==== Sys2Proof/Machine/Shape.lean ====
section
/-! DEFINITION. Tensor shape records (R199, R200), their extents (R124), coordinates (R355), and the
elements that an engine reads through them. -/

namespace Sys2Proof.Machine

/-! ## Records (R199) -/

/-- A field of a record: bytes from an offset. -/
def recField (bs : List Byte) (off n : Nat) : Nat := leNat ((bs.drop off).take n)

/-- A signed 32-bit field. -/
def recInt (bs : List Byte) (off : Nat) : Int := (BitVec.ofNat 32 (recField bs off 4)).toInt

/-- The element type of a 4-bit code (R46). -/
def tyOfCode (c : Nat) : Ty := Ty.ofCode c

/-- The record in 64 bytes, with the capability that it was loaded with. -/
def shapeOf (bs : List Byte) (cap : Cap) : Shape :=
  let f := recField bs
  let flags := f 0x11 1
  { cap
    space := f 8 1 / 16 % 8
    fmt := tyOfCode (f 0x10 1 % 16)
    ndim := flags / 16 % 4
    scv := flags.testBit 3
    folio := flags.testBit 2
    causal := flags.testBit 1
    trans := flags.testBit 0
    pad := BitVec.ofNat 16 (f 0x12 2)
    ext := [f 0x14 2, f 0x16 2, f 0x18 2, f 0x1A 2]
    stride := [recInt bs 0x1C, recInt bs 0x20, recInt bs 0x24, recInt bs 0x28]
    cmask := BitVec.ofNat 4 (f 0x2C 1)
    trows := f 0x2D 1
    tcols := f 0x2E 1
    win := [f 0x30 1, f 0x31 1]
    dil := [f 0x32 1 % 16, f 0x32 1 / 16]
    cst := [f 0x33 1 % 16, f 0x33 1 / 16]
    padb := [f 0x34 1 % 16, f 0x34 1 / 16]
    scoff := recInt bs 0x38 }

/-- CAPREG and OFFSET of a record. -/
def recCapReg (bs : List Byte) : BitVec 4 := BitVec.ofNat 4 (recField bs 8 1)
def recOffset (bs : List Byte) : Int := (BitVec.ofNat 64 (recField bs 0 8)).toInt

/-- The reserved bits of a record read zero. -/
def recReserved (bs : List Byte) : Bool :=
  let f := recField bs
  f 8 1 < 128 && f 9 7 == 0 && f 0x10 1 < 16 && f 0x11 1 < 64 && f 0x2C 1 < 16 && f 0x2F 1 == 0 &&
    f 0x35 3 == 0 && f 0x3C 4 == 0

/-- The padding element has no bit beyond its format. -/
def padOk (t : Ty) (pad : Nat) : Bool :=
  if elemBits t = 8 then pad < 256 else if t = .l6 then pad < 64 else true

/-- The limits of R199. -/
def shapeOk (bs : List Byte) (h : Shape) : Bool :=
  recReserved bs && h.space == h.cap.space && (1 ≤ h.space && h.space ≤ 3) &&
    h.folio == (h.space == 3) && padOk h.fmt h.pad.toNat &&
    (h.ext.zipIdx.all fun (e, d) => 1 ≤ e && (d ≤ h.ndim || e == 1)) &&
    (h.stride.zipIdx.all fun (x, d) => d ≤ h.ndim || x == 0) &&
    (1 ≤ h.trows && h.trows ≤ 64) && (1 ≤ h.tcols && h.tcols ≤ 64) &&
    h.win.all fun w => 1 ≤ w && w ≤ 16

/-- The record of 64 bytes through a party's capability registers: illegal where it breaks a limit. -/
def loadShape (bs : List Byte) (caps : BitVec 4 → Cap) : Except Stop Shape := do
  let c := caps (recCapReg bs)
  let h := shapeOf bs (c.withCursor ((c.cursor : Int) + recOffset bs))
  require (shapeOk bs h) (badOperand fDst)
  return h

/-! ## Elements (R200) -/

/-- The dimensions in use: extent, stride, and whether it belongs to the column index. -/
def Shape.dims (h : Shape) : List (Nat × Int × Bool) :=
  (List.range (h.ndim + 1)).map fun d => (h.ext.getD d 1, h.stride.getD d 0, h.cmask.getLsbD d)

/-- Walk the dimensions: the element index, and what is left of row and column. -/
def indexDims : List (Nat × Int × Bool) → Nat → Nat → Int → Int × Nat × Nat
  | [], row, col, e => (e, row, col)
  | (n, st, isCol) :: r, row, col, e =>
    if isCol then indexDims r row (col / n) (e + (col % n : Nat) * st)
    else indexDims r (row / n) col (e + (row % n : Nat) * st)

/-- ElementIndex: none is Outside. -/
def Shape.element (h : Shape) (trans : Bool) (row col : Nat) : Option Int :=
  let (row, col) := if trans then (col, row) else (row, col)
  let (e, r, c) := indexDims h.dims row col 0
  if r = 0 ∧ c = 0 then some e else none

/-- Bytes of an element; a word for l6. -/
def elemBytes (t : Ty) : Nat := if t = .l6 then 4 else elemBits t / 8

/-- Byte offset of element e from the base, and its position in the word for l6 (R47). -/
def elemOffset (t : Ty) (e : Int) : Int × Option Nat :=
  if t = .l6 then (e / 5 * 4, some (e % 5).toNat) else (e * elemBytes t, none)

/-- Number of outer indices on the row side, or on the column side, as the command sees them. -/
def Shape.outer (h : Shape) (trans rows : Bool) : Nat :=
  (h.dims.filter fun d => d.2.2 == (trans == rows)).foldl (fun n d => n * d.1) 1

/-- Lowest and highest byte, relative to the base, of the full extent: every element, and with SCV the
scale byte of every outer index (R124). -/
def Shape.span (h : Shape) (outer : Nat) : Int × Int :=
  let lo := h.dims.foldl (fun (a : Int) d => a + min 0 (((d.1 : Int) - 1) * d.2.1)) 0
  let hi := h.dims.foldl (fun (a : Int) d => a + max 0 (((d.1 : Int) - 1) * d.2.1)) 0
  let a := (elemOffset h.fmt lo).1
  let b := (elemOffset h.fmt hi).1 + elemBytes h.fmt - 1
  if h.scv then (min a h.scoff, max b (h.scoff + outer - 1)) else (a, b)

/-- Some element, of the elements that the dimensions left place from element `e` on, has a byte from `lo` to `hi`; bytes
count from the record's base. -/
def Shape.meets (h : Shape) (lo hi : Int) : List (Nat × Int × Bool) → Int → Bool
  | [], e =>
    let a := (elemOffset h.fmt e).1
    a ≤ hi && lo ≤ a + elemBytes h.fmt - 1
  | d :: r, e =>
    let least := (d :: r).foldl (fun (a : Int) d => a + min 0 (((d.1 : Int) - 1) * d.2.1)) e
    let most := (d :: r).foldl (fun (a : Int) d => a + max 0 (((d.1 : Int) - 1) * d.2.1)) e
    let a := (elemOffset h.fmt least).1
    let b := (elemOffset h.fmt most).1 + elemBytes h.fmt - 1
    if b < lo || hi < a then false
    else if lo ≤ a && b ≤ hi then true
    else (List.range d.1).any fun i => h.meets lo hi r (e + (i : Int) * d.2.1)

/-- An element of the record's extent, or with SCV a scale byte of one of its outer indices, lies in a run of bytes
(R124, R347). -/
def Shape.reaches (h : Shape) (outer : Nat) (lo hi : Int) : Bool :=
  h.meets lo hi h.dims 0 || (h.scv && 0 < outer && h.scoff ≤ hi && lo ≤ h.scoff + outer - 1)

/-- The check of a record's extent: R124 in space 2, R100 otherwise, over the pages that the extent reaches. -/
def State.checkExtent (s : State) (by_ : Accessor) (h : Shape) (outer : Nat) (perm : Cap → Bool)
    (need : Need) : Except Stop Unit := do
  let (a, b) := h.span outer
  let lo := (h.cap.cursor : Int) + a
  let hi := (h.cap.cursor : Int) + b
  let acc : Access :=
    { cap := h.cap, idx := Elem.zero, addr := lo, size := elemBytes h.fmt, align := 1, perm := perm h.cap
      need }
  let at_ := fun (code : Byte) (x : Int) =>
    { acc.fault code fCap with addr := BitVec.ofNat 64 (x % 2 ^ 52).toNat }
  require h.cap.tag (acc.fault 0x07 fCap)
  require acc.perm (acc.fault 0x09 fCap)
  if h.cap.space = 2 then
    require (0 ≤ lo && hi < by_.z) (at_ 0x12 (if lo < 0 then lo else max lo by_.z))
  require ((h.cap.base : Int) ≤ lo && hi < h.cap.limit)
    (at_ 0x08 (if lo < h.cap.base then lo else max lo h.cap.limit))
  if h.cap.space = 1 then
    let cur := (h.cap.cursor : Int)
    let pages := (pagesOf lo.toNat (hi - lo + 1).toNat).filter fun (va, n) =>
      h.reaches outer ((va : Int) - cur) ((va + n : Nat) - 1 - cur)
    pages.forM fun (va, _) => do
      let _ ← s.translate by_.core by_.part by_.walks va need (at_ 0x0B va)

/-- Where a byte of a record's memory lies; its extent has passed the check. -/
def State.shapePlace (s : State) (by_ : Accessor) (h : Shape) (va : Nat) (need : Need) :
    Except Stop Place :=
  match h.cap.space with
  | 2 => .ok (.pad by_.team va)
  | 3 => .ok (.folio by_.part va)
  | _ => return .mem (← s.translate by_.core by_.part by_.walks va need { code := 0x0B })

/-- Address of a byte offset from a record's base. -/
def Shape.addr (h : Shape) (off : Int) : Nat := ((h.cap.cursor : Int) + off).toNat

/-! ## Coordinates (R355) -/

/-- A coordinate. -/
structure Coord where
  row  : Nat
  col  : Nat
  k    : Nat
  diag : Int
deriving DecidableEq, Repr

def coordOf (d : Dword) : Coord :=
  { row := d.toNat % 65536, col := d.toNat / 65536 % 65536, k := d.toNat / 2 ^ 32 % 65536
    diag := ((d >>> 48).setWidth 16 : BitVec 16).toInt }

/-! ## What an engine reads -/

/-- Bytes at a place as an engine reads them, with poison. Errors that a scratchpad read meets are
recorded, and a lost word is delivered poisoned (R133, R134). -/
def State.engineRead (s : State) (p : Place) (n : Nat) (use : Option PadUse := none) : (List Byte × Bool) × State :=
  match p with
  | .pad team off =>
    match s.teams.find? team with
    | some t =>
      (List.range n).foldl (fun (acc : (List Byte × Bool) × State) i =>
        let ((bs, q), s) := acc
        let o := off + i
        if i = 0 ∨ o % 16 = 0 then
          let (r, s) := s.padTake t o use
          let k := min (16 - o % 16) (n - i)
          (((bs ++ (leBytes 16 r.data.toNat).drop (o % 16)).take (i + k), q || r.poison), s)
        else acc) (([], false), s)
    | none => ((List.replicate n 0, false), s)
  | p => ((s.placeBytes p n, s.placePoison p n), s)

/-- A tensor shape record is read once, when its instruction is accepted (R347, R354): the core's own stores to it go
home first, and the errors that a scratchpad read meets are met. -/
def State.readRecord (s : State) (core : Nat) (p : Place) : State :=
  ((s.ownFirst core p 64).engineRead p 64 (some { cls := 4, unit := 0 })).2

/-- The element of a record at an element index, as an engine reads it: code and poison. -/
def State.engineElem (s : State) (by_ : Accessor) (h : Shape) (e : Int) : (Nat × Bool) × State :=
  let (off, pos) := elemOffset h.fmt e
  match s.shapePlace by_ h (h.addr off) { rd := true } with
  | .error _ => ((0, false), s)
  | .ok p =>
    let ((bs, q), s) := s.engineRead p (elemBytes h.fmt)
    let v := leNat bs
    ((match pos with
      | some i => v / 2 ^ (6 * i) % 64
      | none => v, q), s)

/-- Where the scale byte of an outer index lies: none without a scale vector (R200), nor outside the capability or the
allocation, which the check of the record's extent does not rule out for an index beyond it (log 75, DESIGN CHOICE). -/
def Shape.scaleAt (h : Shape) (z j : Nat) : Option Nat :=
  let a := (h.cap.cursor : Int) + h.scoff + j
  if h.scv && decide ((h.cap.base : Int) ≤ a ∧ a < h.cap.limit) && (h.cap.space != 2 || decide (a < z)) then
    some a.toNat
  else none

/-- The scale byte of an outer index: 127 where there is none (R200). -/
def State.engineScale (s : State) (by_ : Accessor) (h : Shape) (j : Nat) : (Nat × Bool) × State :=
  match (h.scaleAt by_.z j).map fun va => s.shapePlace by_ h va { rd := true } with
  | some (.ok p) =>
    let ((bs, q), s) := s.engineRead p 1
    ((leNat bs, q), s)
  | _ => ((127, false), s)

/-- Read a list of elements, one after another; none stays none. -/
def State.engineElems (s : State) (by_ : Accessor) (h : Shape) :
    List (Option Int) → List (Option (Nat × Bool)) × State
  | [] => ([], s)
  | none :: r =>
    let (xs, s) := s.engineElems by_ h r
    (none :: xs, s)
  | some e :: r =>
    let (x, s) := s.engineElem by_ h e
    let (xs, s) := s.engineElems by_ h r
    (some x :: xs, s)

end Sys2Proof.Machine
end

