-- ==== Sys2Proof/Machine/CopyEngine.lean ====
section
/-! DEFINITION. Class 8, first part: the copy engine (R151, R208 to R210, R344 to R350). A copy is checked
and addressed when it is accepted; it moves its data when it completes. -/

namespace Sys2Proof.Machine

/-! ## Batches (R209) -/

/-- The open batch of a class that a copy can join, at the end of the list. -/
def joinBatch (bs : List CopyBatch) (id : Nat) : List CopyBatch :=
  match bs.getLast? with
  | some b =>
    if b.isOpen && b.joined < 64 then
      bs.dropLast ++ [{ b with joined := b.joined + 1, running := b.running ++ [id] }]
    else
      bs.dropLast ++ [{ b with isOpen := false },
        { joined := 1, running := [id], isOpen := true, faults := [], dests := [] }]
  | none => [{ joined := 1, running := [id], isOpen := true, faults := [], dests := [] }]

/-- `seal` on one class. -/
def sealBatches (bs : List CopyBatch) : List CopyBatch := bs.map fun b => { b with isOpen := false }

/-- A copy of a batch has completed, with the faults that it leaves and the granules that it has written. -/
def copyDone (bs : List CopyBatch) (id : Nat) (fs : List PendingFault) (ds : List Nat) : List CopyBatch :=
  bs.map fun b =>
    if b.running.contains id then
      { b with running := b.running.filter (· != id), faults := b.faults ++ fs, dests := b.dests ++ ds }
    else b

/-- Batches retire in order: what stays, and the faults and destinations of those that retire. -/
def retireBatches : List CopyBatch → List CopyBatch × List PendingFault × List Nat
  | [] => ([], [], [])
  | b :: r =>
    if b.running.isEmpty then
      let (r, fs, ds) := retireBatches r
      (r, b.faults ++ fs, b.dests ++ ds)
    else (b :: r, [], [])

/-- The batches of a class. -/
def Group.batches (g : Group) : EngClass → List CopyBatch
  | .ci => g.ci
  | .co => g.co
  | .fx => g.fx
  | _ => []

def Group.setBatches (g : Group) (cls : EngClass) (bs : List CopyBatch) : Group :=
  match cls with
  | .ci => { g with ci := bs }
  | .co => { g with co := bs }
  | .fx => { g with fx := bs }
  | _ => g

/-- A copy of the group completes: the group, and the granules that the batches it retires have written (R152). -/
def Group.copyDone (g : Group) (cls : EngClass) (id : Nat) (fs : List PendingFault) (ds : List Nat) :
    Group × List Nat :=
  let (bs, out, gone) := retireBatches (Sys2Proof.Machine.copyDone (g.batches cls) id fs ds)
  let g := g.setBatches cls bs
  ({ g with pending := g.pending ++ out }, gone)

/-- The engine counter of a class (R208); every group of a matrix team on a core reads the same `mx`. -/
def State.counter (s : State) (g : Group) (cls : EngClass) : Nat :=
  match cls with
  | .vm => g.vm.length
  | .mx =>
    if (s.teams.find? g.team).elim false (·.isMatrix) then (s.core g.core).matq.length else 0
  | cls => (g.batches cls).length

/-! ## Moves -/

/-- A run of bytes cut where source and destination stay within one granule: whole where they do. -/
def cutMove (src dst n : Nat) : List (Nat × Nat) :=
  if src % 16 + n ≤ 16 && dst % 16 + n ≤ 16 then [(0, n)] else (List.range n).map fun i => (i, 1)

/-- A core's L1 holds the word in a dirty block. -/
def Core.dirtyAt (c : Core) (w : Nat) : Bool := (c.blockOf w).elim false (·.2.dirty)

/-- A granule that the copy engine reads: from the issuing core's L1 where it holds the block dirty, with the error that
waits for the word (R107), else at the home (R151). -/
def State.copySees (s : State) (core w : Nat) : (Granule × Bool × Bool) × State :=
  let s := if (s.core core).dirtyAt w then s.l1Upset core w else s
  let home := s.homeGranule w
  match (s.core core).blockOf w with
  | some (b, blk) =>
    match blk.dirty, blk.words[w - b]? with
    | true, some x => (x.seen home, s)
    | _, _ => (home, s)
  | none => (home, s)

/-- What a move reads: number, tag of its granule, poison. -/
def State.moveRead (s : State) (core : Nat) (m : Move) : (Nat × Bool × Bool) × State :=
  match m.src with
  | .mem pa =>
    let ((d, t, p), s) := s.copySees core (pa / 16)
    ((d.toNat / 2 ^ (8 * (pa % 16)) % 2 ^ (8 * m.size), t, p), s)
  | .pad team off =>
    match s.teams.find? team with
    | some t =>
      let (r, s) := s.padTake t off
      ((r.data.toNat / 2 ^ (8 * (off % 16)) % 2 ^ (8 * m.size), r.tag, r.poison), s)
    | none => ((0, false, false), s)
  | p => ((leNat (s.placeBytes p m.size), false, s.placePoison p m.size), s)

/-- Read every move. -/
def State.readMoves (s : State) (core : Nat) : List Move → List (Move × Nat × Bool × Bool) × State
  | [] => ([], s)
  | m :: r =>
    let (x, s) := s.moveRead core m
    let (xs, s) := s.readMoves core r
    ((m, x) :: xs, s)

/-- The moves into a granule from the last one on that covers it whole: nothing of the earlier ones is left (R346). -/
def fromLastWhole : List (Move × Nat × Bool × Bool) → List (Move × Nat × Bool × Bool)
  | [] => []
  | m :: r => if r.any (fun x => x.1.size == 16) then fromLastWhole r else m :: r

/-- A destination granule keeps a tag when one whole source granule fills it in order (R97, R348). -/
def keepsTag (ms : List (Move × Nat × Bool × Bool)) (g : Nat × Nat × Nat) : Bool :=
  let mine := fromLastWhole (ms.filter fun m => m.1.dst.granule == g)
  match mine with
  | [] => false
  | m :: _ =>
    (mine.all fun x => x.1.tags && x.1.l6.isNone && x.2.2.1 && x.1.src.granule == m.1.src.granule &&
      x.1.src.offset % 16 == x.1.dst.offset % 16) &&
    (List.range 16).all fun i => mine.any fun x =>
      x.1.dst.offset % 16 ≤ i && i < x.1.dst.offset % 16 + x.1.size

/-- Write a granule of a copy: what the issuing core's L1 holds of it goes home first (R151). -/
def State.copyGranule (s : State) (core : Nat) (w : GranuleWrite) : State :=
  match w.place with
  | .mem pa => (s.flushRange core pa 1).homeWriteGranule (pa / 16) w.data w.mask w.tag w.poison
  | .pad team off =>
    match s.teams.find? team with
    | some t => s.padWriteGranule t off w.data w.mask w.tag w.poison
    | none => s
  | _ => s

/-- Write the bits of an l6 code: a read-modify-write of their word at the bank or home (R348). -/
def State.copyL6 (s : State) (core : Nat) (m : Move) (v : Nat) (poison : Bool) : State :=
  match m.l6 with
  | none => s
  | some (i, j, n) =>
    let old := leNat ((s.ownFirst core m.dst m.size).placeBytes m.dst m.size)
    let code := v / 2 ^ i % 2 ^ n
    let new := old - old / 2 ^ j % 2 ^ n * 2 ^ j + code * 2 ^ j
    s.copyGranule core
      (({ place := m.dst, data := 0, mask := 0, tag := false, poison := false } : GranuleWrite).lay
        m.dst.offset m.size new poison)

/-- The first word of a granule of memory. -/
def State.granuleWord (s : State) (p : Place) : Word :=
  match p with
  | .mem pa => BitVec.ofNat 32 (leNat (s.homeBytes (pa / 16 * 16) 4))
  | _ => 0

/-- The faults that a copy leaves for a `wait`, once it has written: poison sent to host or peer memory, and writes dropped at
lost banks (R118, R133). -/
def State.copyFaults (s : State) (cls : EngClass) (ms : List (Move × Nat × Bool × Bool)) :
    List PendingFault :=
  ms.filterMap fun (m, _, _, q) =>
    match s.placeLost m.dst with
    | some b => some { cls, code := 0x19, detail := b, addr := BitVec.ofNat 64 m.va }
    | none =>
      if q && m.dst.isOutside then
        some { cls, code := 0x0E, detail := 7, addr := BitVec.ofNat 64 m.va, observed := s.granuleWord m.dst }
      else none

/-- A place behind a port that has gone down since a copy was accepted (R396). -/
def Copy.cuts (c : Copy) (p : Place) : Bool := p.port.elim false c.cut.contains

/-- What a copy has read and has still to write once its failed ports are counted: a read through one delivers poison, a
write through one is lost (R396). -/
def Copy.survives (c : Copy) (ms : List (Move × Nat × Bool × Bool)) : List (Move × Nat × Bool × Bool) :=
  (ms.filter fun m => !c.cuts m.1.dst).map fun (m, v, t, q) => (m, v, t && !c.cuts m.src, q || c.cuts m.src)

/-- A copy moves its data: everything is read, then written granule by granule, later moves over earlier ones
(R345, R346) (log 18, DESIGN CHOICE). -/
def State.runCopy (s : State) (core : Nat) (c : Copy) : State × List PendingFault :=
  let (ms, s) := s.readMoves core c.moves
  let ms := c.survives ms
  let plain := ms.filter fun m => m.1.l6.isNone
  let ws := gather (plain.map fun (m, v, _, q) => (m.dst, m.size, v, q))
  let s := ws.foldl (fun s w => s.copyGranule core { w with tag := keepsTag plain w.place.granule }) s
  let s := (ms.filter fun m => m.1.l6.isSome).foldl (fun s (m, v, _, q) => s.copyL6 core m v q) s
  (s, (s.copyFaults c.cls ms).take 1)

/-- The fault of a copy whose write a failed port has lost (R396) (log 32, DEDUCED). -/
def Copy.lostFaults (c : Copy) : List PendingFault :=
  match c.lost with
  | some a => [{ cls := c.cls, code := 0x0E, detail := 7, addr := BitVec.ofNat 64 a }]
  | none => []

/-- The copy is the next of its queue: those of a Stoker complete in issue order (R39). -/
def Core.copyNext (k : Core) (c : Copy) : Bool :=
  match c.party with
  | .group _ => true
  | .stoker _ =>
    (k.copies.filter fun x => x.party == c.party && x.cls == c.cls).head?.elim false fun x => x.id == c.id

/-- The granules of memory that a copy writes. -/
def Copy.dests (c : Copy) : List Nat :=
  c.moves.filterMap fun m => match m.dst with
    | .mem pa => some (pa / 16)
    | _ => none

/-- COPY_COMPLETE: a copy's writes are complete, its accesses to scratchpads served (R128, R151, R209, R210). -/
def execCopyComplete (p : Party) (id : Nat) (s : State) : Result :=
  let here := s.cores.cells.findSome? fun (core, k) =>
    (k.copies.find? fun c => c.party == p && c.id == id).map fun c => (core, k, c)
  match here with
  | none => notNow "COPY_COMPLETE"
  | some (core, k, c) =>
    if k.copyNext c && s.gatesClosed (s.gates (c.moves.map (·.src))) && !s.padOwes id then
      let (s, fs) := s.runCopy core c
      let fs := if c.lost.isSome then c.lostFaults else fs
      let s := s.modCore core fun k => { k with copies := k.copies.filter fun x => x.id != id }
      .next (match p with
        | .group gid => match s.groups.find? gid with
          | some g =>
            let (g, gone) := g.copyDone c.cls id fs c.dests
            (s.setGroup gid g).dropClean g.core gone
          | none => s
        | .stoker _ => s.modStream core fun st =>
            { st with ci := st.ci.filter (· != id), co := st.co.filter (· != id)
                      pending := st.pending ++ fs })
    else notNow "COPY_COMPLETE"

/-! ## cp (R344, R345) -/

/-- Bytes moved per lane. -/
def CopySize.bytes : CopySize → Nat
  | .b4 => 4
  | .b8 => 8
  | .b16 => 16

/-- The two spaces suit the direction (R344). -/
def copySpaces (dir : CopyDir) (src dst : Nat) : Bool :=
  match dir with
  | .into => (src == 1 || src == 2 || src == 3 || src == 5) && (dst == 2 || (dst == 1 && src != 2))
  | .out => src == 2 && dst == 1

/-- The class of a copy: `fx` where it touches a page of a fabric target. -/
def copyClass (dir : CopyDir) (ps : List Place) : EngClass :=
  if ps.any fun p => p.port.isSome then .fx
  else match dir with
    | .into => .ci
    | .out => .co

/-- The accesses of a copy to scratchpads wait at their banks: loads into the scratchpad before stores out of it (R125).
-/
def State.askCopy (s : State) (id : Nat) (ms : List Move) : State :=
  let isPad := fun (p : Place) => match p with
    | .pad _ _ => true
    | _ => false
  let cls := if ms.any fun m => isPad m.dst then 2 else 3
  let ask := fun (s : State) (p : Place) (write : Bool) => match p with
    | .pad team off => match s.teams.find? team with
      | some t =>
        let l := s.padLoc t off
        s.modCore l.core fun k =>
          { k with pad := k.pad.ask { ({ cls, unit := id } : PadUse).req t.grid off s.issuePc l with write } }
      | none => s
    | _ => s
  ms.foldl (fun s m => ask (ask s m.src false) m.dst true) s

/-- Accept a copy of a group: it joins the open batch of its class (log 18, DESIGN CHOICE). -/
def Ctx.acceptCopy (c : Ctx) (cls : EngClass) (scope : Scope) (moves : List Move) (s : State) : State :=
  let (id, s) := s.fresh
  let s := (s.askCopy id moves).modCore c.g.core fun k =>
    { k with copies := k.copies ++
        [{ id, party := .group c.gid, team := c.g.team, cls, scope, moves, lost := none, cut := [] }] }
  s.modGroup c.gid fun g => g.setBatches cls (joinBatch (g.batches cls) id)

/-- `cp` (R344, R345). -/
def execCp (a : CpArgs) (s : State) : Result :=
  let sz := CopySize.bytes a.size
  groupOnly s .closing
    (fun c l => do
      c.indexOk l a.sidx
      c.indexOk l a.didx
      let sc := c.g.cap a.scap
      let dc := c.g.cap a.dcap
      require (copySpaces a.dir sc.space dc.space) (badOperand fCap)
      let x ← c.index l a.sidx
      let y ← c.index l a.didx
      let sa : Access :=
        { cap := sc, idx := x.low, addr := (sc.cursor : Int) + x.index + 4 * a.soff.toNat, size := sz
          align := sz, perm := sc.ld, need := { rd := true } }
      let p ← c.s.access c.accessor sa
      let da : Access :=
        { cap := dc, idx := y.low, addr := (dc.cursor : Int) + y.index + 4 * a.doff.toNat, size := sz
          align := sz, perm := dc.st, need := { w := true } }
      let q ← c.s.access c.accessor da
      return (({ src := p, dst := q, size := sz, l6 := none, tags := sc.cl && dc.cs
                 va := da.addr.toNat } : Move)))
    (fun c rs s =>
      let ms := rs.map (·.2)
      c.acceptCopy (copyClass a.dir (ms.flatMap fun m => [m.src, m.dst])) a.scope ms s)

/-! ## cpt (R347, R348) -/

/-- The padding element of a record as a code of its format (R199). -/
def Shape.padCode (h : Shape) : Nat :=
  if elemBits h.fmt ≤ 16 then h.pad.toNat else (expandImm h.fmt h.pad).toNat

/-- The moves of an l6 code from position `i` of one word to position `j` of another: the whole code within its words
where they lie within granules; else bit by bit, every byte of the destination word being written (R348). -/
def l6Moves (sa da i j : Nat) (src dst : Nat → Except Stop Place) : Except Stop (List Move) := do
  if sa % 16 ≤ 12 && da % 16 ≤ 12 then
    return [{ src := ← src 0, dst := ← dst 0, size := 4, l6 := some (6 * i, 6 * j, 6), tags := false, va := da }]
  else
    let word ← (List.range 4).mapM fun b => do
      return ({ src := .const [0], dst := ← dst b, size := 1, l6 := some (0, 0, 0), tags := false, va := da + b } : Move)
    let code ← (List.range 6).mapM fun k => do
      let x := 6 * i + k
      let y := 6 * j + k
      return ({ src := ← src (x / 8), dst := ← dst (y / 8), size := 1, l6 := some (x % 8, y % 8, 1), tags := false
                va := da + y / 8 } : Move)
    return word ++ code

/-- The moves of one element: source, or padding, to destination (log 18, DESIGN CHOICE). -/
def State.cptMove (s : State) (by_ : Accessor) (src dst : Shape) (es : Option Int) (ed : Int) :
    Except Stop (List Move) :=
  let n := elemBytes dst.fmt
  let (doff, dpos) := elemOffset dst.fmt ed
  let da := dst.addr doff
  let into := fun (i : Nat) => s.shapePlace by_ dst (da + i) { w := true }
  let plain := fun (sa : Nat) (tags : Bool) (from_ : Nat → Except Stop Place) =>
    (cutMove sa da n).mapM fun (i, k) => do
      return ({ src := ← from_ i, dst := ← into i, size := k, l6 := none, tags, va := da + i } : Move)
  match es with
  | none =>
    let bs := leBytes n src.padCode
    let from_ := fun (i : Nat) => (.ok (.const (bs.drop i)) : Except Stop Place)
    match dpos with
    | some j => l6Moves 0 da 0 j from_ into
    | none => plain 0 false from_
  | some e =>
    let (soff, spos) := elemOffset src.fmt e
    let sa := src.addr soff
    let from_ := fun (i : Nat) => s.shapePlace by_ src (sa + i) { rd := true }
    match spos, dpos with
    | some i, some j => l6Moves sa da i j from_ into
    | _, _ => plain sa (src.cap.cl && dst.cap.cs) from_

/-- The checks that a `cpt` makes of its two records (R347), and its moves. -/
def State.cptCheck (s : State) (by_ : Accessor) (dir : CopyDir) (src dst : Shape) (x : Elem × Coord)
    (poison : LaneFault) : Except Stop (List Move) := do
  require (match dir with | .into => dst.space == 2 | .out => src.space == 2) (badOperand fS1)
  require (src.fmt == dst.fmt) { code := 0x03, addr := tagWord (Tag.of dst.fmt), operand := fDst }
  require (src.trows == dst.trows && src.tcols == dst.tcols) (badOperand fS1)
  require (!x.1.poison) poison
  s.checkExtent by_ src (src.outer src.trans true) Cap.ld { rd := true }
  s.checkExtent by_ dst (dst.outer dst.trans true) Cap.st { w := true }
  let o := x.2
  let cells := (List.range dst.trows).flatMap fun m => (List.range dst.tcols).map fun n => (m, n)
  let mss ← cells.mapM fun (m, n) =>
    match dst.element dst.trans (o.row + m) (o.col + n) with
    | none => .ok []
    | some ed => s.cptMove by_ src dst (src.element src.trans (o.row + m) (o.col + n)) ed
  return mss.flatten

/-- The record that a group `cpt` reads through a capability register (R347), in space 3 too (log 83, DESIGN CHOICE), and
where it lies. -/
def Ctx.cptRecord (c : Ctx) (i : BitVec 4) : Except Stop (Shape × Place) := do
  let k := c.g.cap i
  let acc : Access :=
    { cap := k, idx := Elem.zero, addr := k.cursor, size := 64, align := 64, perm := k.ld
      need := { rd := true } }
  let p ← c.s.access c.accessor acc
  let ((bs, q), _) := (c.s.ownFirst c.g.core p 64).engineRead p 64
  require (!q) { acc.fault 0x0E fCap with detail := 8, observed := BitVec.ofNat 32 (recField bs 0 4) }
  return (← loadShape bs c.g.cap, p)

/-- A check that is one for the whole batch. -/
def groupWhole {β : Type} (s : State) (kind : Kind) (check : Ctx → Except Stop β)
    (effect : Ctx → β → State → State) : Result :=
  match s.ctx? with
  | none => .refused .noIssue
  | some c =>
    let r := check c
    c.finish (kind == .closing) (sortLanes (c.checks kind fun _ _ => r)) fun rs s =>
      match rs with
      | (_, b) :: _ => effect c b s
      | [] => s

/-- A uniform 64-bit operand: an even k pair or ZERO. -/
def Ctx.uniform64 (c : Ctx) (o : Opnd) (field : Nat) : Except Stop Src := do
  let l := c.is.eff.headD 0
  require (o.isUniform && c.inBounds l o 2) (badOperand field)
  c.read l o 2 field 0

/-- `cpt` in group code. -/
def cptGroup (a : CptArgs) (s : State) : Result :=
  groupWhole s .closing
    (fun c => do
      let x ← c.uniform64 a.coord fIndex
      let (src, p) ← c.cptRecord a.src
      let (dst, q) ← c.cptRecord a.dst
      let ms ← c.s.cptCheck c.accessor a.dir src dst
        ({ bits := x.poisoned, poison := x.poison }, coordOf x.value)
        { code := 0x0E, detail := 1, operand := fIndex, observed := x.poisoned }
      return (ms, [p, q]))
    (fun c (ms, ps) s =>
      let s := ps.foldl (fun s p => s.readRecord c.g.core p) s
      c.acceptCopy (copyClass a.dir (ms.flatMap fun m => [m.src, m.dst])) a.scope ms s)

/-- A shape slot of a stream; an invalid one is an illegal operand (R85). -/
def SCtx.slot (c : SCtx) (i : BitVec 4) (field : Nat) : Except Stop Shape :=
  match c.st.slots.find? i.toNat with
  | some h => .ok h
  | none => raise (badOperand field)

/-- A coordinate of Stoker code: s or ZERO (R355). -/
def SCtx.coord (c : SCtx) (o : Opnd) : Except Stop (Elem × Coord) := do
  let x ← c.read o .n64 fIndex
  return ({ bits := x.poisoned, poison := x.poison }, coordOf x.value)

/-- A poisoned coordinate of Stoker code (R84, R355). -/
def poisonCoord (x : Elem) : LaneFault :=
  { code := 0x0E, detail := 5, operand := fIndex, observed := x.bits }

/-- Permits that the stream's copy queue of a class has given out (R210). -/
def Stream.permits (st : Stream) (cls : EngClass) : Nat :=
  match cls with
  | .ci => st.ci.length
  | _ => st.co.length

/-- `cpt` in Stoker code: a batch of its own, on a permit of its queue. -/
def cptStream (a : CptArgs) (s : State) : Result :=
  let cls : EngClass := match a.dir with
    | .into => .ci
    | .out => .co
  match s.sctx? with
  | none => .refused .noIssue
  | some c =>
    if 16 ≤ c.st.permits cls then .next (c.stay .permit)
    else
      streamStep s
        (fun c => do
          let x ← c.coord a.coord
          let src ← c.slot a.src fCap
          let dst ← c.slot a.dst fCap
          c.s.cptCheck c.accessor a.dir src dst x (poisonCoord x.1))
        (fun c ms s =>
          let (id, s) := s.fresh
          let s := (s.askCopy id ms).modCore c.core fun k =>
            { k with copies := k.copies ++
                [{ id, party := .stoker c.core, team := c.g.team, cls, scope := a.scope, moves := ms
                   lost := none, cut := [] }] }
          s.modStream c.core fun st => match a.dir with
            | .into => { st with ci := st.ci ++ [id] }
            | .out => { st with co := st.co ++ [id] })

/-- `cpt` (R347, R348). -/
def execCpt (a : CptArgs) (s : State) : Result :=
  if s.stokerIssues then cptStream a s else cptGroup a s

/-! ## seal and wait (R349, R350) -/

/-- `seal` (R349). -/
def execSeal (s : State) : Result :=
  groupOnly s .closing (fun _ _ => .ok ())
    (fun c _ s => s.modGroup c.gid fun g =>
      { g with ci := sealBatches g.ci, co := sealBatches g.co, fx := sealBatches g.fx })

/-- The whole batch stands at its instruction and waits. -/
def Ctx.stay (c : Ctx) (w : Wait) : State :=
  c.s.setGroup c.gid (c.g.modFibres c.is.lanes fun _ f => { f with wait := some w })

/-- A pending fault as a `wait` raises it. -/
def PendingFault.fault (p : PendingFault) : LaneFault :=
  { code := p.code, detail := p.detail, addr := p.addr, observed := p.observed }

/-- `wait` in group code: once the counter has fallen, the faults of the class that have retired are
raised and are pending no longer. -/
def waitGroup (a : WaitArgs) (s : State) : Result :=
  match s.ctx? with
  | none => .refused .noIssue
  | some c =>
    if c.is.eff.isEmpty || s.counter c.g a.cls ≤ a.thresh.toNat then
      let due := if c.is.eff.isEmpty then none else c.g.pending.find? fun p => p.cls == a.cls
      let c := match due with
        | some _ => { c with g := { c.g with pending := c.g.pending.filter fun p => p.cls != a.cls } }
        | none => c
      c.finish false
        (sortLanes (c.is.eff.map fun l => (l, match due with
          | some p => (raise p.fault : Except Stop Unit)
          | none => .ok ()))) fun _ s => s
    else .next (c.stay (.engine a.cls a.thresh.toNat))

/-- The counter of a stream (R210). -/
def SCtx.counter (c : SCtx) (cls : EngClass) : Nat :=
  match cls with
  | .ci => c.st.ci.length
  | .co => c.st.co.length
  | _ => (c.s.core c.core).matq.length

/-- `wait` in Stoker code, on `ci`, `co` and `mx`. -/
def waitStream (a : WaitArgs) (s : State) : Result :=
  match s.sctx? with
  | none => .refused .noIssue
  | some c =>
    if a.cls = .vm ∨ a.cls = .fx then .next (c.fault (illegal c.is.word))
    else if c.counter a.cls ≤ a.thresh.toNat then
      match c.st.pending.find? fun p => p.cls == a.cls with
      | some p =>
        .next (({ c with st := { c.st with pending := c.st.pending.filter fun p => p.cls != a.cls } } :
          SCtx).fault p.fault)
      | none => .next c.advance
    else .next (c.stay (.engine a.cls a.thresh.toNat))

/-- `wait` (R152, R350). -/
def execWait (a : WaitArgs) (s : State) : Result :=
  if s.stokerIssues then waitStream a s else waitGroup a s

end Sys2Proof.Machine
end

