-- ==== Sys2Proof/Machine/Stoker.lean ====
section
/-! DEFINITION. Class 8, second part: the Stoker's stream (R36 to R38, R351 to R354). -/

namespace Sys2Proof.Machine

/-! ## stoke (R351) -/

/-- A stream as it starts (R37, R84): s0 to s15 from k0 to k15 of its owner, both halves with the poison bit of the k
register (log 27, DEDUCED). -/
def Stream.start (owner : Nat) (g : Group) (pc : Addr) (age : Nat) : Stream :=
  { owner, pc
    s := (List.range 16).foldl (fun (t : Tab SReg) i =>
      let e := g.k.get Elem.zero i
      t.put SReg.zero i { bits := e.bits.setWidth 64, plo := e.poison, phi := e.poison }) ⟨[]⟩
    pred := 0, slots := ⟨[]⟩, loops := [], ci := [], co := [], wait := none, stopped := false, age
    pending := [], walks := [] }

/-- `stoke` (R36, R351): the batch waits while a stream runs on the core. -/
def execStoke (off : BitVec 44) (s : State) : Result :=
  groupOnly s .closing
    (fun c _ => do
      require c.t.isMatrix (illegal c.is.word)
      checkTarget c.gr (offsetTarget c.is.pc off.toInt) fImm)
    (fun c rs s => match rs with
      | (_, t) :: _ =>
        if (s.core c.g.core).stream.isSome then
          s.modGroup c.gid fun g => g.modFibres (rs.map (·.1)) fun _ f =>
            { f with pc := c.is.pc, needHdr := false, wait := some .stoke }
        else
          s.modCore c.g.core fun k =>
            { k with stream := some (Stream.start c.gid c.g t (s.cyclesOf c.g.core + 1)) }
      | [] => s)

/-! ## sfin (R352) -/

/-- `sfin`: the stream waits until its counters stand at 0, and ends. A fault that a copy has left and no `wait`
has raised stops it (R133) (log 38, DEDUCED). -/
def execSfin (s : State) : Result :=
  if !s.stokerIssues then wrongForGroup s
  else
    match s.sctx? with
    | none => .refused .noIssue
    | some c =>
      if c.counter .ci = 0 ∧ c.counter .co = 0 ∧ c.counter .mx = 0 then
        match c.st.pending with
        | p :: _ => .next (c.fault p.fault)
        | [] => .next (s.modCore c.core fun k => { k with stream := none })
      else .next (c.stay .sfin)

/-! ## loop (R353) -/

/-- `loop` (R353). -/
def execLoop (a : LoopArgs) (s : State) : Result :=
  stokerOnly s
    (fun c => do
      let last := c.is.pc.toNat + 8 * a.body.toNat
      require (a.level.toNat == c.st.loops.length) (badOperand fImm)
      require (match a.count with | .u i => i < 32 | .zero => true | _ => false) (badOperand fS1)
      let x ← c.read a.count .n32 fS1
      require (!x.poison) { code := 0x0E, detail := 5, operand := fS1, observed := x.poisoned }
      require (match c.st.loops with | l :: _ => last ≤ l.last.toNat | [] => true) (badOperand fImm)
      return (BitVec.ofNat 52 last, x.low.bits.toNat))
    (fun c (last, n) s =>
      s.modStream c.core fun st =>
        if n = 0 then { st with pc := last + 8, loops := c.st.loops, stopped := c.st.stopped }
        else
          { st with pc := c.is.pc + 8, stopped := c.st.stopped
                    loops := { first := c.is.pc + 8, last, left := n } :: c.st.loops })

/-! ## shpld (R354) -/

/-- `shpld` (R354). -/
def execShpld (a : ShpldArgs) (s : State) : Result :=
  stokerOnly s
    (fun c => do
      require (a.index.isUniform && regIndex a.index < 32) (badOperand fIndex)
      let x ← c.read a.index .n32 fIndex
      let k := c.g.cap a.cap
      require (k.space == 1 || k.space == 2) (badOperand fCap)
      let acc : Access :=
        { cap := k, idx := x.low, addr := memAddr k x.index a.shift a.imm, size := 64, align := 64
          perm := k.ld, need := { rd := true } }
      let p ← c.s.access c.accessor acc
      requireBank (c.s.readLost p) acc
      let ((bs, q), _) := (c.s.ownFirst c.core p 64).engineRead p 64
      require (!q) { acc.fault 0x0E fIndex with detail := 8, observed := BitVec.ofNat 32 (recField bs 0 4) }
      return (← loadShape bs c.g.cap, p))
    (fun c (h, p) s => (s.readRecord c.core p).modStream c.core fun st =>
      { st with slots := st.slots.insert a.slot.toNat h })

end Sys2Proof.Machine
end

