-- ==== Sys2Proof/Machine/Matrix.lean ====
section
/-! DEFINITION. The matrix engine and the accumulator tiles (R64 to R68, R83, R135 to R137, R325, R355 to
R358). A command's operands are read when it is accepted (R153); its tile is written when it completes, in
the queue's order. -/

namespace Sys2Proof.Machine

/-! ## Formats (R64) -/

/-- The tile format that a pair of operand formats writes. -/
def pairFormat (a b : Ty) : Option Ty :=
  match a, b with
  | .l6, .l6 => some .f32
  | .e4m3, .e4m3 | .e4m3, .e5m2 | .e5m2, .e4m3 | .e5m2, .e5m2 => some .f32
  | .f16, .f16 => some .f32
  | .bf16, .bf16 => some .f32
  | .s8, .s8 | .s8, .n8 | .n8, .s8 | .n8, .n8 => some .s32
  | _, _ => none

/-- A tile's tag at team start (R83). -/
def Tag.tile : Tag := { fmt := .f32, valid := false, scale := 127 }

/-- The tile's tag. -/
def Core.tileTag (k : Core) (t : Nat) : Tag := k.tileTags.get Tag.tile t

/-- The pending tag of a tile (R64). -/
def Core.pendingTag (k : Core) (t : Nat) : Tag :=
  match (k.matq.filter fun m => m.tile == t).getLast? with
  | some m => Tag.of ((pairFormat m.fmtA m.fmtB).getD .f32)
  | none => k.tileTag t

/-- The key of a tile element. -/
def tileKey (tile row col : Nat) : Nat := tile * 4096 + row * 64 + col

/-! ## Products and sums (R65 to R68) -/

/-- The product of two l6 codes on the table path (R66). -/
def l6Product (x y : Nat) : ExactNum :=
  let ca := x % 32
  let cb := y % 32
  let sa := x.testBit 5
  let sb := y.testBit 5
  if (ca = 0 ∧ sa) ∨ (cb = 0 ∧ sb) then .nan
  else if ca = 0 ∨ cb = 0 then .zero false
  else
    let q : Int := (ca : Int) + cb - 32
    let p : Int := (l6Table (q % 4).toNat * 2 ^ (q / 4 + 8).toNat : Nat)
    .fin (if sa != sb then -p else p) (-30)

/-- The exact product of two elements. -/
def product (ta tb : Ty) (x y : Nat) : ExactNum :=
  if ta = .l6 then l6Product x y else ExactNum.mul (floatOf ta x) (floatOf tb y)

/-- Round to f32 and read it back; a zero is +0.0 (R65). -/
def roundAcc (x : ExactNum) : ExactNum :=
  match floatOf .f32 (roundFloat .f32 .rne false x) with
  | .zero _ => .zero false
  | v => v

/-- The elements of a dot product that meet, in ascending k: the others are exact zero products, also where the element
that meets nothing is NaN or poisoned (R65, R68) (log 58, DEDUCED). -/
def meeting (a b : List (Option Nat)) : List (Option (Nat × Nat)) :=
  (a.zip b).map fun (x, y) => x.bind fun u => y.map fun v => (u, v)

/-- Cut a list into groups of 32. -/
def groups32 {α : Type} : Nat → List α → List (List α)
  | 0, _ => []
  | n + 1, l => if l.isEmpty then [] else l.take 32 :: groups32 n (l.drop 32)

/-- The exact sum of a group's products. -/
def groupSum (ta tb : Ty) (g : List (Option (Nat × Nat))) : ExactNum :=
  g.foldl (fun (acc : ExactNum) p => match p with
    | some (x, y) => ExactNum.add false acc (product ta tb x y)
    | none => acc) (.zero false)

/-- An element is NaN. -/
def isNanCode (t : Ty) (x : Nat) : Bool := (valueOf t x).isNan

/-- A float or l6 element of the tile (R65, R66, R68). `old` is the tile element's bits. -/
def dotFloat (m : MatCmd) (ps : List (Option (Nat × Nat))) (sa sb : Nat) (old : Nat) : Nat :=
  let bad := sa = 255 || sb = 255 || ps.any fun p => match p with
    | some (x, y) => isNanCode m.fmtA x || isNanCode m.fmtB y
    | none => false
  if bad then canonNan .f32
  else
    let start : ExactNum := match m.mode with
      | .ovr => .zero false
      | .sacc => floatOf .f32 (roundFloat .f32 .rne false
          (ExactNum.mul (floatOf .f32 (m.gamma.bits.toNat % 2 ^ 32)) (floatOf .f32 old)))
      | _ => floatOf .f32 old
    let acc := (groups32 (ps.length / 32 + 1) ps).foldl (fun (acc : ExactNum) g =>
      let sum := ExactNum.scale ((sa : Int) + sb - 254) (groupSum m.fmtA m.fmtB g)
      roundAcc (ExactNum.add false acc (roundAcc sum))) start
    roundFloat .f32 .rne false acc

/-- An integer element of the tile (R67). -/
def dotInt (m : MatCmd) (ps : List (Option (Nat × Nat))) (old : Nat) : Nat :=
  let start : Int := match m.mode with
    | .ovr => 0
    | _ => intOf .s32 old
  wrap 32 (ps.foldl (fun (acc : Int) p => match p with
    | some (x, y) => acc + intOf m.fmtA x * intOf m.fmtB y
    | none => acc) start)

/-- Row `i` of A, column `j` of B. -/
def MatCmd.rowA (m : MatCmd) (i : Nat) : List (Option Nat) := (m.a.drop (i * m.k)).take m.k
def MatCmd.colB (m : MatCmd) (j : Nat) : List (Option Nat) :=
  (List.range m.k).map fun k => (m.b.getD (k * m.n + j) none)

/-- Poison of the dot product of an element: its elements that meet (log 58, DEDUCED), and the scale bytes read for it,
also for an integer pair, which applies none (R68) (log 66, DESIGN CHOICE). Scale poison is kept beyond the element
indexes of A and of B. -/
def MatCmd.poisons (m : MatCmd) (i j : Nat) : Bool :=
  ((List.range m.k).any fun k =>
    let x := i * m.k + k
    let y := k * m.n + j
    (m.a.getD x none).isSome && (m.b.getD y none).isSome &&
      (m.poisonA.contains x || m.poisonB.contains y)) ||
  m.poisonA.contains (m.m * m.k + i) || m.poisonB.contains (m.k * m.n + j)

/-- The new value of a tile element. One that the causal mask leaves out takes no element of A or B, and no poison of a
scale byte either, though a scale of 0xFF makes it NaN as any other (R68, R357) (log 66, DESIGN CHOICE). -/
def MatCmd.element (m : MatCmd) (i j : Nat) (old : Elem) : Elem :=
  let masked := m.masked.getD (i * m.n + j) false
  let ps := if masked then [] else meeting (m.rowA i) (m.colB j)
  let ps := if masked then List.replicate m.k none else ps
  let bits := if pairFormat m.fmtA m.fmtB = some .s32 then dotInt m ps old.bits.toNat
    else dotFloat m ps (m.scaleA.getD i 127).toNat (m.scaleB.getD j 127).toNat old.bits.toNat
  { bits := BitVec.ofNat 32 bits
    poison := (!masked && m.poisons i j) || m.gamma.plo || (m.mode != .ovr && old.poison) }

/-! ## Tile errors (R135) -/

/-- An uncorrectable error waiting for a tile element: the element is poisoned, with an error record (log 8,
DESIGN CHOICE). -/
def State.tileUpset (s : State) (core key part : Nat) (party : Word) : State :=
  if s.upsets.tile.contains (core, key) then
    let e := (s.core core).tiles.get Elem.zero key
    let s := { s with upsets := { s.upsets with tile := s.upsets.tile.erase (core, key) } }
    let s := s.modCore core fun k => { k with tiles := k.tiles.put Elem.zero key { e with poison := true } }
    s.errorRecord part 0 2 party 0 (s.issue.elim 0 fun i => i.pc.setWidth 64) e.bits
      ((s.part part).logical core) 0
  else s

/-! ## Completion -/

/-- A write of a tile element replaces what an uncorrectable error would have struck (R135). -/
def State.clearTileUpset (s : State) (core : Nat) (keys : List Nat) : State :=
  if s.upsets.tile.isEmpty then s
  else { s with upsets := { s.upsets with tile := s.upsets.tile.filter fun u => !(u.1 == core && keys.contains u.2) } }

/-- The partition and CTXID of the matrix team resident on a core. -/
def State.matrixParty (s : State) (core : Nat) : Nat × Word :=
  match s.teams.cells.find? fun (_, t) => t.isMatrix && t.cores.contains core with
  | some (_, t) => match s.grids.find? t.grid with
    | some gr => (gr.part, gridCtxid t.grid)
    | none => (0, 0)
  | none => (0, 0)

/-- A command writes its tile and the tile's tag (R357). A divergence in an output adder poisons the element,
with an error record (R221) (log 17, DESIGN CHOICE). -/
def State.runMatrix (s : State) (core : Nat) (m : MatCmd) : State :=
  let (part, party) := s.matrixParty core
  let cells := (List.range m.m).flatMap fun i => (List.range m.n).map fun j => (i, j)
  let s := if m.mode = .ovr then s.clearTileUpset core (cells.map fun (i, j) => tileKey m.tile i j)
    else cells.foldl (fun s (i, j) => s.tileUpset core (tileKey m.tile i j) part party) s
  let old := (s.core core).tiles
  let upset := fun (i j : Nat) => pairFormat m.fmtA m.fmtB == some .f32 &&
    shadowDiverges s.upsets.matrix m.id (i * 64 + j) 0 .f32
      (m.element i j (old.get Elem.zero (tileKey m.tile i j))).bits.toNat
  let new := cells.foldl (fun (t : Tab Elem) (i, j) =>
    let key := tileKey m.tile i j
    let e := m.element i j (old.get Elem.zero key)
    t.put Elem.zero key { e with poison := e.poison || upset i j }) old
  let s := s.modCore core fun k =>
    { k with tiles := new
             tileTags := k.tileTags.put Tag.tile m.tile (Tag.of ((pairFormat m.fmtA m.fmtB).getD .f32)) }
  (cells.filter fun c => upset c.1 c.2).foldl (fun s _ =>
    s.errorRecord part 0x14 5 party 0 0 0 ((s.part part).logical core) 0) s

/-- MATRIX_COMMAND_COMPLETE: the oldest command of a core's queue completes; its permit returns (R39,
R208). A Folio operand waits for its refresh windows (R112), a scratchpad operand for its banks (R125). -/
def execMatrixCommandComplete (core : Nat) (s : State) : Result :=
  match (s.core core).matq with
  | [] => notNow "MATRIX_COMMAND_COMPLETE"
  | m :: r =>
    if s.gatesClosed m.gates && !s.padOwes m.id then
      .next ((s.runMatrix core m).modCore core fun k => { k with matq := r })
    else notNow "MATRIX_COMMAND_COMPLETE"

/-! ## Acceptance (R356, R358) -/

/-- What a matrix command is checked and built from. -/
structure MatPlan where
  a      : Shape
  b      : Shape
  k      : Nat
  co     : Coord
  gamma  : SReg
  masked : List Bool
  idxA   : List (Option Int)
  idxB   : List (Option Int)
deriving DecidableEq, Repr

/-- The causal mask (R357). -/
def causalMask (on : Bool) (m n : Nat) (o : Coord) : List Bool :=
  (List.range m).flatMap fun i => (List.range n).map fun j =>
    on && decide (((o.row + i : Nat) : Int) + o.diag < ((o.col + j : Nat) : Int))

/-- Output extent of a spatial dimension of a convolution (R358). -/
def convOut (h : Shape) (d : Nat) : Int :=
  let g := fun (l : List Nat) => (l.getD d 0 : Int)
  ((g h.ext + 2 * g h.padb - (g h.dil + 1) * (g h.win - 1) - 1) / (g h.cst + 1)) + 1

/-- The outer indices of the A of a convolution: its output positions, image by image (R357, R358). -/
def Shape.convRows (h : Shape) : Nat := (convOut h 0).toNat * (convOut h 1).toNat * h.ext.getD 3 1

/-- Element index of A(m, k) of a convolution. -/
def convA (h : Shape) (o : Coord) (m k : Nat) : Option Int :=
  let w0n := h.win.getD 0 1
  let c := o.k + k % h.tcols
  let w := k / h.tcols
  let w0 := w % w0n
  let w1 := w / w0n
  let out0 := (convOut h 0).toNat
  let out1 := (convOut h 1).toNat
  let q := o.row + m
  let o0 := q % out0
  let o1 := q / out0 % out1
  let img := q / out0 / out1
  let at_ := fun (d x : Nat) (y : Nat) =>
    (x : Int) * (h.cst.getD d 0 + 1) + (y : Int) * (h.dil.getD d 0 + 1) - h.padb.getD d 0
  let x0 := at_ 0 o0 w0
  let x1 := at_ 1 o1 w1
  let e := fun (d : Nat) => (h.ext.getD d 1 : Int)
  let st := fun (d : Nat) => h.stride.getD d 0
  if 0 ≤ x0 ∧ x0 < e 0 ∧ 0 ≤ x1 ∧ x1 < e 1 ∧ (c : Int) < e 2 ∧ (img : Int) < e 3 then
    some (x0 * st 0 + x1 * st 1 + c * st 2 + img * st 3)
  else none

/-- Shape checks of `mma` (R356, check 5). -/
def mmaShapes (a b : Shape) : Bool :=
  let plain := fun (h : Shape) =>
    h.win == [1, 1] && h.dil == [0, 0] && h.cst == [0, 0] && h.padb == [0, 0]
  a.space == 2 && (b.space == 2 || (b.space == 3 && b.folio)) && a.tcols == b.trows && plain a && plain b &&
    !a.folio

/-- Shape checks of `mconv` (R358). -/
def convShapes (a b : Shape) : Bool :=
  let plain := fun (h : Shape) =>
    h.win == [1, 1] && h.dil == [0, 0] && h.cst == [0, 0] && h.padb == [0, 0]
  let k := a.tcols * a.win.getD 0 1 * a.win.getD 1 1
  a.space == 2 && (b.space == 2 || (b.space == 3 && b.folio)) && plain b && !a.folio &&
    (a.ndim == 2 || a.ndim == 3) && a.cmask == 4 && !a.causal && !a.trans && k ≤ 16384 && b.trows == k &&
    1 ≤ convOut a 0 && 1 ≤ convOut a 1

/-- The checks of a command in the order of R356, and the elements that it reads. -/
def SCtx.matCheck (c : SCtx) (a : MmaArgs) (conv : Bool) : Except Stop MatPlan := do
  require (a.mode == .sacc || a.gamma == .zero) (badOperand fS1)
  require (!conv || (!a.causal && !a.ta)) (badOperand fImm)
  let γ ← match a.gamma with
    | .u i => if i < 32 then .ok (c.sreg i) else raise (badOperand fS1)
    | .zero => .ok SReg.zero
    | _ => raise (badOperand fS1)
  let x ← c.coord a.coord
  let ha ← c.slot a.aslot fCap
  let hb ← c.slot a.bslot fCap
  require (a.mode != .res3) { code := 0x13, operand := fImm }
  let mismatch := fun (t : Tag) => ({ code := 0x03, addr := tagWord t, operand := fDst } : LaneFault)
  match pairFormat ha.fmt hb.fmt with
  | none => raise (mismatch (Tag.of ha.fmt))
  | some f => do
    require (!(a.mode == .sacc && f == .s32)) (mismatch (Tag.of ha.fmt))
    let t := (c.s.core c.core).pendingTag a.tile.toNat
    require (a.mode == .ovr || t == Tag.of f) (mismatch t)
  require (if conv then convShapes ha hb else mmaShapes ha hb) (badOperand fCap)
  require (!x.1.poison) (poisonCoord x.1)
  let ta := ha.trans != a.ta
  let tb := hb.trans != a.tb
  c.s.checkExtent c.accessor ha (if conv then ha.convRows else ha.outer ta true) Cap.ld { rd := true }
  c.s.checkExtent c.accessor hb (hb.outer tb false) Cap.ld { rd := true }
  let o := x.2
  let k := if conv then ha.tcols * ha.win.getD 0 1 * ha.win.getD 1 1 else ha.tcols
  return {
    a := ha, b := hb, k, co := o, gamma := γ
    masked := causalMask (a.causal || ha.causal) ha.trows hb.tcols o
    idxA := (List.range ha.trows).flatMap fun m => (List.range k).map fun j =>
      if conv then convA ha o m j else ha.element ta (o.row + m) (o.k + j)
    idxB := (List.range k).flatMap fun j => (List.range hb.tcols).map fun n =>
      if conv then hb.element tb (o.k + j % ha.tcols + ha.ext.getD 2 1 * (j / ha.tcols)) (o.col + n)
      else hb.element tb (o.k + j) (o.col + n) }

/-- Indexes of poisoned elements. -/
def poisonedAt (xs : List (Option (Nat × Bool))) : List Nat :=
  (xs.zipIdx.filter fun (x, _) => x.elim false (·.2)).map (·.2)

/-- Read the scales of a run of outer indices. -/
def State.engineScales (s : State) (by_ : Accessor) (h : Shape) :
    List Nat → List (Nat × Bool) × State
  | [] => ([], s)
  | j :: r =>
    let (x, s) := s.engineScale by_ h j
    let (xs, s) := s.engineScales by_ h r
    (x :: xs, s)

/-- The bytes of an operand in scratchpad by number of element: its elements, and the scale bytes of some outer indices,
numbered from `base` on. -/
def Shape.bytesOf (h : Shape) (z : Nat) (idx : List (Option Int)) (base : Nat) (js : List Nat) : List (Nat × Nat) :=
  if h.space != 2 then []
  else
    let n := elemBytes h.fmt
    (idx.zipIdx.flatMap fun (e, i) => match e with
      | some e =>
        let a := h.addr (elemOffset h.fmt e).1
        if a % 16 + n ≤ 16 then [(i, a)] else [(i, a), (i, a + n - 1)]
      | none => []) ++
    js.zipIdx.filterMap fun (j, i) => (h.scaleAt z j).map fun a => (base + i, a)

/-- The operand fetch of a command waits at the banks: word by word, one word of each parity group in each of its steps,
going on from bank to bank of the group (R125). -/
def State.askOperand (s : State) (t : Team) (cls id : Nat) (bytes : List (Nat × Nat)) : State :=
  let words := bytes.foldl (fun (m : Tab (List Nat)) (i, off) =>
    m.put [] (off / 16) (m.get [] (off / 16) ++ [i])) ⟨[]⟩
  words.cells.foldl (fun s (w, elems) =>
    let l := s.padLoc t (16 * w)
    s.modCore l.core fun k =>
      let beat := (k.pad.reqs.filter fun r =>
        r.unit == id && r.cls == cls && r.bank / 4 == l.bank / 4).length
      { k with pad := k.pad.ask { ({ cls, unit := id } : PadUse).req t.grid (16 * w) s.issuePc l with beat, elems } }) s

/-- Accept a command: it reads its operands as they stand, and joins the matrix queue (log 17, DESIGN CHOICE).
-/
def SCtx.accept (c : SCtx) (a : MmaArgs) (p : MatPlan) (s : State) : State :=
  let by_ := c.accessor
  let (id, s) := s.fresh
  let (xs, s) := s.engineElems by_ p.a p.idxA
  let (ys, s) := s.engineElems by_ p.b p.idxB
  let rows := (List.range p.a.trows).map fun i => p.co.row + i
  let cols := (List.range p.b.tcols).map fun j => p.co.col + j
  let (sa, s) := s.engineScales by_ p.a rows
  let (sb, s) := s.engineScales by_ p.b cols
  let sp := fun (base : Nat) (l : List (Nat × Bool)) =>
    (l.zipIdx.filter fun (x, _) => x.2).map fun (_, i) => base + i
  let places := p.idxB.filterMap fun e => e.bind fun e =>
    match s.shapePlace by_ p.b (p.b.addr (elemOffset p.b.fmt e).1) { rd := true } with
    | .ok q => some q
    | .error _ => none
  let s := s.askOperand c.t 0 id (p.a.bytesOf by_.z p.idxA (p.a.trows * p.k) rows)
  let s := s.askOperand c.t 1 id (p.b.bytesOf by_.z p.idxB (p.k * p.b.tcols) cols)
  let cmd : MatCmd :=
    { id, tile := a.tile.toNat, mode := a.mode, m := p.a.trows, n := p.b.tcols, k := p.k
      fmtA := p.a.fmt, fmtB := p.b.fmt, a := xs.map fun x => x.map (·.1), b := ys.map fun y => y.map (·.1)
      masked := p.masked, poisonA := poisonedAt xs ++ sp (p.a.trows * p.k) sa
      poisonB := poisonedAt ys ++ sp (p.k * p.b.tcols) sb
      scaleA := sa.map fun x => BitVec.ofNat 8 x.1, scaleB := sb.map fun x => BitVec.ofNat 8 x.1
      gamma := p.gamma, gates := if p.b.space = 3 then s.gates places else [] }
  s.modCore c.core fun k => { k with matq := k.matq ++ [cmd] }

/-- A matrix command: it waits for a permit (R39), is checked, and is accepted. -/
def matStep (a : MmaArgs) (conv : Bool) (s : State) : Result :=
  if !s.stokerIssues then wrongForGroup s
  else
    match s.sctx? with
    | none => .refused .noIssue
    | some c =>
      if 8 ≤ (s.core c.core).matq.length then .next (c.stay .permit)
      else streamStep s (fun c => c.matCheck a conv) fun c p s => c.accept a p s

/-- `mma` (R356, R357). -/
def execMma (a : MmaArgs) (s : State) : Result := matStep a false s

/-- `mconv` (R358). -/
def execMconv (a : MmaArgs) (s : State) : Result := matStep a true s

/-! ## accrd and accwr (R325) -/

/-- The illegal instruction and operand checks of a tile access, before all others: the team, then DATA, the row and
the column (R137, R218, R325); its row. -/
def Ctx.tileForm (c : Ctx) (l : Nat) (a : TArgs) : Except Stop Src := do
  require (c.t.isMatrix) (illegal c.is.word)
  c.vnOk l a.data 1
  require (match a.row with
    | .u _ | .zero | .width | .core | .groupix => c.inBounds l a.row 1
    | _ => false) (badOperand fIndex)
  require (a.colblk.toNat * 8 + c.g.width ≤ 64) (badOperand fImm)
  let x ← c.read l a.row 1 fIndex 0
  require (x.poison || x.low.bits.toNat < 64) (badOperand fIndex)
  return x

/-- The row of a tile access is consumed as an index is, after the tags are judged (R117, R218). -/
def consumeRow (x : Src) : Except Stop Nat := do
  require (!x.poison) { code := 0x0E, detail := 1, operand := fIndex, observed := x.poisoned }
  return x.low.bits.toNat

/-- `accrd` (R325). -/
def execAccrd (a : TArgs) (s : State) : Result :=
  let tile := a.tile.toNat
  groupOnly s .plain
    (fun c l => do
      let x ← c.tileForm l a
      c.survivor l a.data 1
      let t := (c.s.core c.g.core).tileTag tile
      require (t.valid && (a.ty == .b32 || t.fmt == a.ty))
        { code := 0x03, addr := tagWord t, operand := fS1 }
      consumeRow x)
    (fun c rs s =>
      let col := fun (l : Nat) => a.colblk.toNat * 8 + l
      let s := rs.foldl (fun s (l, row) =>
        s.tileUpset c.g.core (tileKey tile row (col l)) c.gr.part (gridCtxid c.t.grid)) s
      let k := s.core c.g.core
      let t := k.tileTag tile
      let tag := if a.ty = .b32 then Tag.of .b32 else t
      c.writeOnly a.data (rs.map fun (l, row) =>
        (l, ({ elems := [k.tiles.get Elem.zero (tileKey tile row (col l))], tag } : VRes))) s)

/-- The tags of a register in the columns of the active lanes are one. -/
def Ctx.oneTag (c : Ctx) (o : Opnd) (t : Tag) : Bool :=
  c.is.eff.all fun l => c.g.tag (c.reg l o) l == t

/-- `accwr` (R325). -/
def execAccwr (a : TArgs) (s : State) : Result :=
  let tile := a.tile.toNat
  groupOnly s .plain
    (fun c l => do
      let r ← c.tileForm l a
      let x ← c.read l a.data 1 fDst 0
      let t := x.tags.headD Tag.start
      require (t.valid && t.fmt == a.ty && c.oneTag a.data t)
        { code := 0x03, addr := tagWord t, operand := fDst }
      return (← consumeRow r, x.low, t))
    (fun c rs s =>
      let s := s.clearTileUpset c.g.core (rs.map fun (l, row, _) => tileKey tile row (a.colblk.toNat * 8 + l))
      s.modCore c.g.core fun k =>
        let tiles := rs.foldl (fun (m : Tab Elem) (l, row, e, _) =>
          m.put Elem.zero (tileKey tile row (a.colblk.toNat * 8 + l)) e) k.tiles
        match rs with
        | (_, _, _, t) :: _ => { k with tiles := tiles, tileTags := k.tileTags.put Tag.tile tile t }
        | [] => k)

end Sys2Proof.Machine
end

