-- ==== Sys2Proof/Machine/System.lean ====
section
/-! DEFINITION. Class 9: system instructions (R359 to R364), the counters (R212 to R217), the special
registers (R86 to R89), and unallocated opcodes (R259). -/

namespace Sys2Proof.Machine

/-! ## ctrrd (R212, R360) -/

/-- TIME (R213). -/
def State.time (s : State) : Nat := s.clock.time

/-- REFCAL of a bank group of a partition (R207). -/
def State.refcal (s : State) (part g : Nat) : Word :=
  match (s.part part).folio[g]? with
  | none => 0xFFFFFFFF
  | some b =>
    let pos := (s.nominal + 32768 - 4096 * (b % 8)) % 32768
    if pos < 512 then BitVec.ofNat 32 (2 ^ 31 + (512 - pos)) else BitVec.ofNat 32 (32768 - pos)

/-- Permits of a Stoker copy queue that are out. -/
def Core.permitsOut (k : Core) (core : Nat) (cls : EngClass) : Nat :=
  (k.copies.filter fun c => c.party == .stoker core && c.cls == cls).length

/-- A saturating 32-bit count. -/
def sat32 (n : Nat) : Dword := BitVec.ofNat 64 (min n 0xFFFFFFFF)

/-- SLICE as it reads (R217): a class-0 context has none. -/
def Grid.sliceWord (g : Grid) : Dword := if g.cls = 0 then 0xFFFFFFFF else sat32 g.slice

/-- The partition whose map has a core (R387). -/
def State.partOfCore (s : State) (core : Nat) : Nat :=
  ((s.parts.cells.find? fun x => x.2.cores.contains core).map (·.1)).getD 0

/-- A counter that a core, its cluster, its partition or the device holds (R212), as it stands. -/
def State.coreCounter (s : State) (core part sel : Nat) : Option Dword :=
  let k := s.core core
  let cl := s.cluster (clusterOf core)
  let p := s.part part
  match sel with
  | 0x000 => some cl.cycles
  | 0x001 => some (BitVec.ofNat 64 s.time)
  | 0x008 => some (BitVec.ofNat 64 (8 - k.matq.length))
  | 0x009 => some (BitVec.ofNat 64 (16 - k.permitsOut core .ci))
  | 0x00A => some (BitVec.ofNat 64 (16 - k.permitsOut core .co))
  | 0x010 => some k.cIssued
  | 0x011 => some k.packed
  | 0x012 => some k.latchReplay
  | 0x013 => some k.actEvict
  | 0x014 => some k.parServed
  | 0x015 => some k.parStale
  | 0x016 => some p.hpdrop
  | 0x017 => some cl.droopEv
  | 0x018 => some cl.stretch
  | 0x019 => some cl.halved
  | 0x020 => some (p.energy &&& 0xFFFFFFFF)
  | 0x022 => some p.energy
  | n =>
    if 0x040 ≤ n ∧ n < 0x048 then some ((s.rails.get 0 (n - 0x040)).setWidth 64)
    else if 0x100 ≤ n ∧ n < 0x110 then some ((s.refcal part (n - 0x100)).setWidth 64)
    else none

/-- A counter that a group or its context holds (R212), as it stands. -/
def State.groupCounter (s : State) (g : Group) (gr : Grid) (sel : Nat) : Option Dword :=
  match sel with
  | 0x002 => some (BitVec.ofNat 64 (s.counter g .vm))
  | 0x003 => some (BitVec.ofNat 64 (s.counter g .ci))
  | 0x004 => some (BitVec.ofNat 64 (s.counter g .co))
  | 0x005 => some (BitVec.ofNat 64 (s.counter g .mx))
  | 0x006 => some (BitVec.ofNat 64 (s.counter g .fx))
  | 0x021 => some (g.energyHi.setWidth 64)
  | 0x028 => some (sat32 gr.debt)
  | 0x029 => some gr.sliceWord
  | 0x02A => some (sat32 gr.wdog)
  | _ => none

/-- Selectors of the counters that are sampled on a core, in the order of the samples. -/
def coreSelectors : List Nat :=
  [0x000, 0x001, 0x008, 0x009, 0x00A, 0x010, 0x011, 0x012, 0x013, 0x014, 0x015, 0x016, 0x017, 0x018, 0x019,
   0x020, 0x022] ++ (List.range 8).map (0x040 + ·) ++ (List.range 16).map (0x100 + ·)

/-- Selectors of the counters that are sampled for a group, in the order of the samples. ENERGY_HI is none of them: the
group's own read of ENERGY_LO sets it (R215). -/
def groupSelectors : List Nat := [0x002, 0x003, 0x004, 0x005, 0x006, 0x028, 0x029, 0x02A]

/-- The counters as they stand at the start of a front-end cycle of a core (R44) (log 13, DEDUCED). -/
def State.sample (s : State) (core : Nat) : State :=
  let part := s.partOfCore core
  let s := s.modCore core fun k => { k with sampled := coreSelectors.filterMap (s.coreCounter core part) }
  { s with groups := ⟨s.groups.cells.map fun (i, g) =>
      if g.core != core then (i, g)
      else match (s.teams.find? g.team).bind fun t => s.grids.find? t.grid with
        | some gr => (i, { g with sampled := groupSelectors.filterMap (s.groupCounter g gr) })
        | none => (i, g)⟩ }

/-- The sample of a counter, or what it stands at where this cycle has taken none. -/
def Ctx.sampled (c : Ctx) (sel : Nat) (now : Dword) : Dword :=
  let i := coreSelectors.findIdx (· == sel)
  let j := groupSelectors.findIdx (· == sel)
  if i < coreSelectors.length then (c.s.core c.g.core).sampled.getD i now
  else if j < groupSelectors.length then c.g.sampled.getD j now
  else now

/-- The counter that a selector names, as 64 bits, at the start of the front-end cycle (R44); none where R212 has no
such selector. -/
def Ctx.counter (c : Ctx) (sel : Nat) : Option Dword :=
  (c.s.groupCounter c.g c.gr sel <|> c.s.coreCounter c.g.core c.gr.part sel).map (c.sampled sel)

/-- `ctrrd` (R212, R215, R360). -/
def execCtrrd (a : DImmArgs) (s : State) : Result :=
  groupOnly s .plain
    (fun c l => do
      c.vnkOk l a.dst a.ty.regs
      let v ← match c.counter a.imm.toNat with
        | some v => .ok v
        | none => raise (badOperand fImm)
      c.survivor l a.dst a.ty.regs
      return VRes.of a.ty v false (Tag.of a.ty))
    (fun c rs s =>
      let s := if a.imm = 0x020 then
          let hi := ((c.sampled 0x022 (s.part c.gr.part).energy) >>> 32).setWidth 32
          s.modGroup c.gid fun g => { g with energyHi := hi }
        else s
      c.writeOnly a.dst rs s)

/-! ## tstamp (R359) -/

/-- `tstamp` (R359). -/
def execTstamp (ty : Ty) (dst : Opnd) (s : State) : Result :=
  groupOnly s .plain
    (fun c l => do
      c.vnkOk l dst 2
      c.survivor l dst 2
      return VRes.of ty (c.sampled 0x001 (BitVec.ofNat 64 c.s.time)) false (Tag.of ty))
    (fun c rs s => c.writeOnly dst rs s)

/-! ## srd and swr (R86 to R89, R361) -/

/-- BANKSTATE i (R130). -/
def Spad.bankWord (p : Spad) (i : Nat) : Word :=
  BitVec.ofNat 32 (((List.range 16).map fun j => p.bankState (16 * i + j) * 4 ^ j).sum)

/-- A special register as a lane reads it: width in registers, and value. -/
def Ctx.specialReg (c : Ctx) (l n : Nat) : Option (Nat × Dword) :=
  let k := c.s.core c.g.core
  let cl := c.s.cluster (clusterOf c.g.core)
  let of := fun (w : Nat) (f : Fibre → Dword) => (c.fibre? l).map fun x => (w, f x)
  match n with
  | 0x000 => of 1 fun f => f.trapCause.setWidth 64
  | 0x001 => of 2 fun f => f.trapPc
  | 0x002 => of 2 fun f => f.trapAddr
  | 0x003 => of 2 fun f => f.trapInfo
  | 0x004 => of 1 fun f => f.trapMask.setWidth 64
  | 0x005 => of 1 fun f => f.wbase.setWidth 64
  | 0x006 => of 2 fun f => f.strand.setWidth 64
  | 0x010 => some (2, c.gr.kernel.trapBase)
  | 0x011 => some (1, (gridCtxid c.t.grid).setWidth 64)
  | 0x012 => some (1, BitVec.ofNat 64 (c.gr.cls % 4))
  | 0x013 => some (1, c.gr.preemptCut.setWidth 64)
  | 0x020 => some (1, BitVec.ofNat 64 (cl.ratio % 4))
  | 0x048 => some (1, BitVec.ofNat 64 (k.grant % 8))
  | 0x049 => some (1, cl.droopCfg.setWidth 64)
  | n => if 0x040 ≤ n ∧ n < 0x045 then some (1, (k.pad.bankWord (n - 0x040)).setWidth 64) else none

/-- `srd` (R361). -/
def execSrd (a : DImmArgs) (s : State) : Result :=
  groupOnly s .plain
    (fun c l => do
      c.vnkOk l a.dst a.ty.regs
      let (w, v) ← match c.specialReg l a.imm.toNat with
        | some x => .ok x
        | none => raise (badOperand fImm)
      require (w == a.ty.regs) (badOperand fImm)
      c.survivor l a.dst a.ty.regs
      return VRes.of a.ty v false (Tag.of a.ty))
    (fun c rs s => c.writeOnly a.dst rs s)

/-- A write of TRAPPC or TRAPMASK (R87, R89). -/
def Fibre.writeSpecial (f : Fibre) (n : Nat) (v : Dword) : Fibre :=
  if n = 1 then { f with trapPc := v &&& 0x000FFFFFFFFFFFF8, pcWritten := true }
  else { f with trapMask := v.setWidth 32 &&& 1 }

/-- `swr` (R86, R87, R361): it is illegal outside a handler, and in one for a register of the table that no `swr` writes;
a number that the table does not have is an illegal operand, as for `srd` (log 72, DEDUCED). -/
def execSwr (a : SImmArgs) (s : State) : Result :=
  let n := a.imm.toNat
  groupOnly s .closing
    (fun c l => do
      require (c.handler && (n == 1 || n == 4 || (c.specialReg l n).isNone)) (illegal c.is.word)
      require (a.src.isReg && c.inBounds l a.src a.ty.regs) (badOperand fS1)
      let (w, _) ← match c.specialReg l n with
        | some x => .ok x
        | none => raise (badOperand fImm)
      require (w == a.ty.regs) (badOperand fImm)
      let x ← c.source l { o := a.src, ty := a.ty, field := fS1 } 0
      require (!x.poison) { code := 0x0E, detail := 9, operand := fS1, observed := x.poisoned }
      return x.value)
    (fun c rs s => s.modGroup c.gid fun g =>
      rs.foldl (fun g (l, v) => g.modFibre l fun f => f.writeSpecial n v) g)

/-! ## tlbinv (R196, R362) -/

/-- Bytes that a SIZE of INVREQ covers: none for the whole partition. -/
def invSize (n : Nat) : Option Nat :=
  match n with
  | 0 => some (2 ^ 16)
  | 1 => some (2 ^ 21)
  | 2 => some (2 ^ 28)
  | 3 => some (2 ^ 33)
  | _ => none

/-- The range that an invalidation covers. -/
def invRange (va size : Nat) : Option (Nat × Nat) :=
  (invSize size).map fun n => (va % 2 ^ 52 / n * n, n)

/-- `tlbinv` in group code: the batch goes on, and is not ready until INVALIDATION_COMPLETE. -/
def tlbinvGroup (a : SImmArgs) (s : State) : Result :=
  let size := a.imm.toNat % 16
  groupWhole s .plain
    (fun c => do
      require (size < 4 || size == 15) (badOperand fImm)
      let x ← c.uniform64 a.src fS1
      require (!x.poison) { code := 0x0E, detail := 1, operand := fS1, observed := x.poisoned }
      return x.value)
    (fun c v s =>
      let (id, s) := s.fresh
      let s := s.modPart c.gr.part fun p =>
        { p with invals := p.invals ++ [{ id, range := invRange v.toNat size, byHost := false }] }
      s.modGroup c.gid fun g => g.modFibres c.is.lanes fun _ f => { f with wait := some (.tlbinv id) })

/-- `tlbinv` (R362); in Stoker code it is of the other stream. -/
def execTlbinv (a : SImmArgs) (s : State) : Result :=
  if s.stokerIssues then wrongForStoker s else tlbinvGroup a s

/-! ## sleep (R363) -/

/-- `sleep n` (R363). -/
def execSleep (n : BitVec 16) (s : State) : Result :=
  groupOnly s .plain (fun _ _ => .ok ())
    (fun c _ s =>
      if n = 0 then s
      else s.modGroup c.gid fun g => g.modFibres c.is.lanes fun _ f =>
        { f with wait := some (.sleeping (s.time + 64 * n.toNat)) })

/-! ## errinj (R364) -/

/-- An injected error at a place. -/
def State.inject (s : State) (core : Nat) (kind : ErrKind) (p : Place) : State :=
  match p with
  | .mem pa =>
    if !isDevice pa then s
    else
      let sector := pa / 32
      match kind with
      | .ue =>
        let s := s.flushRange core (sector * 32) 32
        { s with poison := ninsert (2 * sector + 1) (ninsert (2 * sector) s.poison) }
      | .ce => { s with ceMarks := ninsert sector s.ceMarks }
  | .pad team off =>
    match s.teams.find? team with
    | none => s
    | some t =>
      let l := s.padLoc t off
      let key := padKey l.bank l.row
      s.modCore l.core fun k =>
        { k with pad := match kind with
            | .ue => { k.pad with ue := ninsert key k.pad.ue }
            | .ce => { k.pad with ce := ninsert key k.pad.ce } }
  | _ => s

/-- `errinj` (R364): no access goes through a port, so that one that is down raises nothing. -/
def execErrinj (a : ErrinjArgs) (s : State) : Result :=
  groupOnly s .closing
    (fun c l => do
      require (c.s.part c.gr.part).errinj (illegal c.is.word)
      c.indexOk l a.index
      let x ← c.index l a.index
      let acc := c.laneAccess a.cap x a.shift a.imm 1 Cap.st { w := true }
      let p ← c.s.portsUp.access c.accessor acc
      requireBank (c.s.placeLost p) acc
      return p)
    (fun c rs s => rs.foldl (fun s (_, p) => s.inject c.g.core a.kind p) s)

/-! ## Unallocated opcodes (R237, R259) -/

/-- UNALLOCATED_OPCODE: the illegal instruction fault, in group and Stoker code alike; within a predicate block, in the
lanes in which the word would take effect (R237, R248). -/
def execUnallocatedOpcode (w : Dword) (s : State) : Result :=
  match s.sctx? with
  | some c => .next (c.fault (illegal w))
  | none =>
    match s.ctx? with
    | some _ => groupStep s .plain (fun _ _ => (raise (illegal w) : Except Stop Unit)) fun _ _ s => s
    | none => .refused .noIssue

end Sys2Proof.Machine
end

