-- ==== Sys2Proof/Machine/Fetch.lean ====
section
/-! DEFINITION. Fetching an instruction's bytes (R102, R218, R262), and what the next instruction of a
fibre says of its place at a header (R27, R34). -/

namespace Sys2Proof.Machine

/-- The instruction word at a place, as its home holds it. -/
def State.codeWord (s : State) (pa : Nat) : Dword := wordOfBytes (s.homeBytes pa 8)

/-- A program counter lies in the code region (R102). -/
def Grid.holdsCode (gr : Grid) (pc : Addr) : Bool :=
  gr.kernel.code.base ≤ pc.toNat && pc.toNat + 8 ≤ gr.kernel.code.limit

/-- A fault of the fetch at a program counter (R221, R222) (log 24, DEDUCED). -/
def fetchFault (pc : Addr) (code : Byte) (detail : Nat) : LaneFault :=
  { code, addr := pc.setWidth 64, detail, operand := 0, space := 5, size := 3 }

/-- Fetch: the code capability, then the page (check 1 of R218) (log 34, DEDUCED). -/
def State.fetch (s : State) (core : Nat) (gr : Grid) (walks : List WalkResult) (pc : Addr) :
    Except Stop Dword := do
  require (gr.holdsCode pc) (fetchFault pc 0x08 1)
  let pa ← s.translate core gr.part walks pc.toNat { x := true } (fetchFault pc 0x0B 0)
  return s.codeWord pa

/-- The word at a program counter without any effect: none where it cannot be read now. -/
def State.peek (s : State) (core : Nat) (gr : Grid) (pc : Addr) : Option Dword :=
  match s.fetch core gr [] pc with
  | .ok w => some w
  | .error (.walk _) =>
    match s.walkPa gr.part pc.toNat { x := true } (fetchFault pc 0x0B 0) with
    | .ok pa => some (s.codeWord pa)
    | .error _ => none
  | .error _ => none

/-- A word is a strand header. -/
def isHeaderWord (w : Dword) : Bool :=
  match decode w with
  | .ok (.strand _) => true
  | _ => false

/-- A fibre stands at a header: one must stand where it is (R28), or it is back at its strand start, or the
instruction there is one. -/
def State.atHeader (s : State) (core : Nat) (gr : Grid) (f : Fibre) : Bool :=
  f.needHdr || f.pc == f.strand || ((s.peek core gr f.pc).elim false isHeaderWord)

/-- A wait within a closing instruction that has not completed (R33, R35). -/
def Wait.closing : Wait → Bool
  | .queue _ | .queueRetry _ | .barrier _ | .stoke => true
  | _ => false

/-- A fibre is blocked in a closing instruction. -/
def Fibre.blocked (f : Fibre) : Bool := f.wait.elim false (·.closing)

end Sys2Proof.Machine
end

