-- ==== Sys2Proof/Machine/EvActive.lean ====
section
/-! DEFINITION. The active set: entry, leaving and eviction (R34, R35). -/

namespace Sys2Proof.Machine

/-- The team and the grid of a group. -/
def State.owners (s : State) (g : Group) : Option (Team × Grid) := do
  let t ← s.teams.find? g.team
  let gr ← s.grids.find? t.grid
  return (t, gr)

/-- A fibre of a group stands at a header, neither parked nor blocked in a closing instruction. -/
def State.standsReady (s : State) (core : Nat) (gr : Grid) (f : Fibre) : Bool :=
  f.parked.isNone && !f.blocked && s.atHeader core gr f

/-- The cluster has ratio 2, or a change to it is under way. -/
def Cluster.doubled (k : Cluster) : Bool := k.ratio == 2 || k.stall.any fun x => x.2 == 2

/-- A group waits to enter its core's active set: one of its batches stands at a header. A polite request
keeps it out (R45), and so does a lane ratio of 2 for a matrix team, or one to come (R402). -/
def State.waitsToEnter (s : State) (g : Group) : Bool :=
  match s.owners g with
  | none => false
  | some (t, gr) =>
    !g.active && t.kill.isNone && !gr.polite t &&
    !(t.isMatrix && (s.cluster (clusterOf g.core)).doubled) &&
    g.fibres.cells.any fun (_, f) => s.standsReady g.core gr f

/-- A batch of a trap handler stands at a header. -/
def State.handlerWaits (s : State) (g : Group) : Bool :=
  match s.owners g with
  | none => false
  | some (_, gr) => g.fibres.cells.any fun (_, f) => f.handler && s.standsReady g.core gr f

/-- A group waits from this cycle on, where it has not been waiting before; one that does not wait to enter has no such
cycle (R34). -/
def State.stampWait (s : State) (now : Nat) (g : Group) : Group :=
  { g with waiting := if s.waitsToEnter g then some (g.waiting.getD now) else none }

/-- How long a group has waited counts from the cycle since which it waits; one that has begun to wait within this
cycle comes last (log 10, DEDUCED). -/
def Group.waitsLonger (a b : Group) : Bool :=
  match a.waiting, b.waiting with
  | some m, some n => m < n
  | some _, none => true
  | _, _ => false

/-- The waiting group comes before another: handler batches first, then the longest wait (R34). -/
def State.entersBefore (s : State) (a b : Nat × Group) : Bool :=
  let ha := s.handlerWaits a.2
  let hb := s.handlerWaits b.2
  (ha && !hb) || (ha == hb &&
    (a.2.waitsLonger b.2 || (!b.2.waitsLonger a.2 && a.1 < b.1)))

/-- The groups resident on a core. -/
def State.groupsOn (s : State) (core : Nat) : List (Nat × Group) :=
  s.groups.cells.filter fun (_, g) => g.core == core

/-- The group that a free place on the core goes to. -/
def State.firstToEnter (s : State) (core : Nat) : Option Nat :=
  let l := (s.groupsOn core).filter fun (_, g) => s.waitsToEnter g
  (l.foldl (fun (best : Option (Nat × Group)) x => match best with
    | none => some x
    | some b => if s.entersBefore x b then some x else some b) none).map (·.1)

/-- A fibre has nothing to issue now: it is parked, or it waits. -/
def Fibre.idle (f : Fibre) : Bool := f.parked.isSome || f.wait.isSome

/-- A group in the active set has had its turn: it has issued since it entered or executed its last header, it
can issue nothing, or a polite request keeps it from issuing. One that has entered in this cycle keeps its place for
the rest of it, unless it is blocked (log 10, DEDUCED). -/
def Group.hadTurn (g : Group) (now : Nat) (polite : Bool) : Bool :=
  polite || g.fibres.cells.any (fun (_, f) => g.lastHdr < f.age) ||
  g.fibres.cells.all (fun (_, f) => f.parked.isSome || f.blocked) ||
  (g.lastHdr < now && g.fibres.cells.all fun (_, f) => f.idle)

/-- A group may leave the active set: each of its batches stands at a header, is parked, or is blocked in a
closing instruction (log 10, DEDUCED). -/
def State.mayLeave (s : State) (g : Group) : Bool :=
  match s.owners g with
  | none => false
  | some (t, gr) =>
    g.active && g.hadTurn (s.cyclesOf g.core) (gr.polite t) &&
    g.fibres.cells.all fun (_, f) => f.parked.isSome || f.blocked || s.atHeader g.core gr f

/-- A group leaves the active set: its near level and the latches of its batches are lost. -/
def State.leaveActive (s : State) (gid : Nat) : State :=
  match s.groups.find? gid with
  | none => s
  | some g =>
    let lanes := List.range g.width
    (s.setGroup gid { g.dropNear lanes with active := false, waiting := none }).modCore g.core fun k =>
      k.dropLatches gid lanes

/-- The active groups of a core. -/
def State.activeOn (s : State) (core : Nat) : List (Nat × Group) :=
  (s.groupsOn core).filter fun (_, g) => g.active

/-- A place in the active set of a core: free already, or of a group that may leave (log 10, DEDUCED). -/
def State.placeOn (s : State) (core : Nat) : Option State :=
  if (s.activeOn core).length < 16 then some s
  else ((s.activeOn core).find? fun (_, g) => s.mayLeave g).map fun (i, _) => s.leaveActive i

/-- ACTIVE_SET_ENTRY (R34): every near valid bit is clear (R75). -/
def execActiveSetEntry (gid : Nat) (s : State) : Result :=
  match s.groups.find? gid with
  | none => notNow "ACTIVE_SET_ENTRY"
  | some g =>
    if s.firstToEnter g.core == some gid then
      match s.placeOn g.core with
      | some s => .next (s.modGroup gid fun g =>
          { g.dropNear (List.range g.width) with
            active := true, waiting := none, lastHdr := s.cyclesOf g.core })
      | none => notNow "ACTIVE_SET_ENTRY"
    else notNow "ACTIVE_SET_ENTRY"

/-- The lanes that an eviction replays: neither parked nor blocked in a closing instruction (R35). -/
def Group.replayable (g : Group) : List Nat :=
  (g.fibres.cells.filter fun (_, f) => f.parked.isNone && !f.blocked).map (·.1)

/-- A group is due to be evicted (R35). -/
def State.evictionDue (s : State) (gid : Nat) (g : Group) : Bool :=
  g.active && g.lastHdr + 8192 ≤ s.cyclesOf g.core &&
  (s.groupsOn g.core).any fun (i, x) => i != gid && s.waitsToEnter x

/-- EVICTION (R35). -/
def execEviction (gid : Nat) (s : State) : Result :=
  match s.groups.find? gid with
  | none => notNow "EVICTION"
  | some g =>
    if s.evictionDue gid g then
      .next (((s.replay gid g.replayable).leaveActive gid).modCore g.core fun k =>
        { k with actEvict := k.actEvict + 1 })
    else notNow "EVICTION"

end Sys2Proof.Machine
end

