-- ==== Sys2Proof/Machine/Batch.lean ====
section
/-! DEFINITION. What an instruction needs to issue, the batches of a group, and which of them are ready (R16, R17,
R41, R44, R208), and the end of a `yield`, which rests on it (R272). -/

namespace Sys2Proof

/-! ## What an instruction needs to issue (R41, R42) -/

/-- The first n sources of a V form, each of a type's width. -/
def VArgs.reads (a : VArgs) (n : Nat) (t : Ty) : List (Opnd × Nat) :=
  ([a.s1, a.s2, a.s3].take n).map fun o => (o, t.regs)

/-- The sources of a VI form of an operation with n sources: IMM stands for the last. -/
def VIArgs.reads (a : VIArgs) (n : Nat) : List (Opnd × Nat) :=
  ([a.s1, a.s2].take (n - 1)).map fun o => (o, a.ty.regs)

/-- A stored operand of a type, and the index. -/
def MArgs.reads (a : MArgs) (store : Bool) : List (Opnd × Nat) :=
  (a.index, 1) :: if store then [(a.data, a.ty.regs)] else []

/-- The data that an `stc` stores, and the index. -/
def LdcArgs.reads (a : LdcArgs) (store : Bool) : List (Opnd × Nat) :=
  (a.index, 1) :: match store, a.data with
    | true, .quad o => [(o, 4)]
    | _, _ => []

/-- The data that a queue operation reads, and AUX. -/
def QArgs.reads (a : QArgs) (n : Nat) : List (Opnd × Nat) :=
  (a.aux, 1) :: if n = 0 then [] else [(a.data, n)]

/-- Source operands with their widths in registers; `stoke` reads k0 to k15 (R37). -/
def Instr.reads : Instr → List (Opnd × Nat)
  | .kmov a | .kpopc a | .kclz a | .mov a | .abs a | .neg a | .not a | .popc a | .clz a | .brev a
  | .frcp a | .frsq a | .fsqrt a | .fexp2 a | .flog2 a | .fsin a | .fcos a | .frnd a | .fclass a
  | .tagset a | .tagget a | .vred a | .vscan a => a.reads 1 a.ty
  | .kadd a | .ksub a | .kmul a | .kmulh a | .kand a | .kor a | .kxor a | .kshl a | .kshr a | .ksar a
  | .kmin a | .kmax a | .ksel a | .kbfe a | .add a | .sub a | .mul a | .mulh a | .min a | .max a
  | .and a | .or a | .xor a | .shl a | .shr a | .sar a | .sel a | .cmul a | .fadd a | .fsub a
  | .fmul a | .fmin a | .fmax a | .fscale a | .fcmul a => a.reads 2 a.ty
  | .bfe a => [(a.s1, a.ty.regs), (a.s2, 1)]
  | .bfi a => [(a.s1, a.ty.regs), (a.s2, a.ty.regs), (a.s3, 1)]
  | .mad a | .addc a | .dot4 a | .cmac a | .fma a | .fdot2 a => a.reads 3 a.ty
  | .kaddImm a | .ksubImm a | .kmulImm a | .kmulhImm a | .kandImm a | .korImm a | .kxorImm a | .kshlImm a
  | .kshrImm a | .ksarImm a | .kminImm a | .kmaxImm a | .kbfeImm a | .addImm a | .subImm a | .mulImm a
  | .mulhImm a | .minImm a | .maxImm a | .andImm a | .orImm a | .xorImm a | .shlImm a | .shrImm a
  | .sarImm a | .bfeImm a | .faddImm a | .fsubImm a | .fmulImm a | .fminImm a | .fmaxImm a
  | .fscaleImm a => a.reads 2
  | .madImm a | .bfiImm a | .addcImm a | .dot4Imm a | .fmaImm a | .fdot2Imm a => a.reads 3
  | .kselImm a | .selImm a => [(a.s1, a.ty.regs)]
  | .kcmp a | .cmp a | .fcmp a => [(a.s1, a.ty.regs), (a.s2, a.ty.regs)]
  | .kcmpImm a | .cmpImm a | .fcmpImm a => [(a.s1, a.ty.regs)]
  | .cvt a => (a.s1, (Ty.ofCode a.func.toNat).regs) :: [(a.s2, 1)]
  | .cvtpk a => a.reads (if a.ty.count = 2 then 2 else 3) .b32
  | .unpk a => a.reads 2 .b32
  | .shfl a | .bcast a => [(a.s1, a.ty.regs), (a.s2, 1)]
  | .swr a | .tlbinv a => [(a.src, a.ty.regs)]
  | .brx t => [(t, 2)]
  | .ret l => [(l, 2)]
  | .fspawn a => [(a.base, 1)]
  | .pmask a => [(a.reg, 1)]
  | .ld a | .kld a | .pf a => a.reads false
  | .cwb a | .cinv a => [(a.index, 1), (a.data, 1)]
  | .st a | .kst a => a.reads true
  | .ldc a => a.reads false
  | .stc a => a.reads true
  | .errinj a => [(a.index, 1)]
  | .shpld a => [(a.index, 1)]
  | .accrd a => [(a.row, 1)]
  | .accwr a => [(a.row, 1), (a.data, a.ty.regs)]
  | .cbnd a => [(a.base, 2), (a.len, 2)]
  | .cadr a | .cinc a => [(a.s1, 2)]
  | .cprm a => [(a.s1, 1)]
  | .ctst a => [(a.x, 1)]
  | .cmov f => match f with
    | .cq _ q => [(q, 4)]
    | _ => []
  | .atom a => [(a.index, 1), (a.data, a.ty.regs)]
  | .red a => [(a.index, 1), (a.data, a.ty.regs)]
  | .cas a => [(a.index, 1), (a.data, 2 * a.ty.regs)]
  | .bar a | .barv a => [(a.count, 1)]
  | .qenq a => a.reads (2 ^ (a.esize.toNat - 2))
  | .qcmt a | .qdone a => a.reads 1
  | .qinit a => a.reads 8
  | .qdeq a | .qrsv a | .qtake a | .qstat a | .qclose a => a.reads 0
  | .cp a => [(a.sidx, 1), (a.didx, 1)]
  | .stoke _ => [(.u 0, 16)]
  | .cpt a => [(a.coord, 2)]
  | .loop a => [(a.count, 1)]
  | .mma a | .mconv a => [(a.gamma, 1), (a.coord, 2)]
  | _ => []

/-- A latch is among the sources. -/
def Instr.readsLatch (i : Instr) : Bool :=
  i.reads.any fun x => match x.1 with
    | .b _ => true
    | _ => false

/-- Ports of R42: 1 copy engine, 2 queue, 3 accumulator. -/
def Instr.ports : Instr → List Nat
  | .cp _ | .cpt _ | .seal => [1]
  | .qenq _ | .qdeq _ | .qrsv _ | .qcmt _ | .qtake _ | .qdone _ | .qinit _ | .qstat _ | .qclose _ => [2]
  | .accrd _ | .accwr _ => [3]
  | _ => []

/-- The copy-engine port, which a core's Stoker shares with its batches (R346). -/
def Instr.copyPort (i : Instr) : List Nat := i.ports.filter (· == 1)

/-- The closing instructions (R27). -/
def Instr.closes : Instr → Bool
  | .atom _ | .red _ | .cas _ | .qenq _ | .qdeq _ | .qrsv _ | .qcmt _ | .qtake _ | .qdone _ | .qinit _
  | .qstat _ | .qclose _ | .bar _ | .barv _ | .barw _ | .gbar | .fence _ | .cp _ | .cpt _ | .seal
  | .stoke _ | .call _ | .ret _ | .fspawn _ | .fend | .exit | .trap _ | .yield | .swr _ | .errinj _
  | .cbnd _ | .cadr _ | .cinc _ | .cprm _ => true
  | .ldc a => match a.data with
    | .creg _ => true
    | .quad _ => false
  | .cmov f => match f with
    | .qc _ _ => false
    | _ => true
  | _ => false

/-- A strand header. -/
def Instr.isHeader : Instr → Bool
  | .strand _ => true
  | _ => false

/-- The float results of R44: destination and type. -/
def Instr.floatDst : Instr → Option Opnd
  | .fadd a | .fsub a | .fmul a | .fma a => some a.dst
  | .faddImm a | .fsubImm a | .fmulImm a | .fmaImm a => some a.dst
  | _ => none

/-- A lane exchange reads the row of its first source in lanes of the group that need not be its batch's: it waits for
every write of the row by any batch of the group (R316). -/
def Instr.exchanges : Instr → Option (Opnd × Nat)
  | .shfl a | .bcast a => some (a.s1, a.ty.regs)
  | _ => none

/-- The instruction issues a `vm` unit (R208). -/
def Instr.isAccess : Instr → Bool
  | .ld _ | .ldc _ | .st _ | .stc _ | .pf _ | .cwb _ | .cinv _ | .atom _ | .red _ | .cas _ => true
  | _ => false

/-- The vector instructions: those of classes 3 to 5 (R402) (log 45, DEDUCED). -/
def Instr.isVector : Instr → Bool
  | .mov _ | .movImm _ | .add _ | .addImm _ | .sub _ | .subImm _ | .mul _ | .mulImm _ | .mulh _ | .mulhImm _
  | .mad _ | .madImm _ | .min _ | .minImm _ | .max _ | .maxImm _ | .abs _ | .neg _ | .and _ | .andImm _ | .or _
  | .orImm _ | .xor _ | .xorImm _ | .not _ | .shl _ | .shlImm _ | .shr _ | .shrImm _ | .sar _ | .sarImm _
  | .bfe _ | .bfeImm _ | .bfi _ | .bfiImm _ | .popc _ | .clz _ | .brev _ | .cmp _ | .cmpImm _ | .sel _
  | .selImm _ | .addc _ | .addcImm _ | .dot4 _ | .dot4Imm _ | .cmul _ | .cmac _ | .fadd _ | .faddImm _
  | .fsub _ | .fsubImm _ | .fmul _ | .fmulImm _ | .fma _ | .fmaImm _ | .fmin _ | .fminImm _ | .fmax _
  | .fmaxImm _ | .fcmp _ | .fcmpImm _ | .frcp _ | .frsq _ | .fsqrt _ | .fexp2 _ | .flog2 _ | .fsin _ | .fcos _
  | .frnd _ | .fclass _ | .fscale _ | .fscaleImm _ | .fdot2 _ | .fdot2Imm _ | .fcmul _ | .cvt _ | .cvtpk _
  | .unpk _ | .tagset _ | .tagget _ | .shfl _ | .bcast _ | .vred _ | .vscan _ => true
  | _ => false

/-- Register destinations with their widths in registers, of the instructions that write them as they issue. -/
def Instr.writes : Instr → List (Opnd × Nat)
  | .kmov a | .kpopc a | .kclz a | .mov a | .abs a | .neg a | .not a | .popc a | .clz a | .brev a
  | .frcp a | .frsq a | .fsqrt a | .fexp2 a | .flog2 a | .fsin a | .fcos a | .frnd a | .fclass a
  | .kadd a | .ksub a | .kmul a | .kmulh a | .kand a | .kor a | .kxor a | .kshl a | .kshr a | .ksar a
  | .kmin a | .kmax a | .ksel a | .kbfe a | .add a | .sub a | .mul a | .mulh a | .min a | .max a
  | .and a | .or a | .xor a | .shl a | .shr a | .sar a | .bfe a | .sel a | .cmul a | .fadd a | .fsub a
  | .fmul a | .fmin a | .fmax a | .fscale a | .fcmul a | .mad a | .bfi a | .dot4 a | .cmac a | .fma a
  | .fdot2 a | .cvt a | .shfl a | .bcast a | .vred a | .vscan a | .tagset a => [(a.dst, a.ty.regs)]
  | .kaddImm a | .ksubImm a | .kmulImm a | .kmulhImm a | .kandImm a | .korImm a | .kxorImm a | .kshlImm a
  | .kshrImm a | .ksarImm a | .kminImm a | .kmaxImm a | .kbfeImm a | .addImm a | .subImm a | .mulImm a
  | .mulhImm a | .minImm a | .maxImm a | .andImm a | .orImm a | .xorImm a | .shlImm a | .shrImm a
  | .sarImm a | .bfeImm a | .faddImm a | .fsubImm a | .fmulImm a | .fminImm a | .fmaxImm a
  | .fscaleImm a | .madImm a | .bfiImm a | .dot4Imm a | .fmaImm a | .fdot2Imm a => [(a.dst, a.ty.regs)]
  | .kselImm a | .selImm a => [(a.dst, a.ty.regs)]
  | .kli a | .ctrrd a | .srd a => [(a.dst, a.ty.regs)]
  | .cvtpk a | .tagget a => [(a.dst, 1)]
  | .addc a => [(a.dst, 2)]
  | .addcImm a => [(a.dst, 2)]
  | .unpk a => [(a.dst, ((Ty.ofCode a.func.toNat).count + a.ty.count - 1) / a.ty.count)]
  | .accrd a => [(a.data, a.ty.regs)]
  | .cget a => [(a.dst, 2)]
  | .tstamp t d => [(d, t.regs)]
  | .cmov f => match f with
    | .qc q _ => [(q, 4)]
    | _ => []
  | _ => []

/-- Opcodes that the Stoker executes (R38) (log 12, DEDUCED). -/
def stokerOpcode (op : Nat) : Bool :=
  op == 0x000 || op == 0x002 || (0x040 ≤ op && op < 0x055) || (0x241 ≤ op && op < 0x250) ||
  (0x1C8 ≤ op && op < 0x1D1) || op == 0x201 || op == 0x203 || (0x205 ≤ op && op < 0x20A)

/-- Opcodes that may not stand in a predicate block, whatever their fields: those of class 0 but for `nop`, and those
that close a strand in every form (R27, R248) (log 12, DEDUCED). -/
def barredOpcode (op : Nat) : Bool :=
  (0 < op && op < 0x040) || (0x189 ≤ op && op < 0x18D) || (0x1C0 ≤ op && op < 0x1D1) ||
  (0x200 ≤ op && op < 0x203) || op == 0x204 || op == 0x283 || op == 0x286

/-- Opcodes of Stoker code only (log 12, DEDUCED). -/
def stokerOnlyOpcode (op : Nat) : Bool := 0x205 ≤ op && op < 0x20A

end Sys2Proof

namespace Sys2Proof.Machine

/-! ## Batches (R16) -/

/-- A batch: its lanes in ascending order, the fibre of the lowest, what keeps the batch from its next issue, and the
cycle of its last issue. -/
structure Batch where
  gid   : Nat
  g     : Group
  lanes : List Nat
  f     : Fibre
  bar   : Option Wait
  age   : Nat
deriving DecidableEq, Repr

/-- A page of a wait is still being walked (R195). -/
def State.walking (s : State) (core part : Nat) (pages : List Nat) : Bool :=
  (s.die (dieOf core)).walks.any fun w => w.part == part && pages.contains w.page

/-- What keeps a fibre from its next issue: nothing once its wait is over. Waits at a `rcv` are one, however long each
has lasted (log 15, DEDUCED). -/
def State.barOf (s : State) (gr : Grid) (g : Group) (x : Nat × Fibre) : Option Wait :=
  match x.2.wait with
  | some (.walk pages) => if s.walking g.core gr.part pages then x.2.wait else none
  | some (.rcv _) => some (.rcv 0)
  | some (.engine cls n) => if s.counter g cls ≤ n then none else x.2.wait
  | some .stoke => if (s.core g.core).stream.isNone then none else x.2.wait
  | w => w

/-- Two fibres agree on whether the generation of the barrier that they wait at has completed (R338). -/
def sameGeneration (bar : Option Wait) (a b : Fibre) : Bool :=
  match bar with
  | some (.barrier i) => a.released.getLsbD i == b.released.getLsbD i
  | _ => true

/-- Two fibres belong to one batch (R17): the same place, strand start and class, and the same wait, for a batch that
waits is at no issue decision (log 15, DEDUCED). -/
def Fibre.joins (a b : Fibre) (bar bar' : Option Wait) : Bool :=
  a.pc == b.pc && a.strand == b.strand && a.handler == b.handler && bar == bar' && sameGeneration bar a b

/-- The lanes of a group whose batch is inside a chain (R17, R24). -/
def Core.apart (k : Core) (gid : Nat) : List (List Nat) :=
  k.slots.filterMap fun x => match x.owner with
    | some (g, ls) => if g == gid && 0 < x.chain then some ls else none
    | none => none

/-- Two lanes are in no such batch, or in the same one. -/
def sameApart (apart : List (List Nat)) (l m : Nat) : Bool :=
  apart.all fun ls => ls.contains l == ls.contains m

/-- A fibre belongs to a batch found so far. -/
def Batch.takes (b : Batch) (apart : List (List Nat)) (bar : Option Wait) (x : Nat × Fibre) : Bool :=
  b.f.joins x.2 b.bar bar && sameApart apart (b.lanes.headD 0) x.1

/-- Put a fibre into the batches found so far (log 15, DEDUCED). -/
def State.joinFibre (s : State) (gr : Grid) (gid : Nat) (g : Group) (apart : List (List Nat)) (bs : List Batch)
    (x : Nat × Fibre) : List Batch :=
  let bar := s.barOf gr g x
  if bs.any fun b => b.takes apart bar x then
    bs.map fun b =>
      if b.takes apart bar x then { b with lanes := b.lanes ++ [x.1], age := max b.age x.2.age } else b
  else bs ++ [{ gid, g, lanes := [x.1], f := x.2, bar, age := x.2.age }]

/-- A fibre waits at a queue's home. -/
def Fibre.atQueue (f : Fibre) : Bool :=
  match f.wait with
  | some (.queue _) | some (.queueRetry _) => true
  | _ => false

/-- The batches of a group that do not wait at a queue: unparked fibres gathered (R17). -/
def State.gather (s : State) (gr : Grid) (gid : Nat) (g : Group) : List Batch :=
  (g.fibres.cells.filter fun x => x.2.parked.isNone && !x.2.atQueue).foldl
    (s.joinFibre gr gid g ((s.core g.core).apart gid)) []

/-- The queue homes where fibres of a group wait. -/
def Group.homes (g : Group) : List Nat :=
  dedup (g.fibres.cells.filterMap fun x => match x.2.wait with
    | some (.queue k) => some k
    | _ => none)

/-- The batches of a group whose queue operations have been served. -/
def State.servedBatches (s : State) (gid : Nat) (g : Group) : List Batch :=
  g.homes.flatMap fun k =>
    ((s.queue k).served.filter fun w => w.party == .group gid).filterMap fun w =>
      (g.fibres.find? (w.active.headD 0)).map fun f =>
        { gid, g, lanes := w.active, f, bar := none, age := f.age }

/-- The lanes in which a predicate block lets an instruction take effect (R248). -/
def Group.effective (g : Group) (ls : List Nat) : List Nat :=
  ls.filter fun l => (g.fibres.find? l).elim false fun f =>
    f.block.elim true fun b => b.g == b.pattern.getLsbD 0

/-! ## Readiness -/

/-- What a batch waits for has come. -/
def Batch.waitOver (b : Batch) : Bool :=
  match b.bar with
  | none => true
  | some (.rcv _) => b.g.rcvMet b.f.pc b.f.handler b.lanes
  | some (.barrier i) => b.f.released.getLsbD i
  | some _ => false

/-- The registers of a lane that a source operand reads. -/
def regsOf (f : Fibre) (x : Opnd × Nat) : List Reg :=
  match x.1 with
  | .v r => (List.range x.2).map fun j => .v (f.wbase.toNat + r + j)
  | .n r => (List.range x.2).map fun j => .n (r + j)
  | .u r => (List.range x.2).map fun j => .k (r + j)
  | _ => []

/-- A write of a register in some lanes is outstanding: a load in flight, or a float result that is not ready
yet (R41, R44) (log 13, DEDUCED). -/
def Group.late (g : Group) (now : Nat) (r : Reg) (ls : List Nat) : Bool :=
  g.outstanding r ls ||
  g.busy.any fun x => x.reg == r && now < x.ready &&
    (x.lanes.any ls.contains || match r with | .k _ => true | _ => false)

/-- No source operand of the instruction has a write outstanding. -/
def State.operandsReady (s : State) (b : Batch) (i : Instr) : Bool :=
  let now := s.cyclesOf b.g.core
  b.lanes.all fun l => match b.g.fibres.find? l with
    | some f =>
      (i.reads.all fun x => (regsOf f x).all fun r => !b.g.late now r [l]) &&
      i.exchanges.all fun x => (regsOf f x).all fun r => !b.g.late now r (List.range b.g.width)
    | none => false

/-- Every counter of a group is at most 63. -/
def Group.inRange (g : Group) : Bool :=
  g.vm.length ≤ 63 && g.ci.length ≤ 63 && g.co.length ≤ 63 && g.fx.length ≤ 63

/-- No counter of a group stands at 63. -/
def Group.hasRoom (g : Group) : Bool :=
  g.vm.length < 63 && g.ci.length < 63 && g.co.length < 63 && g.fx.length < 63

/-- An instruction leaves the counters of a group at 63 or below. -/
def Result.inRange (gid : Nat) : Result → Bool
  | .next t => (t.groups.find? gid).all Group.inRange
  | _ => true

/-- The instruction raises no counter above 63 (R208): an access issues one unit, and a copy joins a batch or begins
one, as its operands have it (log 13, DEDUCED). -/
def State.countersAllow (s : State) (is : Issue) (gid : Nat) (g : Group) (i : Instr) : Bool :=
  let now : State := { s with issue := some is }
  match i with
  | .cp a => (execCp a now).inRange gid
  | .cpt a => (execCpt a now).inRange gid
  | i => !i.isAccess || g.vm.length < 63

/-- The issue that a batch would make. -/
def Batch.issue (b : Batch) (slot : Nat) (w : Dword) : Issue :=
  { party := .group b.gid, lanes := b.lanes, eff := b.g.effective b.lanes, slot, pc := b.f.pc, word := w }

/-- The word that a batch stands at, where it can be fetched now. -/
def State.wordOf (s : State) (gr : Grid) (b : Batch) : Option Dword :=
  match s.fetch b.g.core gr (b.g.walksFor b.lanes) b.f.pc with
  | .ok w => some w
  | .error _ => none

/-- The instruction that a batch stands at, where it can be fetched now. -/
def State.instrOf (s : State) (gr : Grid) (b : Batch) : Option Instr :=
  (s.wordOf gr b).bind fun w => match decode w with
    | .ok i => some i
    | .error _ => none

/-- A source operand of the instruction that a batch stands at has a write outstanding: the batch stalls on it (R24,
R41). -/
def State.stallsOnOperand (s : State) (gr : Grid) (b : Batch) : Bool :=
  (s.instrOf gr b).any fun i => !s.operandsReady b i

/-- The instruction that a batch stands at finds its operands and its counters ready. -/
def State.instrReady (s : State) (gr : Grid) (b : Batch) : Bool :=
  match s.wordOf gr b, s.instrOf gr b with
  | some w, some i =>
    s.operandsReady b i && (b.g.hasRoom || s.countersAllow (b.issue 0 w) b.gid b.g i)
  | _, _ => true

/-- A polite request holds a batch at its header (R231). -/
def State.heldPolitely (s : State) (t : Team) (gr : Grid) (b : Batch) : Bool :=
  gr.polite t && s.atHeader b.g.core gr b.f

/-- A batch may issue as far as its group and its context go: the group is active, or the batch completes a
closing instruction that it is blocked in (R34, R35). -/
def State.mayRun (s : State) (t : Team) (gr : Grid) (b : Batch) : Bool :=
  t.kill.isNone && !s.heldPolitely t gr b && (b.g.active || b.f.blocked)

/-- A batch is ready (R41). -/
def State.ready (s : State) (t : Team) (gr : Grid) (b : Batch) : Bool :=
  s.mayRun t gr b && b.waitOver && s.instrReady gr b

/-! ## The batches of a core -/

/-- A batch with the team and grid of its group. -/
structure Runner where
  b  : Batch
  t  : Team
  gr : Grid
deriving DecidableEq, Repr

/-- The batches of a group. -/
def State.runnersOf (s : State) (gid : Nat) (g : Group) : List Runner :=
  match s.owners g with
  | none => []
  | some (t, gr) =>
    (s.gather gr gid g ++ s.servedBatches gid g).map fun b => { b, t, gr }

/-- The batches on a core. -/
def State.runners (s : State) (core : Nat) : List Runner :=
  (s.groupsOn core).flatMap fun (i, g) => s.runnersOf i g

/-! ## The end of a yield and of a sleep (R272, R363) -/

/-- No batch on the core is ready but those that have some of the lanes. -/
def State.othersIdle (s : State) (core gid : Nat) (ls : List Nat) : Bool :=
  (s.runners core).all fun r =>
    (r.b.gid == gid && r.b.lanes.any ls.contains) || !s.ready r.t r.gr r.b

/-- YIELD_EXPIRY: 64 cycles have passed, or no other batch on the core is ready (R272). -/
def execYieldExpiry (gid : Nat) (ls : List Nat) (s : State) : Result :=
  match s.groups.find? gid with
  | none => notNow "YIELD_EXPIRY"
  | some g =>
    let now := s.cyclesOf g.core
    if g.waiters ls (fun w => match w with
        | .yielded n => n ≤ now || s.othersIdle g.core gid ls
        | _ => false) then
      .next (s.setGroup gid (g.modFibres ls fun _ f => { f with wait := none }))
    else notNow "YIELD_EXPIRY"

/-- A header stands ahead of a place, straight on in the code or beyond a branch; none where the fibre ends first. -/
def State.headerAhead (s : State) (core : Nat) (gr : Grid) : Nat → Addr → Bool
  | 0, _ => false
  | n + 1, pc => match (s.peek core gr pc).map decode with
    | some (.ok i) => match i with
      | .exit | .fend => false
      | .strand _ | .bra .. | .brx .. | .call .. | .ret .. => true
      | _ => s.headerAhead core gr n (pc + 8)
    | _ => true

/-- A sleep is over: its time has passed; under a polite request the batch wakes to go on to its next header, and one
without a header ahead of it stays where it is until the cut (R363, R419) (log 69, DEDUCED). -/
def State.sleepOver (s : State) (g : Group) (f : Fibre) (time : Nat) : Bool :=
  match s.owners g with
  | some (t, gr) =>
    if gr.polite t then s.headerAhead g.core gr ((gr.kernel.code.limit - f.pc.toNat) / 8 + 1) f.pc
    else time ≤ s.time
  | none => false

/-- SLEEP_EXPIRY (R363). -/
def execSleepExpiry (gid : Nat) (ls : List Nat) (s : State) : Result :=
  match s.groups.find? gid with
  | none => notNow "SLEEP_EXPIRY"
  | some g =>
    if !ls.isEmpty && ls.all fun l => (g.fibres.find? l).elim false fun f =>
        f.parked.isNone && match f.wait with
          | some (.sleeping time) => s.sleepOver g f time
          | _ => false then
      .next (s.setGroup gid (g.modFibres ls fun _ f => { f with wait := none }))
    else notNow "SLEEP_EXPIRY"

end Sys2Proof.Machine
end

