-- ==== Sys2Proof/Machine/CapInstr.lean ====
section
/-! DEFINITION. Class 6, second part: capability instructions (R326 to R331). -/

namespace Sys2Proof.Machine

/-! ## Uniform operands (R326) -/

/-- A value operand of `n` registers is k or ZERO. -/
def Ctx.capOpOk (c : Ctx) (l : Nat) (o : Opnd) (n field : Nat) : Except Stop Unit :=
  require (o.isUniform && c.inBounds l o n) (badOperand field)

/-- A value operand: poison is an address element's, and is consumed. -/
def Ctx.capOp (c : Ctx) (l : Nat) (o : Opnd) (n field : Nat) : Except Stop Dword := do
  let x ← c.read l o n field 0
  require (!x.poison) { code := 0x0E, detail := 1, operand := field, observed := x.poisoned }
  return x.value

/-- An instruction that writes a c register from another and from uniform operands; it closes its
strand. -/
def capStep (s : State) (cd cs : BitVec 4) (ops : List (Opnd × Nat × Nat)) (f : Cap → List Dword → Cap) :
    Result :=
  groupOnly s .closing
    (fun c l => do
      ops.forM fun (o, n, field) => c.capOpOk l o n field
      let xs ← ops.mapM fun (o, n, field) => c.capOp l o n field
      return f (c.g.cap cs) xs)
    (fun c rs s => match rs with
      | (_, k) :: _ => s.modGroup c.gid fun g => g.setCap cd k
      | [] => s)

/-! ## cbnd (R327) -/

/-- The smallest exponent whose region holds the request, with its base and mantissa. -/
def boundsOf (base len : Nat) : Option (Nat × Nat × Nat) :=
  (List.range 45).findSome? fun e =>
    let al := 2 ^ max e 2
    let lo := base / al * al
    let hi := (base + len + 2 ^ e - 1) / 2 ^ e * 2 ^ e
    if hi - lo ≤ 256 * 2 ^ e then some (e, (hi - lo) / 2 ^ e - 1, lo) else none

/-- The capability that `cbnd` writes. -/
def Cap.bound (c : Cap) (base len : Nat) : Cap :=
  let w0 : Dword := BitVec.ofNat 64 (c.w0.toNat / 2 ^ 52 * 2 ^ 52 + base % 2 ^ 52)
  if len = 0 ∨ 2 ^ 52 < base + len then { c with w0 := w0, tag := false }
  else match boundsOf base len with
    | some (e, m, lo) => c.derive { w0, w1 := capWord1 e m lo, tag := c.tag }
    | none => { c with w0 := w0, tag := false }

/-- `cbnd` (R327). -/
def execCbnd (a : CbndArgs) (s : State) : Result :=
  capStep s a.cd a.cs [(a.base, 2, fS1), (a.len, 2, fS2)] fun c xs =>
    c.bound (xs.getD 0 0).toNat (xs.getD 1 0).toNat

/-! ## cadr, cinc, cprm (R328) -/

/-- `cadr` (R328). -/
def execCadr (a : CopArgs) (s : State) : Result :=
  capStep s a.cd a.cs [(a.s1, 2, fS1)] fun c xs => c.withCursor (xs.getD 0 0).toNat

/-- `cinc` (R328). -/
def execCinc (a : CopArgs) (s : State) : Result :=
  capStep s a.cd a.cs [(a.s1, 2, fS1)] fun c xs => c.withCursor ((c.cursor : Int) + (xs.getD 0 0).toInt)

/-- The permissions of a capability cut down by a mask. -/
def Cap.mask (c : Cap) (m : Nat) : Cap :=
  let p := Nat.land c.perms (m % 128)
  { c with w0 := BitVec.ofNat 64 (c.w0.toNat / 2 ^ 59 * 2 ^ 59 + p * 2 ^ 52 + c.cursor) }

/-- `cprm` (R328). -/
def execCprm (a : CopArgs) (s : State) : Result :=
  capStep s a.cd a.cs [(a.s1, 1, fS1)] fun c xs => c.mask (xs.getD 0 0).toNat

/-! ## cmov (R329) -/

/-- `cmov cD, cS`. -/
def cmovCC (cd cs : BitVec 4) (s : State) : Result := capStep s cd cs [] fun c _ => c

/-- `cmov cD, vQ`: the quad lane of the lowest active lane; a poisoned row leaves the tag behind (log 29,
DEDUCED). -/
def cmovCQ (cd : BitVec 4) (q : Opnd) (s : State) : Result :=
  groupOnly s .closing
    (fun c l => do
      c.quadOk l q fS1
      return c.reg l q)
    (fun c rs s => match rs with
      | (l, .v row) :: _ =>
        let (k, poison) := c.g.quadCap row l
        s.modGroup c.gid fun g => g.setCap cd { k with tag := k.tag && !poison }
      | _ => s)

/-- Write a capability into a quad lane, with its tag (R82); the rows are tagged b32. -/
def Group.writeQuad (g : Group) (row l : Nat) (k : Cap) : Group :=
  let regs := (List.range 4).map fun j => Reg.v (row + j)
  let g := (regs.zip k.words).foldl (fun g (r, w) =>
    g.write r l { bits := w, poison := false } (Tag.of .b32)) (g.landRegs regs)
  { g with quads := nset k.tag (row * 64 + l) g.quads }

/-- `cmov vQ, cS`: every active lane of the quad; it does not close its strand. -/
def cmovQC (q : Opnd) (cs : BitVec 4) (s : State) : Result :=
  groupOnly s .plain
    (fun c l => do
      c.quadOk l q fDst
      c.survivor l q 4
      return c.reg l q)
    (fun c rs s => s.modGroup c.gid fun g =>
      rs.foldl (fun g (l, r) => match r with
        | .v row => g.writeQuad row l (c.g.cap cs)
        | _ => g) g)

/-- `cmov` (R329). -/
def execCmov (f : CmovForm) (s : State) : Result :=
  match f with
  | .cc cd cs => cmovCC cd cs s
  | .cq cd q => cmovCQ cd q s
  | .qc q cs => cmovQC q cs s

/-! ## cget (R330) -/

/-- The type of a field. -/
def fieldType (sel : BitVec 4) : Ty :=
  match sel.toNat with
  | 0 | 1 | 2 => .n64
  | 3 | 4 | 5 => .n32
  | 8 => .s64
  | _ => .b64

/-- The value of a field. -/
def Cap.field (c : Cap) (sel : BitVec 4) : Dword :=
  match sel.toNat with
  | 0 => BitVec.ofNat 64 c.cursor
  | 1 => BitVec.ofNat 64 c.base
  | 2 => BitVec.ofNat 64 c.length
  | 3 => BitVec.ofNat 64 c.perms
  | 4 => BitVec.ofNat 64 c.space
  | 5 => if c.tag then 1 else 0
  | 6 => c.w0
  | 7 => c.w1
  | _ => BitVec.ofInt 64 ((c.cursor : Int) - c.base)

/-- `cget` (R330). -/
def execCget (a : CgetArgs) (s : State) : Result :=
  let t := fieldType a.sel
  groupOnly s .plain
    (fun c l => do
      c.vnkOk l a.dst t.regs
      c.survivor l a.dst t.regs
      return VRes.of t ((c.g.cap a.cs).field a.sel) false (Tag.of t))
    (fun c rs s => c.writeOnly a.dst rs s)

/-! ## ctst (R331) -/

/-- The test that a later access would make. -/
def Cap.test (c : Cap) (sel : BitVec 4) (x : Nat) : Bool :=
  c.tag && match sel.toNat with
    | 0 => true
    | 1 => c.base ≤ c.cursor && c.cursor + x ≤ c.limit
    | _ => c.perms &&& (x % 128) == x % 128

/-- The x operand in a lane. -/
def Ctx.testOp (c : Ctx) (a : CtstArgs) (l : Nat) : Except Stop Nat := do
  let x ← c.source l { o := a.x, ty := .n32, field := fS1, loose := true } 0
  require (!x.poison) { code := 0x0E, detail := 1, operand := fS1, observed := x.poisoned }
  return x.low.bits.toNat

/-- `ctst` (R331). -/
def execCtst (a : CtstArgs) (s : State) : Result :=
  groupOnly s .plain
    (fun c l => do
      c.vnkOk l a.dst 1
      require (a.sel == 0 || match a.x with
        | .b _ | .imm | .res _ => false
        | o => c.inBounds l o 1) (badOperand fS1)
      c.survivor l a.dst 1
      let x ← if a.sel = 0 then pure 0 else c.testOp a l
      let b := (c.g.cap a.cs).test a.sel x
      return VRes.one (if b then 1 else 0) false (Tag.of .n32))
    (fun c rs s => c.writeOnly a.dst rs s)

end Sys2Proof.Machine
end

