-- ==== Sys2Proof/Machine/Approx.lean ====
section
/-! DEFINITION. Square roots (R304), and the approximating functions: the exact value to far more bits than
a result holds, the range of f32 results that the error bound admits, and the one of them that the device
returns, which is a free value (log 2). -/

namespace Sys2Proof.Machine

/-! ## Integer square roots -/

/-- The bits of a root, from the highest down. -/
def isqrtBits : Nat → Nat → Nat → Nat
  | 0, r, _ => r
  | b + 1, r, n => if (r + 2 ^ b) * (r + 2 ^ b) ≤ n then isqrtBits b (r + 2 ^ b) n else isqrtBits b r n

/-- The largest integer whose square is not above the number. -/
def isqrt (n : Nat) : Nat := isqrtBits (Nat.log2 n / 2 + 1) 0 n

/-- The square root of a positive value: enough bits, and a last bit that stands for the rest, so that one
rounding of it is the rounding of the exact root. -/
def sqrtNum (m : Nat) (e : Int) : ExactNum :=
  let (m, e) := if e % 2 = 0 then (m, e) else (2 * m, e - 1)
  let r := isqrt (m * 2 ^ 128)
  .fin (2 * r + (if r * r = m * 2 ^ 128 then 0 else 1)) ((e - 128) / 2 - 1)

/-- `fsqrt` before its rounding (R304). -/
def fsqrtOf : ExactNum → ExactNum
  | .zero s => .zero s
  | .inf false => .inf false
  | .fin m e => if m < 0 then .nan else sqrtNum m.toNat e
  | _ => .nan

/-! ## Values of the functions -/

/-- Bits after the point in the values below. -/
def apxBits : Nat := 256

/-- 1/a for a = m × 2^e. -/
def recipOf (m : Nat) (e : Int) : ExactNum :=
  let p := apxBits + Nat.log2 m
  .fin (2 ^ p / m : Nat) (-e - p)

/-- 1/√a. -/
def rsqrtOf (m : Nat) (e : Int) : ExactNum :=
  let (m, e) := if e % 2 = 0 then (m, e) else (2 * m, e - 1)
  let p := apxBits + Nat.log2 m
  .fin (isqrt (2 ^ (2 * p) / m) : Nat) (-(e / 2) - p)

/-- 2^f for the fraction f whose bits below the point are the low `n` bits of `x`, as a number with
`apxBits` bits after the point; `root` is 2^(1/2) to the power that the next bit stands for. -/
def exp2Bits : (n x root acc : Nat) → Nat
  | 0, _, _, acc => acc
  | n + 1, x, root, acc =>
    let root := isqrt (root * 2 ^ apxBits)
    exp2Bits n x root (if x.testBit n then acc * root / 2 ^ apxBits else acc)

/-- 2^a; arguments are limited to ±200, beyond which every result overflows or is below all bounds. -/
def exp2Of (m e : Int) : ExactNum :=
  let big : Bool := 0 ≤ e && (200 ≤ m.natAbs * 2 ^ min e.toNat 8)
  let x : Int := if 0 ≤ e then m * 2 ^ (min e.toNat 8) * 2 ^ apxBits
    else m * 2 ^ apxBits / 2 ^ (-e).toNat
  let x : Int := if big then (if m < 0 then -200 else 200) * 2 ^ apxBits
    else max (-(200 * 2 ^ apxBits)) (min (200 * 2 ^ apxBits) x)
  let n : Int := x / 2 ^ apxBits
  .fin (exp2Bits apxBits (x - n * 2 ^ apxBits).toNat (2 * 2 ^ apxBits) (2 ^ apxBits) : Nat)
    (n - apxBits)

/-- Bits of the logarithm of y in [1, 2), y with `apxBits` bits after the point. -/
def log2Bits : (n y acc : Nat) → Nat
  | 0, _, acc => acc
  | n + 1, y, acc =>
    let y := y * y / 2 ^ apxBits
    if 2 * 2 ^ apxBits ≤ y then log2Bits n (y / 2) (2 * acc + 1) else log2Bits n y (2 * acc)

/-- log2 a. -/
def log2Of (m : Nat) (e : Int) : ExactNum :=
  let k := Nat.log2 m
  ExactNum.of ((e + k) * 2 ^ 96 + log2Bits 96 (m * 2 ^ apxBits / 2 ^ k) 0) (-96)

/-- ⌊π/2 × 2^448⌋. -/
def halfPi : Nat :=
  0x1921fb54442d18469898cc51701b839a252049c1114cf98e804177d4c76273644a29410f31c6809bbdf2a33679a748636605614dbe4be286e

/-- The series of sine (`k` = 1) or cosine (`k` = 0) from a term on, at 2^-448: term, then the sum. -/
def trigSeries : (fuel k : Nat) → (r term : Int) → Int
  | 0, _, _, _ => 0
  | n + 1, k, r, term =>
    term + trigSeries n (k + 2) r (-(term * r / 2 ^ 448 * r / 2 ^ 448 / ((k + 1) * (k + 2))))

/-- sin (a + q₀ × π/2) for a = m × 2^e: the argument is reduced exactly. -/
def sinOf (m e : Int) (q0 : Nat) : ExactNum :=
  let x : Int := if -448 ≤ e then m * 2 ^ (e + 448).toNat else m / 2 ^ (-(e + 448)).toNat
  let q := x / halfPi
  let r := x - q * halfPi
  let k := ((q + q0) % 4).toNat
  let v := if k % 2 = 0 then trigSeries 80 1 r r else trigSeries 80 0 r (2 ^ 448)
  ExactNum.of (if 2 ≤ k then -v else v) (-448)

/-! ## Ranges of results -/

/-- f32 codes in the order of their values. -/
def rankF32 (c : Nat) : Nat := if c < 2 ^ 31 then 2 ^ 31 + c else 2 ^ 32 - 1 - c
def unrankF32 (r : Nat) : Nat := if 2 ^ 31 ≤ r then r - 2 ^ 31 else 2 ^ 32 - 1 - r

/-- Exponent of an ulp of f32 at a value (R304). -/
def ulpExp : ExactNum → Int
  | .fin m e => max (e + Nat.log2 m.natAbs - 23) (-149)
  | _ => -149

/-- The lowest and the highest f32 result within m × 2^e of a value: an infinity stands where the value with its error
reaches 2^128 in magnitude. -/
def resultRange (v : ExactNum) (m e : Int) : Nat × Nat :=
  let low := ExactNum.add false v (ExactNum.of (-m) e)
  let lo := if ExactNum.le low (.fin (-1) 128) then infCode .f32 + signBit .f32 true
    else roundFloat .f32 .ru false low
  let top := ExactNum.add false v (ExactNum.of m e)
  let hi := if ExactNum.le (.fin 1 128) top then infCode .f32 else roundFloat .f32 .rd false top
  (rankF32 lo, rankF32 hi)

/-- The result that the device returns (log 2, DESIGN CHOICE). -/
def pickResult (fn x : Nat) (r : Nat × Nat) : Nat :=
  unrankF32 (r.1 + Config.approx fn (BitVec.ofNat 32 x) % (r.2 - r.1 + 1))

/-- The approximating functions (R304). -/
inductive Approx where
  | rcp | rsq | exp2 | log2 | sin | cos
deriving DecidableEq, Repr

def Approx.code : Approx → Nat
  | .rcp => 0 | .rsq => 1 | .exp2 => 2 | .log2 => 3 | .sin => 4 | .cos => 5

/-- The f32 result for an f32 code, before SAT. -/
def approxF32 (fn : Approx) (x : Nat) : Nat :=
  let ulps := fun (n : Int) (v : ExactNum) => pickResult fn.code x (resultRange v n (ulpExp v))
  let within := fun (v : ExactNum) => pickResult fn.code x (resultRange v 1 (-22))
  let sign := signBit .f32
  match fn, floatOf .f32 x with
  | _, .nan => canonNan .f32
  | .rcp, .zero s => infCode .f32 + sign s
  | .rcp, .inf s => sign s
  | .rcp, .fin m e =>
    ulps 1 (if m < 0 then (recipOf m.natAbs e).neg else recipOf m.natAbs e)
  | .rsq, .zero s => infCode .f32 + sign s
  | .rsq, .inf s => if s then canonNan .f32 else 0
  | .rsq, .fin m e => if m < 0 then canonNan .f32 else ulps 1 (rsqrtOf m.toNat e)
  | .exp2, .zero _ => ulps 2 (.fin 1 0)
  | .exp2, .inf s => if s then 0 else infCode .f32
  | .exp2, .fin m e => ulps 2 (exp2Of m e)
  | .log2, .zero _ => infCode .f32 + sign true
  | .log2, .inf s => if s then canonNan .f32 else infCode .f32
  | .log2, .fin m e =>
    if m < 0 then canonNan .f32
    else if x = 0x3F800000 then 0
    else if ExactNum.le (.fin 1 (-1)) (.fin m e) && ExactNum.le (.fin m e) (.fin 1 1) then within (log2Of m.toNat e)
    else ulps 2 (log2Of m.toNat e)
  | .sin, .zero s => sign s
  | .cos, .zero _ => 0x3F800000
  | .sin, .inf _ | .cos, .inf _ => canonNan .f32
  | .sin, .fin m e => within (sinOf m e 0)
  | .cos, .fin m e => within (sinOf m e 1)

/-- The result for an element of a type: the f32 result for the widened input, rounded RNE to the type;
SAT applies to finite results beyond the range (R304, R54). -/
def approxElem (fn : Approx) (t : Ty) (sat : Bool) (x : Nat) : Nat :=
  let v := floatOf t x
  let wide := roundFloat .f32 .rne false v
  let y := approxF32 fn wide
  let finite : Bool := match fn, v with
    | .rcp, .zero _ | .rsq, .zero _ | .log2, .zero _ => false
    | _, .fin _ _ => true
    | _, _ => false
  let y := if sat && finite && y % 2 ^ 31 = infCode .f32 then maxFinite .f32 + (y / 2 ^ 31) * 2 ^ 31 else y
  if t = .f32 then y
  else match floatOf .f32 y with
    | .inf s => infCode t + signBit t s
    | w => roundFloat t .rne sat w

end Sys2Proof.Machine
end

