-- ==== Sys2Proof/Machine/VecInt.lean ====
section
/-! DEFINITION. Class 3: vector integer instructions, with the moves, the compares and the selects (R293
to R301). -/

namespace Sys2Proof.Machine

/-! ## The course of a vector instruction (R293, R294) -/

/-- A vector instruction with a register or latch destination of `dn` registers. -/
def vecStep (s : State) (dst : Opnd) (dn : Nat) (imm : Option (BitVec 16)) (qs : List SrcReq)
    (f : Ctx → Nat → List Src → Except Stop VRes) : Result :=
  groupOnly s .plain
    (fun c l => do f c l (← c.sources l dst dn imm qs))
    (fun c rs s => c.writeVec dst rs s) (shiftIdle dn)

/-- A source of a class 3 instruction: untyped data is admitted (R60), its scale is judged (R61). -/
def intSrc (o : Opnd) (ty : Ty) (field : Nat) : SrcReq := { o, ty, field, loose := true, scaled := true }

/-- The tag of a class 3 result (R61). -/
def intTag (ty : Ty) (xs : List Src) : Tag :=
  { Tag.of ty with scale := if xs.any Src.nanScale then 255 else 127 }

/-- Elements of some sources at one position. -/
def column (ty : Ty) (xs : List Src) (i : Nat) : List Nat := xs.map fun x => (elems ty x.value).getD i 0

/-- An operation on every element position (R294). -/
def intLane (ty : Ty) (f : List Nat → Nat) (xs : List Src) : VRes :=
  VRes.of ty (packElems ty ((List.range ty.count).map fun i => f (column ty xs i)))
    (xs.any Src.poison) (intTag ty xs)

/-- A class 3 instruction that works element by element. -/
def intStep (s : State) (ty : Ty) (dst : Opnd) (imm : Option (BitVec 16)) (qs : List SrcReq)
    (f : List Nat → Nat) : Result :=
  vecStep s dst ty.regs imm qs fun _ _ xs => .ok (intLane ty f xs)

def int1Step (s : State) (a : VArgs) (f : Nat → Nat) : Result :=
  intStep s a.ty a.dst none [intSrc a.s1 a.ty fS1] fun xs => f (xs.getD 0 0)

def int2Step (s : State) (a : VArgs) (f : Nat → Nat → Nat) : Result :=
  intStep s a.ty a.dst none [intSrc a.s1 a.ty fS1, intSrc a.s2 a.ty fS2]
    fun xs => f (xs.getD 0 0) (xs.getD 1 0)

def int2ImmStep (s : State) (a : VIArgs) (f : Nat → Nat → Nat) : Result :=
  intStep s a.ty a.dst (some a.imm) [intSrc a.s1 a.ty fS1, intSrc .imm a.ty fImm]
    fun xs => f (xs.getD 0 0) (xs.getD 1 0)

/-! ## Element operations (R295, R296) -/

def vAdd (t : Ty) (sat : Bool) (x y : Nat) : Nat := intResult t sat (intOf t x + intOf t y)
def vSub (t : Ty) (sat : Bool) (x y : Nat) : Nat := intResult t sat (intOf t x - intOf t y)
def vMul (t : Ty) (sat : Bool) (x y : Nat) : Nat := intResult t sat (intOf t x * intOf t y)

/-- High half of the exact product. -/
def vMulh (t : Ty) (x y : Nat) : Nat := wrap (elemBits t) (intOf t x * intOf t y / 2 ^ elemBits t)

/-- Product and sum with one wrap or one clamp. -/
def vMad (t : Ty) (sat : Bool) (x y z : Nat) : Nat :=
  intResult t sat (intOf t x * intOf t y + intOf t z)

def vMin (t : Ty) (x y : Nat) : Nat := if intOf t x ≤ intOf t y then x else y
def vMax (t : Ty) (x y : Nat) : Nat := if intOf t x ≤ intOf t y then y else x
def vAbs (t : Ty) (sat : Bool) (x : Nat) : Nat := intResult t sat (intOf t x).natAbs
def vNeg (t : Ty) (sat : Bool) (x : Nat) : Nat := intResult t sat (-(intOf t x))
def vNot (t : Ty) (x : Nat) : Nat := 2 ^ elemBits t - 1 - x

/-- Shift left by the whole count, read as unsigned. -/
def vShl (t : Ty) (x y : Nat) : Nat := if elemBits t ≤ y then 0 else x * 2 ^ y % 2 ^ elemBits t
def vShr (t : Ty) (x y : Nat) : Nat := if elemBits t ≤ y then 0 else x / 2 ^ y
def vSar (t : Ty) (x y : Nat) : Nat :=
  wrap (elemBits t) (toInt true (elemBits t) x / 2 ^ min y (elemBits t))

/-! ## mov (R295) -/

/-- `mov`: bits, poison and tag whole, scale included, also bits 31:30 of an l6 element (log 76, DEDUCED). -/
def movStep (s : State) (ty : Ty) (dst : Opnd) (imm : Option (BitVec 16)) (q : SrcReq) : Result :=
  vecStep s dst ty.regs imm [q] fun _ _ xs =>
    match xs with
    | x :: _ => .ok { elems := x.elems, tag := x.tagAs ty, hiTag := x.hiTag }
    | [] => raise (badOperand fS1)

/-- `mov` (R295). -/
def execMov (a : VArgs) (s : State) : Result :=
  movStep s a.ty a.dst none { o := a.s1, ty := a.ty, field := fS1, loose := true }

/-- `mov` of an immediate (R295). -/
def execMovImm (a : VIArgs) (s : State) : Result :=
  movStep s a.ty a.dst (some a.imm) { o := .imm, ty := a.ty, field := fImm }

/-! ## Arithmetic and logic (R295) -/

/-- `add` (R295). -/
def execAdd (a : VArgs) (s : State) : Result := int2Step s a (vAdd a.ty a.sat)

/-- `add` with an immediate (R295). -/
def execAddImm (a : VIArgs) (s : State) : Result := int2ImmStep s a (vAdd a.ty a.sat)

/-- `sub` (R295). -/
def execSub (a : VArgs) (s : State) : Result := int2Step s a (vSub a.ty a.sat)

/-- `sub` with an immediate (R295). -/
def execSubImm (a : VIArgs) (s : State) : Result := int2ImmStep s a (vSub a.ty a.sat)

/-- `mul` (R295). -/
def execMul (a : VArgs) (s : State) : Result := int2Step s a (vMul a.ty a.sat)

/-- `mul` with an immediate (R295). -/
def execMulImm (a : VIArgs) (s : State) : Result := int2ImmStep s a (vMul a.ty a.sat)

/-- `mulh` (R295). -/
def execMulh (a : VArgs) (s : State) : Result := int2Step s a (vMulh a.ty)

/-- `mulh` with an immediate (R295). -/
def execMulhImm (a : VIArgs) (s : State) : Result := int2ImmStep s a (vMulh a.ty)

/-- `mad` (R295). -/
def execMad (a : VArgs) (s : State) : Result :=
  intStep s a.ty a.dst none [intSrc a.s1 a.ty fS1, intSrc a.s2 a.ty fS2, intSrc a.s3 a.ty fS3]
    fun xs => vMad a.ty a.sat (xs.getD 0 0) (xs.getD 1 0) (xs.getD 2 0)

/-- `mad` with an immediate (R295). -/
def execMadImm (a : VIArgs) (s : State) : Result :=
  intStep s a.ty a.dst (some a.imm) [intSrc a.s1 a.ty fS1, intSrc a.s2 a.ty fS2, intSrc .imm a.ty fImm]
    fun xs => vMad a.ty a.sat (xs.getD 0 0) (xs.getD 1 0) (xs.getD 2 0)

/-- `min` (R295). -/
def execMin (a : VArgs) (s : State) : Result := int2Step s a (vMin a.ty)

/-- `min` with an immediate (R295). -/
def execMinImm (a : VIArgs) (s : State) : Result := int2ImmStep s a (vMin a.ty)

/-- `max` (R295). -/
def execMax (a : VArgs) (s : State) : Result := int2Step s a (vMax a.ty)

/-- `max` with an immediate (R295). -/
def execMaxImm (a : VIArgs) (s : State) : Result := int2ImmStep s a (vMax a.ty)

/-- `abs` (R295). -/
def execAbs (a : VArgs) (s : State) : Result := int1Step s a (vAbs a.ty a.sat)

/-- `neg` (R295). -/
def execNeg (a : VArgs) (s : State) : Result := int1Step s a (vNeg a.ty a.sat)

/-- `and` (R295). -/
def execAnd (a : VArgs) (s : State) : Result := int2Step s a Nat.land

/-- `and` with an immediate (R295). -/
def execAndImm (a : VIArgs) (s : State) : Result := int2ImmStep s a Nat.land

/-- `or` (R295). -/
def execOr (a : VArgs) (s : State) : Result := int2Step s a Nat.lor

/-- `or` with an immediate (R295). -/
def execOrImm (a : VIArgs) (s : State) : Result := int2ImmStep s a Nat.lor

/-- `xor` (R295). -/
def execXor (a : VArgs) (s : State) : Result := int2Step s a Nat.xor

/-- `xor` with an immediate (R295). -/
def execXorImm (a : VIArgs) (s : State) : Result := int2ImmStep s a Nat.xor

/-- `not` (R295). -/
def execNot (a : VArgs) (s : State) : Result := int1Step s a (vNot a.ty)

/-- `popc` (R295). -/
def execPopc (a : VArgs) (s : State) : Result := int1Step s a (popCount (elemBits a.ty))

/-- `clz` (R295). -/
def execClz (a : VArgs) (s : State) : Result := int1Step s a (leadingZeros (elemBits a.ty))

/-- `brev` (R295). -/
def execBrev (a : VArgs) (s : State) : Result := int1Step s a (bitReverse (elemBits a.ty))

/-! ## Shifts and bit fields (R296) -/

/-- `shl` (R296). -/
def execShl (a : VArgs) (s : State) : Result := int2Step s a (vShl a.ty)

/-- `shl` with an immediate (R296). -/
def execShlImm (a : VIArgs) (s : State) : Result := int2ImmStep s a (vShl a.ty)

/-- `shr` (R296). -/
def execShr (a : VArgs) (s : State) : Result := int2Step s a (vShr a.ty)

/-- `shr` with an immediate (R296). -/
def execShrImm (a : VIArgs) (s : State) : Result := int2ImmStep s a (vShr a.ty)

/-- `sar` (R296). -/
def execSar (a : VArgs) (s : State) : Result := int2Step s a (vSar a.ty)

/-- `sar` with an immediate (R296). -/
def execSarImm (a : VIArgs) (s : State) : Result := int2ImmStep s a (vSar a.ty)

/-- A class 3 instruction whose sources have types of their own: one whole value. -/
def wideStep (s : State) (ty : Ty) (dst : Opnd) (imm : Option (BitVec 16)) (qs : List SrcReq)
    (f : List Nat → Nat) : Result :=
  vecStep s dst ty.regs imm qs fun _ _ xs =>
    .ok (VRes.of ty (BitVec.ofNat 64 (f (xs.map fun x => x.value.toNat))) (xs.any Src.poison)
      (intTag ty xs))

/-- `bfe` (R296): the control has type n32. -/
def execBfe (a : VArgs) (s : State) : Result :=
  wideStep s a.ty a.dst none [intSrc a.s1 a.ty fS1, intSrc a.s2 .n32 fS2]
    fun xs => bitField a.ty (xs.getD 0 0) (xs.getD 1 0)

/-- `bfe` with an immediate (R296). -/
def execBfeImm (a : VIArgs) (s : State) : Result :=
  wideStep s a.ty a.dst (some a.imm) [intSrc a.s1 a.ty fS1, intSrc .imm .n32 fImm]
    fun xs => bitField a.ty (xs.getD 0 0) (xs.getD 1 0)

/-- `bfi` (R296). -/
def execBfi (a : VArgs) (s : State) : Result :=
  wideStep s a.ty a.dst none [intSrc a.s1 a.ty fS1, intSrc a.s2 a.ty fS2, intSrc a.s3 .n32 fS3]
    fun xs => bitInsert a.ty (xs.getD 0 0) (xs.getD 1 0) (xs.getD 2 0)

/-- `bfi` with an immediate (R296). -/
def execBfiImm (a : VIArgs) (s : State) : Result :=
  wideStep s a.ty a.dst (some a.imm)
    [intSrc a.s1 a.ty fS1, intSrc a.s2 a.ty fS2, intSrc .imm .n32 fImm]
    fun xs => bitInsert a.ty (xs.getD 0 0) (xs.getD 1 0) (xs.getD 2 0)

/-! ## cmp (R297) -/

/-- A vector compare: one predicate bit per lane; `test` judges the two sources. -/
def cmpStep (s : State) (pd : PDst) (imm : Option (BitVec 16)) (qs : List SrcReq)
    (test : List Src → Bool) : Result :=
  groupOnly s .plain
    (fun c l => do
      let i ← match pd with
        | .p i => .ok i
        | .bad _ => raise (badOperand fDst)
      qs.forM fun q =>
        require (c.inBounds l q.o q.ty.regs && (q.o != .imm || imm.isSome)) (badOperand q.field)
      c.predSurvivor l i
      let xs ← qs.mapM fun q => c.source l q (expandImm q.ty (imm.getD 0))
      match (xs.zip qs).find? fun x => x.1.poison with
      | some (x, q) => raise { code := 0x0E, detail := 4, operand := q.field, observed := x.poisoned }
      | none => return (i, test xs))
    (fun c rs s => match rs with
      | (_, i, _) :: _ => s.setPreds c.gid i (rs.map fun (l, _, b) => (l, b))
      | [] => s)

/-- An integer compare of two sources. -/
def intTest (ty : Ty) (cc : CmpCode) (xs : List Src) : Bool :=
  let v := xs.map fun x => intOf ty x.value.toNat
  compareInt cc (v.getD 0 0) (v.getD 1 0)

/-- `cmp` (R297). -/
def execCmp (a : CmpArgs) (s : State) : Result :=
  cmpStep s a.pd none [intSrc a.s1 a.ty fS1, intSrc a.s2 a.ty fS2] (intTest a.ty a.cc)

/-- `cmp` with an immediate (R297). -/
def execCmpImm (a : CmpIArgs) (s : State) : Result :=
  cmpStep s a.pd (some a.imm) [intSrc a.s1 a.ty fS1, intSrc .imm a.ty fImm] (intTest a.ty a.cc)

/-! ## sel (R298) -/

/-- The tag of a `sel` result: the common format, or the type; the common scale. Scales that differ are a
tag mismatch. -/
def selTag (ty : Ty) (t u : Tag) : Except Stop Tag := do
  require (t.scale == u.scale) { code := 0x03, addr := tagWord u, operand := fS2 }
  return { fmt := if t.fmt = u.fmt then t.fmt else ty, valid := true, scale := t.scale }

/-- The tag of the upper register of a pair; none where neither source has one of its own. -/
def selHiTag (ty : Ty) (x y : Src) : Except Stop (Option Tag) :=
  if x.hiTag.isNone && y.hiTag.isNone then .ok none
  else some <$> selTag ty (x.hiTag.getD (x.tagAs ty)) (y.hiTag.getD (y.tagAs ty))

/-- `sel`: bits and poison of the chosen source. -/
def selStep (s : State) (ty : Ty) (dst s1 : Opnd) (q2 : SrcReq) (p : BitVec 4)
    (imm : Option (BitVec 16)) : Result :=
  vecStep s dst ty.regs imm [{ o := s1, ty, field := fS1, loose := true }, q2] fun c l xs =>
    match xs with
    | [x, y] => do
      let t ← selTag ty (x.tagAs ty) (y.tagAs ty)
      let u ← selHiTag ty x y
      return { elems := if c.pred l p then x.elems else y.elems, tag := t, hiTag := u }
    | _ => raise (badOperand fS1)

/-- `sel` (R298). -/
def execSel (a : VArgs) (s : State) : Result :=
  selStep s a.ty a.dst a.s1 { o := a.s2, ty := a.ty, field := fS2, loose := true } a.func none

/-- `sel` with an immediate (R298). -/
def execSelImm (a : VFArgs) (s : State) : Result :=
  selStep s a.ty a.dst a.s1 { o := .imm, ty := a.ty, field := fImm } a.fn (some a.imm)

/-! ## addc, dot4, cmul, cmac (R299 to R301) -/

/-- `addc`: sum and carry in an even pair of registers. -/
def addcStep (s : State) (dst : Opnd) (imm : Option (BitVec 16)) (qs : List SrcReq) : Result :=
  vecStep s dst 2 imm qs fun _ _ xs =>
    let v := xs.map fun x => x.value.toNat
    let sum := v.getD 0 0 + v.getD 1 0 + v.getD 2 0 % 2
    let p := xs.any Src.poison
    .ok { elems := [{ bits := BitVec.ofNat 32 sum, poison := p },
                    { bits := BitVec.ofNat 32 (sum / 2 ^ 32), poison := p }]
          tag := intTag .n32 xs }

/-- `addc` (R299). -/
def execAddc (a : VArgs) (s : State) : Result :=
  addcStep s a.dst none [intSrc a.s1 .n32 fS1, intSrc a.s2 .n32 fS2, intSrc a.s3 .n32 fS3]

/-- `addc` with an immediate (R299). -/
def execAddcImm (a : VIArgs) (s : State) : Result :=
  addcStep s a.dst (some a.imm) [intSrc a.s1 .n32 fS1, intSrc a.s2 .n32 fS2, intSrc .imm .n32 fImm]

/-- The type of c and d of `dot4`. -/
def dotType (t : Ty) : Ty := if t = .s8 then .s32 else .n32

/-- `dot4`: the exact sum, wrapped or clamped to 32 bits. -/
def dot4Step (s : State) (ty : Ty) (sat : Bool) (dst : Opnd) (imm : Option (BitVec 16)) (s1 s2 s3 : Opnd)
    (f3 : Nat) : Result :=
  let d := dotType ty
  vecStep s dst 1 imm [intSrc s1 ty fS1, intSrc s2 ty fS2, intSrc s3 d f3] fun _ _ xs =>
    let at_ := fun (j i : Nat) => intOf ty ((column ty xs i).getD j 0)
    let c : Int := (xs[2]?).elim 0 fun x => intOf d (x.value.toNat % 2 ^ 32)
    let sum := (List.range 4).foldl (fun acc i => acc + at_ 0 i * at_ 1 i) c
    .ok (VRes.one (intResult d sat sum) (xs.any Src.poison) (intTag d xs))

/-- `dot4` (R300). -/
def execDot4 (a : VArgs) (s : State) : Result := dot4Step s a.ty a.sat a.dst none a.s1 a.s2 a.s3 fS3

/-- `dot4` with an immediate (R300). -/
def execDot4Imm (a : VIArgs) (s : State) : Result :=
  dot4Step s a.ty a.sat a.dst (some a.imm) a.s1 a.s2 .imm fImm

/-- The rounded shift of R301. -/
def shiftPart (h : Nat) (v : Int) : Int := if h = 0 then v else (v + 2 ^ (h - 1)) / 2 ^ h

/-- A complex product: real and imaginary parts, b conjugated where asked. -/
def complexProduct (conj : Bool) (ar ai br bi : Int) : Int × Int :=
  let bi := if conj then -bi else bi
  (ar * br - ai * bi, ar * bi + ai * br)

/-- `cmul` and `cmac`: the third source, where there is one, is added. -/
def cmulStep (s : State) (a : VArgs) (third : List SrcReq) : Result :=
  vecStep s a.dst 1 none ([intSrc a.s1 .s16 fS1, intSrc a.s2 .s16 fS2] ++ third) fun _ _ xs =>
    let at_ := fun (j i : Nat) => intOf .s16 ((column .s16 xs i).getD j 0)
    let (re, im) := complexProduct a.neg2 (at_ 0 0) (at_ 0 1) (at_ 1 0) (at_ 1 1)
    let h := a.func.toNat
    let re := shiftPart h re + at_ 2 0
    let im := shiftPart h im + at_ 2 1
    .ok (VRes.of .s16 (packElems .s16 [intResult .s16 a.sat re, intResult .s16 a.sat im])
      (xs.any Src.poison) (intTag .s16 xs))

/-- `cmul` (R301). -/
def execCmul (a : VArgs) (s : State) : Result := cmulStep s a []

/-- `cmac` (R301). -/
def execCmac (a : VArgs) (s : State) : Result := cmulStep s a [intSrc a.s3 .s16 fS3]

end Sys2Proof.Machine
end

