-- ==== Sys2Proof/Machine/VecFloat.lean ====
section
/-! DEFINITION. Class 4: vector float instructions (R302 to R310). -/

namespace Sys2Proof.Machine

/-! ## The shadow unit (R310, R405) -/

/-- Raise the arithmetic check in a lane with a result that diverges from its shadow (R310). -/
def Ctx.shadow (c : Ctx) (l : Nat) (t : Ty) (es : List Nat) : Except Stop Unit :=
  require (!es.zipIdx.any fun (x, i) => shadowDiverges c.s.upsets.shadow c.s.seq l i t x)
    { code := 0x14, detail := c.is.slot }

/-! ## The course of a float instruction -/

/-- A source of a class 4 instruction: its scale is judged (R61). -/
def fltSrc (o : Opnd) (ty : Ty) (field : Nat) : SrcReq := { o, ty, field, scaled := true }

/-- Exact values of some sources at one position, the negations applied (R302). -/
def fltColumn (tys : List Ty) (negs : List Bool) (xs : List Src) (i : Nat) : List ExactNum :=
  ((xs.zip tys).zipIdx.map fun ((x, t), j) =>
    let v := floatOf t ((elems t x.value).getD i 0)
    if negs.getD j false then v.neg else v)

/-- The elements of a result: canonical NaN under the NaN scale (R61). -/
def fltElems (ty : Ty) (xs : List Src) (es : List Nat) : List Nat :=
  if xs.any Src.nanScale then List.replicate ty.count (canonNan ty) else es

/-- A result of a type whose elements are given. -/
def fltResult (ty : Ty) (xs : List Src) (es : List Nat) : VRes :=
  VRes.of ty (packElems ty (fltElems ty xs es)) (xs.any Src.poison) (Tag.of ty)

/-- The result of a lane, once the shadow unit has checked it (R310). -/
def Ctx.checked (c : Ctx) (l : Nat) (ty : Ty) (xs : List Src) (es : List Nat) : Except Stop VRes := do
  c.shadow l ty (fltElems ty xs es)
  return fltResult ty xs es

/-- A class 4 instruction that works element by element on sources of its type: exact value, then one
encoding. -/
def fltStep (s : State) (ty : Ty) (dst : Opnd) (imm : Option (BitVec 16)) (qs : List SrcReq)
    (negs : List Bool) (f : List ExactNum → Nat) : Result :=
  vecStep s dst 1 imm qs fun c l xs =>
    c.checked l ty xs ((List.range ty.count).map fun i => f (fltColumn (qs.map fun _ => ty) negs xs i))

def flt2Step (s : State) (a : VArgs) (f : ExactNum → ExactNum → ExactNum) : Result :=
  fltStep s a.ty a.dst none [fltSrc a.s1 a.ty fS1, fltSrc a.s2 a.ty fS2] [a.neg1, a.neg2]
    fun v => roundFloat a.ty a.rnd a.sat (f (v.getD 0 .nan) (v.getD 1 .nan))

def flt2ImmStep (s : State) (a : VIArgs) (f : ExactNum → ExactNum → ExactNum) : Result :=
  fltStep s a.ty a.dst (some a.imm) [fltSrc a.s1 a.ty fS1, fltSrc .imm a.ty fImm] []
    fun v => roundFloat a.ty a.rnd a.sat (f (v.getD 0 .nan) (v.getD 1 .nan))

/-- An exact sum under RD is -0 (R302). -/
def isRd (r : Rnd) : Bool := r == .rd

/-! ## fadd, fsub, fmul, fma, fmin, fmax (R302) -/

/-- `fadd` (R302). -/
def execFadd (a : VArgs) (s : State) : Result := flt2Step s a (ExactNum.add (isRd a.rnd))

/-- `fadd` with an immediate (R302). -/
def execFaddImm (a : VIArgs) (s : State) : Result := flt2ImmStep s a (ExactNum.add (isRd a.rnd))

/-- `fsub` (R302). -/
def execFsub (a : VArgs) (s : State) : Result := flt2Step s a fun x y => ExactNum.add (isRd a.rnd) x y.neg

/-- `fsub` with an immediate (R302). -/
def execFsubImm (a : VIArgs) (s : State) : Result :=
  flt2ImmStep s a fun x y => ExactNum.add (isRd a.rnd) x y.neg

/-- `fmul` (R302). -/
def execFmul (a : VArgs) (s : State) : Result := flt2Step s a ExactNum.mul

/-- `fmul` with an immediate (R302). -/
def execFmulImm (a : VIArgs) (s : State) : Result := flt2ImmStep s a ExactNum.mul

/-- Product and sum with one rounding. -/
def fmaOf (t : Ty) (rnd : Rnd) (sat : Bool) (v : List ExactNum) : Nat :=
  roundFloat t rnd sat (ExactNum.add (isRd rnd) (ExactNum.mul (v.getD 0 .nan) (v.getD 1 .nan)) (v.getD 2 .nan))

/-- `fma` (R302). -/
def execFma (a : VArgs) (s : State) : Result :=
  fltStep s a.ty a.dst none [fltSrc a.s1 a.ty fS1, fltSrc a.s2 a.ty fS2, fltSrc a.s3 a.ty fS3]
    [a.neg1, a.neg2] (fmaOf a.ty a.rnd a.sat)

/-- `fma` with an immediate (R302). -/
def execFmaImm (a : VIArgs) (s : State) : Result :=
  fltStep s a.ty a.dst (some a.imm)
    [fltSrc a.s1 a.ty fS1, fltSrc a.s2 a.ty fS2, fltSrc .imm a.ty fImm] [] (fmaOf a.ty a.rnd a.sat)

/-- `fmin` (R302). -/
def execFmin (a : VArgs) (s : State) : Result := flt2Step s a ExactNum.min

/-- `fmin` with an immediate (R302). -/
def execFminImm (a : VIArgs) (s : State) : Result := flt2ImmStep s a ExactNum.min

/-- `fmax` (R302). -/
def execFmax (a : VArgs) (s : State) : Result := flt2Step s a ExactNum.max

/-- `fmax` with an immediate (R302). -/
def execFmaxImm (a : VIArgs) (s : State) : Result := flt2ImmStep s a ExactNum.max

/-! ## fcmp (R303) -/

/-- A float compare: a source under the NaN scale compares as NaN. -/
def fltTest (cc : CmpCode) (neg1 neg2 : Bool) (xs : List Src) : Bool :=
  if xs.any Src.nanScale then compareNum cc .nan .nan
  else
    let v := fltColumn [.f32, .f32] [neg1, neg2] xs 0
    compareNum cc (v.getD 0 .nan) (v.getD 1 .nan)

/-- `fcmp` (R303). -/
def execFcmp (a : CmpArgs) (s : State) : Result :=
  cmpStep s a.pd none [fltSrc a.s1 a.ty fS1, fltSrc a.s2 a.ty fS2] (fltTest a.cc a.neg1 a.neg2)

/-- `fcmp` with an immediate (R303). -/
def execFcmpImm (a : CmpIArgs) (s : State) : Result :=
  cmpStep s a.pd (some a.imm) [fltSrc a.s1 a.ty fS1, fltSrc .imm a.ty fImm] (fltTest a.cc false false)

/-! ## Functions of one source (R304) -/

/-- A function of one source, on the bits of each element. -/
def fnStep (s : State) (a : VArgs) (f : Nat → Nat) : Result :=
  vecStep s a.dst 1 none [fltSrc a.s1 a.ty fS1] fun c l xs =>
    c.checked l a.ty xs ((List.range a.ty.count).map fun i => f ((column a.ty xs i).getD 0 0))

/-- `frcp` (R304). -/
def execFrcp (a : VArgs) (s : State) : Result := fnStep s a (approxElem .rcp a.ty a.sat)

/-- `frsq` (R304). -/
def execFrsq (a : VArgs) (s : State) : Result := fnStep s a (approxElem .rsq a.ty a.sat)

/-- `fsqrt` (R304): correctly rounded by ROUND. -/
def execFsqrt (a : VArgs) (s : State) : Result :=
  fnStep s a fun x => roundFloat a.ty a.rnd a.sat (fsqrtOf (floatOf a.ty x))

/-- `fexp2` (R304). -/
def execFexp2 (a : VArgs) (s : State) : Result := fnStep s a (approxElem .exp2 a.ty a.sat)

/-- `flog2` (R304). -/
def execFlog2 (a : VArgs) (s : State) : Result := fnStep s a (approxElem .log2 a.ty a.sat)

/-- `fsin` (R304). -/
def execFsin (a : VArgs) (s : State) : Result := fnStep s a (approxElem .sin a.ty a.sat)

/-- `fcos` (R304). -/
def execFcos (a : VArgs) (s : State) : Result := fnStep s a (approxElem .cos a.ty a.sat)

/-! ## frnd, fclass, fscale (R305 to R307) -/

/-- An exact value rounded to an integral value; a zero keeps the sign. -/
def integral (rnd : Rnd) : ExactNum → ExactNum
  | .fin m e =>
    let q := roundInt rnd m e
    if q = 0 then .zero (m < 0) else .fin q 0
  | x => x

/-- `frnd` (R305). -/
def execFrnd (a : VArgs) (s : State) : Result :=
  fnStep s a fun x => roundFloat a.ty .rne false (integral a.rnd (floatOf a.ty x))

/-- The class mask of an element (R306). -/
def classMask (t : Ty) (x : Nat) : Nat :=
  let f := floatFmt t
  let sub : Bool := x / 2 ^ f.fbits % 2 ^ f.ebits = 0
  match floatOf t x with
  | .nan => 2 ^ 8
  | .inf s => if s then 2 ^ 0 else 2 ^ 7
  | .zero s => if s then 2 ^ 3 else 2 ^ 4
  | .fin m _ =>
    if m < 0 then (if sub then 2 ^ 2 else 2 ^ 1) else (if sub then 2 ^ 5 else 2 ^ 6)

/-- The type of a class mask. -/
def maskType (t : Ty) : Ty := if t = .f32 then .n32 else .n16

/-- `fclass` (R306): the shadow unit does not check it. -/
def execFclass (a : VArgs) (s : State) : Result :=
  vecStep s a.dst 1 none [fltSrc a.s1 a.ty fS1] fun _ _ xs =>
    let one := fun (i : Nat) =>
      if xs.any Src.nanScale then 2 ^ 8 else classMask a.ty ((column a.ty xs i).getD 0 0)
    let t := maskType a.ty
    .ok (VRes.of t (packElems t ((List.range a.ty.count).map one)) (xs.any Src.poison) (Tag.of t))

/-- The type of the exponents of `fscale`. -/
def scaleType (t : Ty) : Ty := if t = .f32 then .s32 else .s16

/-- `fscale`: a × 2^n. Exponents are limited to ±1,024, where every finite value has overflowed or lies
below the smallest subnormal already. -/
def fscaleStep (s : State) (ty : Ty) (rnd : Rnd) (sat : Bool) (dst s1 : Opnd) (q2 : SrcReq)
    (imm : Option (BitVec 16)) : Result :=
  vecStep s dst 1 imm [fltSrc s1 ty fS1, q2] fun c l xs => do
    let nt := scaleType ty
    c.checked l ty xs ((List.range ty.count).map fun i =>
      let v := floatOf ty ((column ty xs i).getD 0 0)
      let n := intOf nt ((column nt xs i).getD 1 0)
      roundFloat ty rnd sat (ExactNum.scale (max (-1024) (min 1024 n)) v))

/-- `fscale` (R307). -/
def execFscale (a : VArgs) (s : State) : Result :=
  fscaleStep s a.ty a.rnd a.sat a.dst a.s1 (fltSrc a.s2 (scaleType a.ty) fS2) none

/-- `fscale` with an immediate (R307). -/
def execFscaleImm (a : VIArgs) (s : State) : Result :=
  fscaleStep s a.ty a.rnd a.sat a.dst a.s1 (fltSrc .imm (scaleType a.ty) fImm) (some a.imm)

/-! ## fdot2 and fcmul (R308, R309) -/

/-- `fdot2`: an exact sum of three terms, rounded once into f32. -/
def fdot2Step (s : State) (ty : Ty) (rnd : Rnd) (sat : Bool) (negs : List Bool) (dst s1 s2 : Opnd)
    (q3 : SrcReq) (imm : Option (BitVec 16)) : Result :=
  vecStep s dst 1 imm [fltSrc s1 ty fS1, fltSrc s2 ty fS2, q3] fun c l xs => do
    let term := fun (i : Nat) =>
      let v := fltColumn [ty, ty] negs (xs.take 2) i
      ExactNum.mul (v.getD 0 .nan) (v.getD 1 .nan)
    let c3 := (fltColumn [.f32] [] (xs.drop 2) 0).getD 0 .nan
    let add := ExactNum.add (isRd rnd)
    c.checked l .f32 xs [roundFloat .f32 rnd sat (add (add c3 (term 0)) (term 1))]

/-- `fdot2` (R308). -/
def execFdot2 (a : VArgs) (s : State) : Result :=
  fdot2Step s a.ty a.rnd a.sat [a.neg1, a.neg2] a.dst a.s1 a.s2 (fltSrc a.s3 .f32 fS3) none

/-- `fdot2` with an immediate (R308). -/
def execFdot2Imm (a : VIArgs) (s : State) : Result :=
  fdot2Step s a.ty a.rnd a.sat [] a.dst a.s1 a.s2 (fltSrc .imm .f32 fImm) (some a.imm)

/-- `fcmul` (R309). -/
def execFcmul (a : VArgs) (s : State) : Result :=
  vecStep s a.dst 1 none [fltSrc a.s1 a.ty fS1, fltSrc a.s2 a.ty fS2] fun c l xs => do
    let re := fltColumn [a.ty, a.ty] [] xs 0
    let im := fltColumn [a.ty, a.ty] [false, a.neg2] xs 1
    let ar := re.getD 0 .nan
    let br := re.getD 1 .nan
    let ai := im.getD 0 .nan
    let bi := im.getD 1 .nan
    let add := ExactNum.add (isRd a.rnd)
    let enc := roundFloat a.ty a.rnd a.sat
    c.checked l a.ty xs
      [enc (add (ExactNum.mul ar br) (ExactNum.mul ai bi).neg), enc (add (ExactNum.mul ar bi) (ExactNum.mul ai br))]

end Sys2Proof.Machine
end

