-- ==== Sys2Proof/Machine/Convert.lean ====
section
/-! DEFINITION. Class 5: conversions and format tags (R311 to R315). -/

namespace Sys2Proof.Machine

/-! ## The scale operand (R311) -/

/-- The operand is admitted and in bounds. -/
def Ctx.scaleOpOk (c : Ctx) (l : Nat) (o : Opnd) (field : Nat) : Except Stop Unit :=
  require (o.isUniform && c.inBounds l o 1) (badOperand field)

/-- A scale operand: its value and its poison. -/
def Ctx.scaleOp (c : Ctx) (l : Nat) (o : Opnd) (field : Nat) : Except Stop (Byte × Bool) := do
  c.scaleOpOk l o field
  match o with
  | .u _ =>
    let x ← c.read l o 1 field 0
    return (x.low.bits.setWidth 8, x.poison)
  | _ => return (127, false)

/-- A scale operand of `cvt` and `unpk`: 0xFF is an illegal operand. -/
def Ctx.cvtScale (c : Ctx) (l : Nat) (o : Opnd) : Except Stop (Byte × Bool) := do
  let x ← c.scaleOp l o fS2
  require (x.1 != 255) (badOperand fS2)
  return x

/-! ## Conversion of an element (R62, R63, R312) -/

/-- An element of a type under a source scale, as an element of another under a destination scale. -/
def convertElem (st dt : Ty) (rnd : Rnd) (sat : Bool) (ss sd : Byte) (x : Nat) : Nat :=
  let v := if ss = 255 then ExactNum.nan else valueOf st x
  convertTo dt rnd sat st.isInt (ExactNum.scale ((ss.toNat : Int) - sd.toNat) v)

/-- The scale of a source (R60): that of its tag, or 127. -/
def Src.scale (x : Src) : Byte :=
  match x.tags with
  | t :: _ => t.scale
  | [] => 127

/-- The shadow unit checks float results (R310). -/
def Ctx.shadowFor (c : Ctx) (l : Nat) (t : Ty) (es : List Nat) : Except Stop Unit :=
  if [Ty.f32, .f16, .bf16, .e4m3, .e5m2].contains t then c.shadow l t es else .ok ()

/-- A tag with a scale. -/
def Tag.scaled (t : Ty) (s : Byte) : Tag := { Tag.of t with scale := s }

/-- `cvt` (R312). -/
def execCvt (a : VArgs) (s : State) : Result :=
  let st := Ty.ofCode a.func.toNat
  let dt := a.ty
  groupOnly s .plain
    (fun c l => do
      c.dstOk l a.dst dt.regs
      let (sd, sp) ← c.cvtScale l a.s2
      match ← c.sources l a.dst dt.regs none [{ o := a.s1, ty := st, field := fS1 }] with
      | x :: _ =>
        let es := (elems st x.value).take dt.count
        let ys := es.map fun e => convertElem st dt a.rnd a.sat x.scale sd e
        c.shadowFor l dt ys
        return VRes.of dt (packElems dt ys) (x.poison || sp) (Tag.scaled dt sd)
      | [] => raise (badOperand fS1))
    (fun c rs s => c.writeVec a.dst rs s) (shiftIdle dt.regs)

/-- The merge source of `cvtpk` (R313): it must carry scale 127. -/
def mergeOk (m : Src) : Except Stop Unit :=
  match m.tags.find? fun t => t.scale != 127 with
  | some t => raise { code := 0x03, addr := tagWord t, operand := fS3 }
  | none => .ok ()

/-- `cvtpk` (R313). -/
def execCvtpk (a : VArgs) (s : State) : Result :=
  let st := Ty.ofCode a.func.toNat
  let dt := a.ty
  let third : List SrcReq := if dt.count = 2 then [] else [{ o := a.s3, ty := dt, field := fS3 }]
  vecStep s a.dst 1 none
    ([{ o := a.s1, ty := st, field := fS1 }, { o := a.s2, ty := st, field := fS2 }] ++ third)
    fun c l xs => do
      let one := fun (x : Src) =>
        convertElem st dt a.rnd a.sat x.scale 127 ((elems st x.value).getD 0 0)
      let rest ← match xs.drop 2 with
        | m :: _ => do
          mergeOk m
          pure ((elems dt m.value).take (dt.count - 2))
        | [] => pure []
      let ys := (xs.take 2).map one
      c.shadowFor l dt ys
      return VRes.of dt (packElems dt (ys ++ rest)) (xs.any Src.poison) (Tag.of dt)

/-- `unpk` (R314): several registers, and no latch. -/
def execUnpk (a : VArgs) (s : State) : Result :=
  let st := Ty.ofCode a.func.toNat
  let dt := a.ty
  let nd := dt.count
  let m := (st.count + nd - 1) / nd
  let align := if m ≤ 3 then 2 else 4
  groupOnly s .plain
    (fun c l => do
      require (a.dst.isReg && aligned (regIndex a.dst) align && c.within l a.dst m) (badOperand fDst)
      let q : SrcReq := { o := a.s1, ty := st, field := fS1 }
      require (c.inBounds l q.o 1 && q.o != .imm) (badOperand fS1)
      let (sd, sp) ← c.cvtScale l a.s2
      c.survivor l a.dst m
      let x ← c.source l q 0
      let ys := (elems st x.value).map fun e => convertElem st dt a.rnd a.sat x.scale sd e
      c.shadowFor l dt ys
      return ({ elems := (List.range m).map fun j =>
                  { bits := (packElems dt ((ys.drop (j * nd)).take nd)).setWidth 32
                    poison := x.poison || sp }
                tag := Tag.scaled dt sd } : VRes))
    (fun c rs s => c.writeOnly a.dst rs s)

/-! ## Tags (R315) -/

/-- `tagset` (R315): the tag of every column with an active lane; bits and poison are kept, but for the
poison of the scale operand. A load in flight to the register lands first (R72). -/
def execTagset (a : VArgs) (s : State) : Result :=
  groupOnly s .plain
    (fun c l => do
      require (match a.dst with
        | .v _ | .n _ => c.inBounds l a.dst a.ty.regs
        | _ => false) (badOperand fDst)
      let (sc, p) ← c.scaleOp l a.s1 fS1
      c.survivor l a.dst a.ty.regs
      let regs := (List.range a.ty.regs).map (c.reg l a.dst).succ
      require (regs.all fun r => (c.g.landRegs regs).nearOk r l)
        { code := 0x05, addr := BitVec.ofNat 64 a.dst.code, operand := fDst }
      return (regs, sc, p))
    (fun c rs s =>
      s.modGroup c.gid fun g =>
        rs.foldl (fun g (l, regs, sc, p) =>
          let t : Tag := { fmt := a.ty, valid := a.func == 0, scale := sc }
          regs.foldl (fun (g : Group) r =>
            let g := g.landOn r
            let g := if p then g.poisonElem r l else g
            g.setTag r l t) g) g)

/-- `tagget` (R315): the tag of the source's column, whatever it is. -/
def execTagget (a : VArgs) (s : State) : Result :=
  groupOnly s .plain
    (fun c l => do
      c.dstOk l a.dst 1
      require (match a.s1 with
        | .v _ | .n _ | .b _ => c.inBounds l a.s1 1
        | _ => false) (badOperand fS1)
      c.survivor l a.dst 1
      let x ← c.read l a.s1 1 fS1 0
      return VRes.of .n32 (tagWord (x.tags.headD Tag.start)) false (Tag.of .n32))
    (fun c rs s => c.writeVec a.dst rs s) (shiftIdle 1)

end Sys2Proof.Machine
end

