-- ==== Sys2Proof/Machine/EvMem.lean ====
section
/-! DEFINITION. Events of the memories: dirty-line FIFO and L1 (R106), parity updates (R127), bank
retirement (R129 to R131), Folio refresh (R112), and page walks (R195). -/

namespace Sys2Proof.Machine

/-! ## L1 -/

/-- FIFO_DRAIN: the head of the dirty-line FIFO is written to its home (R106). -/
def execFifoDrain (core : Nat) (s : State) : Result :=
  if (s.core core).fifo.isEmpty then notNow "FIFO_DRAIN" else .next (s.drainHead core)

/-- L1_EVICTION: a block leaves L1, drained first where it stands in the FIFO (R106) (log 50, DESIGN CHOICE). -/
def execL1Eviction (core block : Nat) (s : State) : Result :=
  if ((s.core core).l1.find? block).isSome then .next (s.evictBlock core block)
  else notNow "L1_EVICTION"

/-! ## Scratchpad -/

/-- PARITY_UPDATE: the parity bank applies the oldest delta (R127), as each lane cycle has it do. -/
def execParityUpdate (core pgroup : Nat) (s : State) : Result :=
  if ((s.core core).pad.updates.get [] pgroup).isEmpty then notNow "PARITY_UPDATE"
  else .next (s.modCore core fun k => { k with pad := (k.pad.applyDelta (s.nowAt core) pgroup).completed })

/-- Retire a bank (R131): the second retirement of a group loses it, and with it the accesses that wait there. -/
def Spad.retire (p : Spad) (bank : Nat) : Spad :=
  let g := groupOfBank bank
  let mine := fun (k : Nat) => k / 1536 == bank
  let p := { p with
    retired := ninsert bank p.retired
    errors := p.errors.erase bank
    ue := p.ue.filter fun k => !mine k
    ce := p.ce.filter fun k => !mine k }
  if 2 ≤ ((banksOf g).filter p.retired.contains).length then
    { p with lost := ninsert g p.lost, reqs := p.reqs.filter fun r => groupOfBank r.bank != g }
  else p

/-- A bank is due to be retired, and its group has no delta waiting (R129, R131). -/
def Spad.mayRetire (p : Spad) (bank : Nat) : Bool :=
  bank < 80 && p.bankState bank == 0 && retireDue (p.errors.get [] bank) &&
  (p.updates.get [] (groupOfBank bank)).isEmpty

/-- BANK_RETIRE (R129, R131). -/
def execBankRetire (core bank : Nat) (s : State) : Result :=
  if (s.core core).pad.mayRetire bank then
    .next (s.modCore core fun k => { k with pad := k.pad.retire bank })
  else notNow "BANK_RETIRE"

/-- Poisoned elements of an operand, of a word whose reconstruction has failed. -/
def MatCmd.spoil (m : MatCmd) (r : PadReq) : MatCmd :=
  if m.id != r.unit then m
  else if r.cls = 0 then { m with poisonA := m.poisonA ++ r.elems }
  else if r.cls = 1 then { m with poisonB := m.poisonB ++ r.elems }
  else m

/-- What a load in flight takes of a word that its bank has served late, as the word then stands: elements, and the tags of
capabilities; a capability is taken clean or not at all. -/
def Flight.refresh (f : Flight) (core key : Nat) (w : PadRead) : Flight :=
  if !f.quads.isEmpty && w.poison then f
  else
    let mine := fun (x : LaneWrite) => x.word.any fun q => q.1 == core && q.2.1 == key
    let firsts := f.writes.filterMap fun x => match mine x, x.word, x.reg with
      | true, some (_, _, 0), .v row => some (row * 64 + x.lane)
      | _, _, _ => none
    { f with
      writes := f.writes.map fun x => if mine x then
          { x with elem := { bits := (w.data >>> (32 * (x.word.elim 0 fun q => q.2.2))).setWidth 32, poison := w.poison } }
        else x
      quad := if f.quads.isEmpty then f.quad
        else f.quad.filter (fun q => !firsts.contains q) ++ if (capOf w.data w.tag).tag then firsts else [] }

/-- A read of a word of a retired bank returns what the bank's parity holds when it is served, and a read that meets an
error beyond repair only then is delivered poison (R134, R138) (log 16, DEDUCED). -/
def State.refresh (s : State) (core : Nat) (r : PadReq) : State :=
  let w := ((s.core core).pad.read r.bank r.row (s.nowAt core) true).1
  { s with groups := ⟨s.groups.cells.map fun (i, g) => (i, if g.flights.any (·.id == r.unit) then
      { g with flights := g.flights.map fun f =>
          if f.id == r.unit then f.refresh core (padKey r.bank r.row) w else f }
    else g)⟩ }

/-- One lane cycle at the banks of a core (R125 to R128). -/
def State.laneCycle (s : State) (core : Nat) : State :=
  let k := s.core core
  if k.pad.reqs.isEmpty && k.pad.updates.cells.isEmpty then s
  else
    let t := k.pad.laneCycle (s.nowAt core) s.matFront
    let s := s.modCore core fun k =>
      { k with pad := t.pad
               parServed := k.parServed + BitVec.ofNat 64 t.served
               parStale := k.parStale + BitVec.ofNat 64 t.refused }
    let s := (t.late ++ t.failed).foldl (fun s r => if 4 ≤ r.cls then s.refresh core r else s) s
    t.failed.foldl (fun s r => (s.cores.cells.map (·.1)).foldl (fun s c =>
      if (s.core c).matq.any (·.id == r.unit) then
        s.modCore c fun k => { k with matq := k.matq.map fun m => m.spoil r }
      else s) s) s

/-! ## Folio refresh (R112) -/

/-- A bank group of a die stands in its window, by the refresh timer. -/
def State.windowNow (s : State) (bank : Nat) : Bool := (s.nominal + 32768 - 4096 * bank) % 32768 < 512

/-- The refresh reads every row of a physical bank group: sectors with an uncorrectable error become poisoned
(log 8, DESIGN CHOICE). -/
def State.scrubFolio (s : State) (bank : Nat) : State :=
  let hit := s.upsets.folio.filter fun sec => sec * 32 / Config.bankGroupBytes == bank
  { s with
    folioPoison := hit.foldl (fun l x => ninsert x l) s.folioPoison
    upsets := { s.upsets with folio := s.upsets.folio.filter fun sec => !hit.contains sec } }

/-- The window of a bank group differs from the timer. -/
def State.windowDue (s : State) (die bank : Nat) : Bool :=
  die < 2 && bank < 8 && (s.die die).windows.getD bank false != s.windowNow bank

/-- FOLIO_REFRESH_WINDOW: the window of a bank group opens or closes (R112). -/
def execFolioRefreshWindow (die bank : Nat) (s : State) : Result :=
  if s.windowDue die bank then
    let s := s.modDie die fun d =>
      { d with windows := listModify d.windows bank fun _ => s.windowNow bank }
    .next (if s.windowNow bank then s.scrubFolio (die * 8 + bank) else s)
  else notNow "FOLIO_REFRESH_WINDOW"

/-! ## Page walks (R195) -/

/-- A leaf enters a TLB of some entries, newest first. -/
def tlbInsert (e : TlbEntry) (size : Nat) (l : List TlbEntry) : List TlbEntry :=
  (e :: l.filter fun x => !(x.part == e.part && x.base == e.base && x.size == e.size)).take size

/-- A leaf enters its set of an 8-way TLB of 2,048 entries (R195) (log 57, DESIGN CHOICE). -/
def tlbInsertWays (e : TlbEntry) (l : List TlbEntry) : List TlbEntry :=
  let mine := fun (x : TlbEntry) => x.base / x.size % 256 == e.base / e.size % 256
  tlbInsert e 8 (l.filter mine) ++ l.filter fun x => !mine x

/-- A leaf is cached for some cores and their clusters. -/
def State.cacheLeaf (s : State) (cores : List Nat) (e : TlbEntry) : State :=
  cores.foldl (fun s c =>
    (s.modCore c fun k => { k with tlb := tlbInsert e 64 k.tlb }).modCluster (clusterOf c) fun k =>
      { k with tlb := tlbInsertWays e k.tlb }) s

/-- Non-leaf entries enter the walk cache of a die. -/
def State.cacheWalk (s : State) (die : Nat) (es : List WalkEntry) : State :=
  s.modDie die fun d =>
    { d with wcache := (es ++ d.wcache.filter fun x =>
        !es.any fun e => e.part == x.part && e.level == x.level && e.base == x.base).take 256 }

/-- The group waits for a page of a die and partition. -/
def State.groupAwaits (s : State) (die part page : Nat) (g : Group) : Bool :=
  dieOf g.core == die && s.partOf g == part && g.fibres.cells.any fun (_, f) => Wait.forPage f.wait page

/-- What a walk found goes to every access that waits on it (log 37, DEDUCED). -/
def State.deliver (s : State) (die part : Nat) (r : WalkResult) : State :=
  let s := s.groups.cells.foldl (fun s (i, g) =>
    if s.groupAwaits die part r.page g then
      s.setGroup i { g with walks := g.walks.filter (·.page != r.page) ++ [r] }
    else s) s
  s.cores.cells.foldl (fun s (c, k) => match k.stream with
    | some st =>
      let mine := (s.groups.find? st.owner).elim false fun g => s.partOf g == part
      if dieOf c == die && mine && Wait.forPage st.wait r.page then
        s.modStream c fun st => { st with walks := st.walks.filter (·.page != r.page) ++ [r] }
      else s
    | none => s) s

/-- PAGE_WALK_COMPLETE (R195): one of the die's 32 walkers has done its walk, the oldest walks having them. A leaf is
cached; an absent or malformed entry is held in no structure. -/
def execPageWalkComplete (die id : Nat) (s : State) : Result :=
  match ((s.die die).walks.take 32).find? (·.id == id) with
  | none => notNow "PAGE_WALK_COMPLETE"
  | some w =>
    let va := w.page * 2 ^ 16
    let (r, es) := s.walk (s.die die).wcache w.part va
    let s := (s.cacheWalk die es).modDie die fun d => { d with walks := d.walks.filter (·.id != id) }
    match r with
    | .leaf level e =>
      let size := levelSize level
      let s := s.cacheLeaf w.cores { part := w.part, base := va / size * size, size, entry := e }
      .next (s.deliver die w.part { page := w.page, level, entry := e, bad := false })
    | .absent level => .next (s.deliver die w.part { page := w.page, level, entry := 0, bad := true })
    | .malformed => .next (s.deliver die w.part { page := w.page, level := 0, entry := 0, bad := true })
    | .dead pa => .fault (.noSuchMemory pa)

end Sys2Proof.Machine
end

