-- ==== Sys2Proof/Machine/EvKill.lean ====
section
/-! DEFINITION. The end of groups, teams and grids (R10, R11, R14), kills (R228, R229), and completion words
(R385). -/

namespace Sys2Proof.Machine

/-! ## Completion words (R385) -/

/-- The walk for a DONEADDR: a malformed entry leaves an error record (R194). -/
def State.noteDone (s : State) (part : Nat) (party : Word) (addr : Dword) : State :=
  if addr == 0 || addr.toNat % 8 != 0 || 2 ^ 52 ≤ addr.toNat then s
  else s.noteWalk part party addr.toNat (s.walkPa part addr.toNat { w := true } { code := 0 })

/-- A completion word. -/
def completionWord (status : Nat) (tag : Word) : Dword := BitVec.ofNat 64 (status * 2 ^ 32 + tag.toNat)

/-- DONEADDR is nothing, or 8-byte aligned and translated to a present page that allows W (R382, R383); whether the
page's port is up counts when the word is written (R385). -/
def State.doneOk (s : State) (part : Nat) (addr : Dword) : Bool :=
  addr == 0 || (addr.toNat % 8 == 0 && addr.toNat < 2 ^ 52 &&
    match s.portsUp.walkPa part addr.toNat { w := true } { code := 0 } with
    | .ok _ => true
    | .error _ => false)

/-- Write a completion word through the page tables, a `.sys` release; a word that cannot be written is dropped, with an
error record and MSI-X vector 0. -/
def State.complete385 (s : State) (part : Nat) (addr : Dword) (status : Nat) (tag party : Word) : State :=
  if addr = 0 then s
  else
    match s.walkPa part (addr.toNat % 2 ^ 52) { w := true } { code := 0 } with
    | .ok pa => (s.placeWrite (.mem pa) (leBytes 8 (completionWord status tag).toNat)).clearRecord part (.mem pa)
    | .error e =>
      let s := s.noteWalk part party addr.toNat (.error e)
      let s' := s.errorRecord part 0 12 party (BitVec.ofNat 64 (2 ^ 60 + addr.toNat % 2 ^ 52)) 0 tag 0 0
      if s'.outbox.length = s.outbox.length then s'.interrupt part 0 else s'

/-- A grid that waits for a packet of a tag waits no longer (R384). -/
def Grid.afterDone (g : Grid) (part : Nat) (tag : Word) : Grid :=
  if g.part = part ∧ g.afterTag = some tag then { g with afterTag := none } else g

/-- A packet is no longer outstanding: it is among the 4,096 that completed last (R378), with its tag, and markers
need not wait for it (R382), nor grids that named its tag (R384). -/
def State.packetDone (s : State) (part num : Nat) (tag : Word) : State :=
  let s : State := { s with grids := ⟨s.grids.cells.map fun x => (x.1, x.2.afterDone part tag)⟩ }
  s.modPart part fun p =>
    { p with
      pending := p.pending.filter (· != num)
      markers := p.markers.map fun m => { m with before := m.before.filter (· != num) }
      packetOf := p.packetOf.filter fun x => x.2 != num
      tags := p.tags.filter (· != tag)
      doneTags := (tag :: p.doneTags).take 4096 }

/-- The packet of an admitted grid. -/
def Part.packetOfGrid (p : Part) (key : Nat) : Nat :=
  ((p.packetOf.find? fun x => x.1 == 2 ^ 32 + key).map (·.2)).getD 0

/-! ## Rungs that wait for a context or a core to be empty (R234) -/

/-- The rung in progress has done what it waits for. -/
def State.rungDone (s : State) (part : Nat) (r : Rung) : Bool :=
  match r.level with
  | 2 => (s.grids.find? (gridKey part r.target)).isNone
  | 3 => s.teams.cells.all fun (_, t) => !t.cores.contains ((s.part part).cores.getD r.target 1024)
  | _ => false

/-- A rung has finished or handed over: BUSY clears where RESETREQ shows it (R394). -/
def Part.endRung (p : Part) (r : Rung) : Part :=
  { p with rungs := p.rungs.erase r, resetreq := if r.byHost then p.resetreq &&& 0x7FFFFFFF else p.resetreq }

/-- End the rungs in progress that are done. -/
def State.settleRung (s : State) (part : Nat) : State :=
  (s.part part).rungs.foldl (fun s r => if s.rungDone part r then s.modPart part fun p => p.endRung r else s) s

/-! ## Kills (R228, R229) -/

/-- Every fibre of a group ends. -/
def State.endFibres (s : State) (gid : Nat) : State :=
  match s.groups.find? gid with
  | none => s
  | some g =>
    (s.setGroup gid { g with fibres := ⟨[]⟩ }).modCore g.core fun k =>
      k.dropLatches gid (List.range g.width)

/-- The resident groups of a team. -/
def State.groupsOf (s : State) (team : Nat) : List Nat :=
  (s.groups.cells.filter fun (_, g) => g.team == team).map (·.1)

/-- A team is killed (R228): its fibres end, its Stoker stops, and its places in queues are given up. -/
def State.killTeam (s : State) (team : Nat) : State :=
  match s.teams.find? team with
  | none => s
  | some t =>
    let mine := s.groupsOf team
    let s := mine.foldl (fun s g => s.endFibres g) s
    let s := t.cores.foldl (fun s c => s.modStream c fun st =>
      if mine.contains st.owner then { st with stopped := true, wait := none } else st) s
    let s := s.leaveQueues (fun h => h.team == team) none
    s.modTeam team fun t => { t with kill := none, killed := true, unlinked := [] }

/-- The teams of a grid that are resident. -/
def State.teamsOf (s : State) (key : Nat) : List Nat :=
  (s.teams.cells.filter fun (_, t) => t.grid == key).map (·.1)

/-- A scratchpad queue ends with its team (R185). -/
def State.dropPadQueues (s : State) (team : Nat) : State :=
  { s with queues := ⟨s.queues.cells.filter fun (k, _) =>
      !(2 ^ 70 ≤ k && (k - 2 ^ 70) / 2 ^ 32 == team)⟩ }

/-- Error records of a kill that is carried out. -/
def State.sendRecords (s : State) (part : Nat) (rs : List Packet) : State :=
  rs.foldl (fun s r => s.sendPacket part r) s

/-- A context is killed (R229): every team of it, then its places and its queues (R185). The watchdog goes on counting the
tail of a pre-emption that was under way (R235). -/
def State.killContext (s : State) (key : Nat) : State :=
  match s.grids.find? key with
  | none => s
  | some gr =>
    let s := (s.teamsOf key).foldl (fun s t =>
      (s.sendRecords gr.part (((s.teams.find? t).bind (·.kill)).getD [])).killTeam t) s
    let s := s.leaveQueues (fun h => h.ctx == gridCtxid key) (some (gridCtxid key))
    let s := gr.image.foldl (fun s (m : TeamImage) => s.dropPadQueues m.id) s
    let s := s.modPart gr.part fun p => { p with pages := p.pages.filter fun x => x.1 != key }
    s.modGrid key fun g => { g with status := .killed, unplaced := [], image := [] }

/-- TEAM_KILL (R228): the third kill of one team kills the context (log 53, DEDUCED). -/
def execTeamKill (team : Nat) (s : State) : Result :=
  match s.teams.find? team with
  | none => notNow "TEAM_KILL"
  | some t =>
    match t.kill with
    | none => notNow "TEAM_KILL"
    | some recs =>
      match s.grids.find? t.grid with
      | none => notNow "TEAM_KILL"
      | some gr =>
        let s := (s.sendRecords gr.part recs).killTeam team
        let n := gr.kills.get 0 t.index + 1
        let s := s.modGrid t.grid fun g => { g with kills := g.kills.put 0 t.index n }
        .next (if 3 ≤ n then s.killContext t.grid else s)

/-! ## The end of a group and of a team -/

/-- The stream of a group's core belongs to it and still has to end: it runs, or commands of a stream that a
kill has stopped are in flight (R228, R351). -/
def State.streamHolds (s : State) (gid : Nat) (g : Group) (killed : Bool) : Bool :=
  match (s.core g.core).stream with
  | some st =>
    st.owner == gid && !(killed && st.ci.isEmpty && st.co.isEmpty && (s.core g.core).matq.isEmpty)
  | none => false

/-- A group can end (R14): no fibre is left and its five counters stand at zero. -/
def State.groupDone (s : State) (gid : Nat) (g : Group) (t : Team) : Bool :=
  g.fibres.cells.isEmpty && s.counter g .vm == 0 && s.counter g .ci == 0 && s.counter g .co == 0 &&
  s.counter g .fx == 0 && s.counter g .mx == 0 && !s.streamHolds gid g t.killed

/-- The records of copy faults that no `wait` has raised when the group ends (R350) (log 38, DEDUCED). -/
def pendingRecords (s : State) (t : Team) (gr : Grid) (g : Group) : List Packet :=
  g.pending.map fun p =>
    faultRecord s t gr g.core 0 0 { code := p.code, addr := p.addr, space := 1, observed := p.observed }
      (if p.code = 0x0E then 1 else 7)

/-- The team ends (R11): its writes go home, and its scratchpad, barriers, tiles and queues are freed; a
killed team of a restartable grid is placed again (R228). -/
def State.endTeam (s : State) (tid : Nat) (t : Team) : State :=
  let s := t.cores.foldl (fun s c => s.drainAll c) s
  let s := t.cores.foldl (fun s c => s.modCore c fun k =>
    let k := { k with scopes := k.scopes.filter fun r => r.line / 2 ^ 25 != tid }
    if t.isMatrix then { k with tiles := ⟨[]⟩, tileTags := ⟨[]⟩, stream := none } else k) s
  let s := s.dropPadQueues tid
  let s := { s with teams := s.teams.erase tid }
  s.modGrid t.grid fun g =>
    if t.killed && g.restartable && g.status != .killed then
      { g with unplaced := ninsert t.index g.unplaced }
    else g

/-- GROUP_END (R14), with the end of its team where it is the last (R11) (log 38, DEDUCED). -/
def execGroupEnd (gid : Nat) (s : State) : Result :=
  match s.groups.find? gid with
  | none => notNow "GROUP_END"
  | some g =>
    match s.owners g with
    | none => notNow "GROUP_END"
    | some (t, gr) =>
      if !s.groupDone gid g t then notNow "GROUP_END"
      else if !g.pending.isEmpty && !t.killed && t.kill.isNone then
        .next ((s.setGroup gid { g with pending := [] }).requestKill g.team (pendingRecords s t gr g))
      else if t.kill.isSome then notNow "GROUP_END"
      else
        let s := s.modCore g.core fun k => match k.stream with
          | some st => if st.owner == gid then { k with stream := none } else k
          | none => k
        let s := { s with groups := s.groups.erase gid }
        let s := s.groupLeavesBars gid g t.grid
        .next (if (s.groupsOf g.team).isEmpty then
            match s.teams.find? g.team with
            | some t => (s.endTeam g.team t).settleRung gr.part
            | none => s
          else s)

/-! ## The end of a grid -/

/-- Child grids of a grid that are not complete, those still in the launch queue among them (R10, R189). -/
def State.hasChildren (s : State) (key : Nat) : Bool :=
  (s.grids.cells.any fun (_, g) => g.parent == some key) ||
  (s.queue (s.part (key / 65536)).qtable).launchBy.cells.any fun x => x.2.1 == gridCtxid key

/-- GRID_COMPLETE (R10, R229, R376, R385). -/
def execGridComplete (key : Nat) (s : State) : Result :=
  match s.grids.find? key with
  | none => notNow "GRID_COMPLETE"
  | some gr =>
    let idle := (s.teamsOf key).isEmpty && gr.unplaced.isEmpty && gr.image.isEmpty
    if idle && (gr.status == .killed || !s.hasChildren key) then
      let num := (s.part gr.part).packetOfGrid key
      let s := s.complete385 gr.part gr.doneAddr (if gr.status == .killed then 2 else 1) gr.tag
        (gridCtxid key)
      let s := s.packetDone gr.part num gr.tag
      let s := { s with grids := s.grids.erase key }
      .next ((s.modPart gr.part fun p => { p with pages := p.pages.filter fun x => x.1 != key }).settleRung
        gr.part)
    else notNow "GRID_COMPLETE"

end Sys2Proof.Machine
end

