-- ==== Sys2Proof/Machine/EvTranslate.lean ====
section
/-! DEFINITION. Invalidations and page service: INVREQ, INVALIDATION_COMPLETE and PGRESUME (R196, R197,
R226). -/

namespace Sys2Proof.Machine

/-- The range covers an address; `none` covers the whole partition. -/
def rangeHas (r : Option (Nat × Nat)) (a : Nat) : Bool :=
  match r with
  | none => true
  | some (b, n) => b ≤ a && a < b + n

/-- The range meets a region. -/
def rangeMeets (r : Option (Nat × Nat)) (base size : Nat) : Bool :=
  match r with
  | none => true
  | some (b, n) => b < base + size && base < b + n

/-- SIZE of INVREQ and PGRESUME. -/
def invCode (v : Dword) : Nat := v.toNat % 16

/-- SIZE is one of those that take effect (R196). -/
def invSizeOk (v : Dword) : Bool := invCode v < 4 || invCode v == 15

/-- VA and SIZE of a written value: reserved bits read 0. -/
def invFields (v : Dword) : Dword := v &&& 0x000FFFFFFFFF000F

/-- The range of a written value. -/
def invRangeOf (v : Dword) : Option (Nat × Nat) :=
  invRange (v.toNat % 2 ^ 52 / 2 ^ 16 * 2 ^ 16) (invCode v)

/-- INVREQ: a host write starts an invalidation; it is ignored while BUSY is 1 (R196). -/
def execInvreq (part : Nat) (value : Dword) (s : State) : Result :=
  if (s.part part).invreq.getLsbD 63 || !invSizeOk value then .next s
  else
    let (id, s) := s.fresh
    .next (s.modPart part fun p =>
      { p with
        invreq := invFields value ||| 0x8000000000000000
        invals := p.invals ++ [{ id, range := invRangeOf value, byHost := true }] })

/-- A team's partition. -/
def State.teamPart (s : State) (team : Nat) : Option Nat :=
  (s.teams.find? team).bind fun t => (s.grids.find? t.grid).map (·.part)

/-- A place reached through a page. -/
def Place.paged : Place → Bool
  | .mem _ => true
  | _ => false

/-- No access of the partition is in flight (R196): every load, store and copy made through a page has been
performed (log 37, DEDUCED). -/
def State.quiet (s : State) (part : Nat) : Bool :=
  (s.groups.cells.all fun (_, g) => s.partOf g != part || (g.vm.all (·.done) && g.flights.isEmpty)) &&
  s.cores.cells.all fun (_, k) => k.copies.all fun c =>
    s.teamPart c.team != some part || !c.moves.any fun m => m.src.paged || m.dst.paged

/-- TLBs and walk caches drop what an invalidation covers. -/
def State.dropEntries (s : State) (part : Nat) (r : Option (Nat × Nat)) : State :=
  let keep := fun (l : List TlbEntry) =>
    l.filter fun e => !(e.part == part && rangeMeets r e.base e.size)
  { s with
    cores := ⟨s.cores.cells.map fun (i, k) => (i, { k with tlb := keep k.tlb })⟩
    clusters := ⟨s.clusters.cells.map fun (i, k) => (i, { k with tlb := keep k.tlb })⟩
    dies := ⟨s.dies.cells.map fun (i, d) => (i, { d with wcache := d.wcache.filter fun e =>
      !(e.part == part && rangeMeets r (e.base * levelSize e.level) (levelSize e.level)) })⟩ }

/-- Change every group of a partition. -/
def State.mapGroups (s : State) (part : Nat) (f : Group → Group) : State :=
  { s with groups := ⟨s.groups.cells.map fun (i, g) => if s.partOf g == part then (i, f g) else (i, g)⟩ }

/-- Change every fibre of a group. -/
def Group.mapFibres (g : Group) (f : Fibre → Fibre) : Group :=
  { g with fibres := ⟨g.fibres.cells.map fun (l, x) => (l, f x)⟩ }

/-- Kept walk results that an invalidation covers are dropped (log 37, DEDUCED). -/
def State.dropWalks (s : State) (part : Nat) (r : Option (Nat × Nat)) : State :=
  let keep := fun (l : List WalkResult) => l.filter fun w => !rangeHas r (w.page * 2 ^ 16)
  let s := s.mapGroups part fun g => { g with walks := keep g.walks }
  let stream := fun (st : Stream) =>
    if (s.groups.find? st.owner).elim false fun g => s.partOf g == part then
      { st with walks := keep st.walks } else st
  { s with cores := ⟨s.cores.cells.map fun (i, k) => (i, { k with stream := k.stream.map stream })⟩ }

/-- A fibre parked on a page that the range covers goes back to its strand (R226). -/
def Fibre.resumePage (f : Fibre) (r : Option (Nat × Nat)) : Fibre :=
  if f.parked == some 0x0B && rangeHas r (f.trapAddr.toNat % 2 ^ 52) then { f with parked := none } else f

/-- Fibres parked on a page that the range covers replay their strand, walking afresh, and their page requests are no
longer waiting (R197, R226). -/
def State.resumePages (s : State) (part : Nat) (r : Option (Nat × Nat)) : State :=
  (s.mapGroups part fun g =>
    { g.mapFibres (fun f => f.resumePage r) with
      walks := g.walks.filter fun w => !(w.bad && rangeHas r (w.page * 2 ^ 16)) }).modPart part fun p =>
    { p with pages := p.pages.filter fun x => !rangeMeets r (x.2 * 2 ^ 16) (2 ^ 16) }

/-- The batches that wait in a `tlbinv` go on (R362). -/
def State.wakeTlbinv (s : State) (part id : Nat) : State :=
  s.mapGroups part fun g => g.mapFibres fun f =>
    if f.wait == some (.tlbinv id) then { f with wait := none } else f

/-- INVALIDATION_COMPLETE: the oldest invalidation of a partition is complete (R196). -/
def execInvalidationComplete (part : Nat) (s : State) : Result :=
  match (s.part part).invals with
  | [] => notNow "INVALIDATION_COMPLETE"
  | v :: rest =>
    if s.quiet part then
      let s := ((s.dropEntries part v.range).dropWalks part v.range).resumePages part v.range
      let s := s.modPart part fun p =>
        { p with
          invals := rest
          invreq := if v.byHost then p.invreq &&& 0x7FFFFFFFFFFFFFFF else p.invreq }
      .next (s.wakeTlbinv part v.id)
    else notNow "INVALIDATION_COMPLETE"

/-- PGRESUME: parked fibres replay, and nothing is invalidated; BUSY reads 0 (R226). -/
def execPgresume (part : Nat) (value : Dword) (s : State) : Result :=
  if invSizeOk value then
    .next ((s.resumePages part (invRangeOf value)).modPart part fun p =>
      { p with pgresume := invFields value })
  else .next s

end Sys2Proof.Machine
end

