-- ==== Sys2Proof/Machine/EvFeed.lean ====
section
/-! DEFINITION. The feed window and its packets (R377 to R382), FOLIO writes and markers. -/

namespace Sys2Proof.Machine

/-! ## The ring (R377) -/

/-- Bytes from HEAD to TAIL. -/
def Part.avail (p : Part) : Nat := countDiff p.feedTail p.feedHead

/-- Bytes of the packet at HEAD. -/
def Part.packet (p : Part) (n : Nat) : List Byte :=
  (List.range n).map fun i => p.feed.read ((p.feedHead.toNat + i) % 32768)

/-- HEAD moves past some bytes. -/
def Part.consume (p : Part) (n : Nat) : Part := { p with feedHead := p.feedHead + BitVec.ofNat 32 n }

/-- KIND, LEN and TAG of a packet. -/
def pktKind (bs : List Byte) : Nat := recField bs 0 1
def pktLen (bs : List Byte) : Nat := recField bs 2 2
def pktTag (bs : List Byte) : Word := BitVec.ofNat 32 (recField bs 4 4)
def pktWord (bs : List Byte) (off : Nat) : Dword := BitVec.ofNat 64 (recField bs off 8)

/-- The lengths that a kind admits, in 64-byte units (R380, R382): those of FEED are the ones that some element
size requires (log 35, DEDUCED). -/
def pktLens : Nat → List Nat
  | 1 => [4]
  | 2 => [1, 2, 3, 5]
  | _ => [1]

/-- A tag, 0 for none, names an outstanding packet or one of the last 4,096 that completed (R378). -/
def Part.knowsTag (p : Part) (tag : Word) : Bool :=
  tag != 0 && (p.tags.contains tag || p.doneTags.contains tag)

/-- The header rule that a packet breaks: its CODE (R378). -/
def Part.headerFault (p : Part) (bs : List Byte) : Option Nat :=
  let k := pktKind bs
  if !(1 ≤ k && k ≤ 4) then some 1
  else if !(pktLens k).contains (pktLen bs) then some 2
  else if recField bs 1 1 != 0 || (k == 2 && recField bs 0x0C 4 != 0) then some 3
  else if pktTag bs != 0 && p.knowsTag (pktTag bs) then some 5
  else none

/-- The launch queue as QREF names it. -/
def launchRef : Dword := 0x4000000000000000

/-- A handler packet of the clerks (R182): KIND 2 for a host packet, KIND 3 for a launch. -/
def clerkPacket (kind code : Nat) (party : Word) : Packet :=
  { kind := BitVec.ofNat 8 kind, code := BitVec.ofNat 8 code, detail := 0, party, qref := launchRef,
    pc := 0, observed := 0, core := 0, lane := 0 }

def State.refusePacket (s : State) (part code : Nat) : State := s.sendPacket part (clerkPacket 2 code 0)

/-- DONEADDR of a packet, by its kind: a FEED packet has none (R380, R382). -/
def pktDone (bs : List Byte) : Dword :=
  match pktKind bs with
  | 1 => pktWord bs 0x28
  | 3 => pktWord bs 0x20
  | 4 => pktWord bs 8
  | _ => 0

/-- A packet that breaks the header rules is refused: its handler packet, and STATUS 3 where its DONEADDR can be written
(R378, R385). -/
def State.refuseHeader (s : State) (part code : Nat) (bs : List Byte) : State :=
  let s := (s.refusePacket part code).noteDone part 0 (pktDone bs)
  if s.doneOk part (pktDone bs) then s.complete385 part (pktDone bs) 3 (pktTag bs) 0 else s

/-- Refuse and skip packets at HEAD that break the header rules (R378), with fuel for the ring. -/
def State.clerkRun (s : State) (part : Nat) : Nat → State
  | 0 => s
  | n + 1 =>
    let p := s.part part
    if 0 < p.feedSkip then
      if p.feedSkip ≤ p.avail then
        (s.modPart part fun p => { p.consume p.feedSkip with feedSkip := 0 }).clerkRun part n
      else s
    else if p.avail < 64 then s
    else
      let bs := p.packet 64
      match p.headerFault bs with
      | none => s
      | some code =>
        let s := s.refuseHeader part code bs
        let len := pktLen bs
        if len = 0 ∨ 512 < len then s.modPart part fun p => { p with feedHead := p.feedTail }
        else (s.modPart part fun p => { p with feedSkip := 64 * len }).clerkRun part n

/-- The clerks look at the window. -/
def State.clerk (s : State) (part : Nat) : State := s.clerkRun part (2 * (s.part part).avail / 64 + 2)

/-- FEEDTAIL (R377). -/
def execFeedtail (part : Nat) (value : Word) (s : State) : Result :=
  if value.toNat % 64 != 0 || 32768 < countDiff value (s.part part).feedHead then
    .next (s.refusePacket part 4)
  else .next ((s.modPart part fun p => { p with feedTail := value }).clerk part)

/-- The packet at HEAD, whole, if it is of a kind and breaks no header rule (R379). -/
def Part.ready (p : Part) (kind : Nat) : Option (List Byte) :=
  let bs := p.packet 64
  if p.feedSkip = 0 && 64 ≤ p.avail && (p.headerFault bs).isNone && pktKind bs == kind &&
      64 * pktLen bs ≤ p.avail then
    some (p.packet (64 * pktLen bs))
  else none

/-- The packet is consumed, and the clerks look on. -/
def State.consumed (s : State) (part n : Nat) : State :=
  (s.modPart part fun p => p.consume n).clerk part

/-- A packet becomes outstanding: its number, and its tag (R378). -/
def State.outstanding (s : State) (part : Nat) (tag : Word) : Nat × State :=
  let (num, s) := s.fresh
  (num, s.modPart part fun p =>
    { p with pending := p.pending ++ [num], tags := if tag = 0 then p.tags else tag :: p.tags })

/-! ## LAUNCH and MARKER (R188, R379, R380) -/

/-- The clerks' operation on a queue of the table (log 49, DESIGN CHOICE). -/
def clerkWait (part : Nat) (words : List Word) : QWait :=
  { party := .group 0, holder := { ctx := BitVec.ofNat 32 part, team := 0, group := 0 }, op := .enq,
    active := [0], lanes := [(0, words)], results := [], faults := [], pc := 0, core := 0, scope := .dev,
    qref := launchRef, args := none }

/-- The launch queue of a partition has room (R379). -/
def State.launchRoom (s : State) (part : Nat) : Bool :=
  let q := (s.qOpen (.mem (s.part part).qtable)).q
  q.corrupt.isNone && q.state == 0 && !q.full

/-- Copy a packet into the packet store and append a reference to the launch queue (R188). -/
def State.appendPacket (s : State) (part : Nat) (bs : List Byte) : State :=
  let p := s.part part
  let place := Place.mem p.qtable
  let i := (s.qOpen place).q.reserve
  let addr := p.store + 256 * (i.toNat % 256)
  let s := s.placeWrite (.mem addr) bs
  let (num, s) := s.outstanding part (pktTag bs)
  let s := s.modPart part fun p => { p with packetOf := p.packetOf ++ [(i.toNat, num)] }
  let (x, _) := (s.qOpen place).pass (clerkWait part
    [BitVec.ofNat 32 addr, BitVec.ofNat 32 (addr / 2 ^ 32), BitVec.ofNat 32 bs.length, 0])
  ({ x with h := { x.h with launchBy := x.h.launchBy.erase i.toNat } } : QSt).pump.done.clearRecord part place

/-- LAUNCH (R379, R380). -/
def execLaunch (part : Nat) (s : State) : Result :=
  match (s.part part).ready 1 with
  | some bs =>
    if s.launchRoom part then .next ((s.appendPacket part bs).consumed part bs.length)
    else notNow "LAUNCH"
  | none => notNow "LAUNCH"

/-- A packet is refused at intake: handler packet, and its completion word at once where its DONEADDR can be
written (R382, R385) (log 35, DEDUCED). -/
def State.refuseIntake (s : State) (part code : Nat) (done : Dword) (tag : Word) : State :=
  let s := s.refusePacket part code
  let s := if code = 9 then s else s.complete385 part done 3 tag 0
  s.packetDone part 0 tag

/-- MARKER (R379, R382). -/
def execMarker (part : Nat) (s : State) : Result :=
  match (s.part part).ready 4 with
  | some bs =>
    let done := pktWord bs 8
    if !s.doneOk part done then
      let s := s.noteDone part 0 done
      .next ((s.refuseIntake part 9 done (pktTag bs)).consumed part bs.length)
    else if s.launchRoom part then .next ((s.appendPacket part bs).consumed part bs.length)
    else notNow "MARKER"
  | none => notNow "MARKER"

/-- MARKER_COMPLETE (R382, R385). -/
def execMarkerComplete (part id : Nat) (s : State) : Result :=
  match (s.part part).markers.find? (·.id == id) with
  | none => notNow "MARKER_COMPLETE"
  | some m =>
    if m.before.isEmpty then
      let s := s.complete385 part m.done 1 m.tag 0
      let s := s.modPart part fun p => { p with markers := p.markers.filter (·.id != id) }
      .next (s.packetDone part id m.tag)
    else notNow "MARKER_COMPLETE"

/-! ## FEED (R174, R187, R382) -/

/-- What the clerks find at a FEED packet's queue: no open work queue for such a record, no room, or room (log
35, DEDUCED). -/
inductive FeedFate where
  | refused
  | full
  | room
deriving DecidableEq, Repr

/-- Judge a FEED packet. -/
def State.judgeFeed (s : State) (part : Nat) (bs : List Byte) : FeedFate :=
  let n := recField bs 8 4
  if n < 2 ∨ 63 < n then .refused
  else
    let q := (s.qOpen (.mem ((s.part part).qtable + 64 * n))).q
    if q.check != q.checkWord || q.corrupt.isSome || q.state != 0 || q.kind != 1 ||
        pktLen bs != (16 + 2 ^ q.esz + 63) / 64 then .refused
    else if q.full then .full else .room

/-- FEED: the record is appended to its work queue; a full queue stops the window. -/
def execFeed (part : Nat) (s : State) : Result :=
  match (s.part part).ready 2 with
  | some bs =>
    match s.judgeFeed part bs with
    | .refused => .next ((s.refusePacket part 7).consumed part bs.length)
    | .full => notNow "FEED"
    | .room =>
      let x := s.qOpen (.mem ((s.part part).qtable + 64 * recField bs 8 4))
      let n := 2 ^ x.q.esz
      let (x, _) := x.pass (clerkWait part (wordsOf (n / 4) ((bs.drop 16).take n)))
      .next ((x.pump.done.clearRecord part x.place).consumed part bs.length)
  | none => notNow "FEED"

/-! ## FOLIO (R111, R382) -/

/-- Two ranges overlap. -/
def rangesMeet (a al b bl : Nat) : Bool := a < b + bl && b < a + al

/-- Regions of the Folio in use: from admission of a grid until it is complete (R111). -/
def State.folioInUse (s : State) (part base len : Nat) : Bool :=
  s.grids.cells.any fun (_, g) => g.part == part && g.kernel.folio.any fun r => rangesMeet base len r.1 r.2

/-- A virtual range reads: every page of it is present and allows RD. -/
def State.rangeReads (s : State) (part va len : Nat) : Bool :=
  va + len ≤ 2 ^ 52 && (List.range (if len = 0 then 0 else (va + len - 1) / 2 ^ 16 - va / 2 ^ 16 + 1)).all fun i =>
    match s.walkPa part ((va / 2 ^ 16 + i) * 2 ^ 16) { rd := true } { code := 0 } with
    | .ok _ => true
    | .error _ => false

/-- The walks for the pages of a range: the first malformed entry leaves an error record (R194). -/
def State.noteRange (s : State) (part va len : Nat) : State :=
  if len = 0 ∨ 2 ^ 52 < va + len then s
  else
    match (List.range ((va + len - 1) / 2 ^ 16 - va / 2 ^ 16 + 1)).find? fun i =>
      walkMalformed (s.walkPa part ((va / 2 ^ 16 + i) * 2 ^ 16) { rd := true } { code := 0 }) with
    | some i =>
      let a := (va / 2 ^ 16 + i) * 2 ^ 16
      s.noteWalk part 0 a (s.walkPa part a { rd := true } { code := 0 })
    | none => s

/-- Bytes of a partition's Folio. -/
def Part.folioBytes (p : Part) : Nat := p.folio.length * Config.bankGroupBytes

/-- The CODE with which a FOLIO packet is refused (log 35, DEDUCED). -/
def State.folioRefusal (s : State) (part : Nat) (bs : List Byte) : Option Nat :=
  let dest := (pktWord bs 8).toNat
  let src := (pktWord bs 0x10).toNat
  let len := (pktWord bs 0x18).toNat
  if !s.doneOk part (pktWord bs 0x20) then some 9
  else if dest % 32 != 0 || src % 32 != 0 || len % 32 != 0 || (s.part part).folioBytes < dest + len ||
      !s.rangeReads part src len then some 8
  else if s.folioInUse part dest len then some 6
  else none

/-- FOLIO: the clerks accept the packet or refuse it whole. -/
def execFolio (part : Nat) (s : State) : Result :=
  match (s.part part).ready 3 with
  | some bs =>
    let tag := pktTag bs
    match s.folioRefusal part bs with
    | some code =>
      let s := (s.noteDone part 0 (pktWord bs 0x20)).noteRange part (pktWord bs 0x10).toNat (pktWord bs 0x18).toNat
      .next ((s.refuseIntake part code (pktWord bs 0x20) tag).consumed part bs.length)
    | none =>
      let (num, s) := s.outstanding part tag
      let w : FolioWrite :=
        { id := num, tag, dest := (pktWord bs 8).toNat, src := (pktWord bs 0x10).toNat,
          len := (pktWord bs 0x18).toNat, done := pktWord bs 0x20 }
      .next ((s.modPart part fun p => { p with folios := p.folios ++ [w] }).consumed part bs.length)
  | none => notNow "FOLIO"

/-- Where a partition's Folio offset lies: physical bank group × 2^30 + offset. -/
def Part.folioAddr (p : Part) (off : Nat) : Nat :=
  p.folio.getD (off / Config.bankGroupBytes) 0 * Config.bankGroupBytes + off % Config.bankGroupBytes

/-- Write one sector of the Folio (R112). -/
def State.folioSector (s : State) (addr : Nat) (bs : List Byte) (poison : Bool) : State :=
  { s with
    folio := bs.zipIdx.foldl (fun m (b, i) => m.write (addr + i) b) s.folio
    folioPoison := nset poison (addr / 32) s.folioPoison
    upsets := { s.upsets with folio := s.upsets.folio.filter (· != addr / 32) } }

/-- Copy one sector: true where its source cannot be read. -/
def State.folioCopy (s : State) (part src dest : Nat) : State × Bool :=
  let a := (s.part part).folioAddr dest
  match s.walkPa part src { rd := true } { code := 0 } with
  | .ok pa => (s.folioSector a (s.homeBytes pa 32) (s.homePoison pa 32), false)
  | .error _ =>
    let bs := (List.range 32).map fun i => Config.folioByte (s.free + i)
    (({ s with free := s.free + 32 } : State).folioSector a bs true, true)

/-- Copy the sectors of a FOLIO write, and the first source address that could not be read. -/
def State.folioRun (s : State) (part : Nat) (w : FolioWrite) : State × Option Nat :=
  (List.range (w.len / 32)).foldl (fun (s, bad) i =>
    let (s, b) := s.folioCopy part (w.src + 32 * i) (w.dest + 32 * i)
    (s, if b && bad.isNone then some (w.src + 32 * i) else bad)) (s, none)

/-- FOLIO_WRITE_COMPLETE (R382, R385). -/
def execFolioWriteComplete (part id : Nat) (s : State) : Result :=
  match (s.part part).folios.find? (·.id == id) with
  | none => notNow "FOLIO_WRITE_COMPLETE"
  | some w =>
    let (s, bad) := s.folioRun part w
    let s := s.noteRange part w.src w.len
    let s := match bad with
      | some a => s.errorRecord part 0 13 0 (BitVec.ofNat 64 (2 ^ 60 + a)) 0 0 0 0
      | none => s
    let s := s.modPart part fun p => { p with folios := p.folios.filter (·.id != id) }
    .next ((s.complete385 part w.done (if bad.isSome then 4 else 1) w.tag 0).packetDone part id w.tag)

end Sys2Proof.Machine
end

