-- ==== Sys2Proof/Machine/Room.lean ====
section
/-! DEFINITION. Room on the cores of a partition (R9, R11, R12, R36, R122, R423), the start of a team and of
its groups (R71, R77, R80, R123), and the order in which grids are placed (R384, R388). -/

namespace Sys2Proof.Machine

/-! ## The shape of a team -/

/-- One group of a team as its kernel declares it, with TLANE of its lane 0 (R13). -/
structure GroupSpec where
  role   : Nat
  index  : Nat
  width  : Nat
  vregs  : Nat
  kregs  : Nat
  tlane0 : Nat
deriving DecidableEq, Repr

/-- The groups of a team in TLANE order. -/
def Kernel.groupSpecs (k : Kernel) : List GroupSpec :=
  let all := k.roles.zipIdx.flatMap fun (r, n) => (List.range r.count).map fun i =>
    ({ role := n, index := i, width := r.width, vregs := r.vregs, kregs := r.kregs, tlane0 := 0 } : GroupSpec)
  (all.foldl (fun (acc : List GroupSpec × Nat) g =>
    (acc.1 ++ [{ g with tlane0 := acc.2 }], acc.2 + g.width)) ([], 0)).1

/-- Lanes of a team. -/
def Kernel.lanes (k : Kernel) : Nat := (k.roles.map fun r => r.width * r.count).sum

/-- Which team core takes each group (R423): `q` lanes at most on each but the last of `n`. -/
def divide (q n : Nat) : List Nat → (cur load : Nat) → List Nat
  | [], _, _ => []
  | w :: r, cur, load =>
    if q < load + w ∧ cur + 1 < n then (cur + 1) :: divide q n r (cur + 1) w
    else cur :: divide q n r cur (load + w)

/-- The team core of each group of a kernel. -/
def Kernel.division (k : Kernel) : List Nat :=
  divide ((k.lanes + k.cores - 1) / k.cores) k.cores (k.groupSpecs.map (·.width)) 0 0

/-- The groups that one team core takes. -/
def Kernel.onCore (k : Kernel) (i : Nat) : List GroupSpec :=
  ((k.groupSpecs.zip k.division).filter fun x => x.2 == i).map (·.1)

/-- Least common multiple of 1 KiB times the cores and 2^e. -/
def scratchStep (n e : Nat) : Nat := n * 1024 / Nat.gcd (n * 1024) (2 ^ e) * 2 ^ e

/-- The allocation for a requested size (R122): the smallest Z that Z/n is a multiple of 1 KiB and Z is a
capability length. -/
def roundScratch (req n : Nat) : Nat :=
  if req = 0 then 0
  else
    let zs := (List.range 45).filterMap fun e =>
      let step := scratchStep n e
      let z := (req + step - 1) / step * step
      if z ≤ 256 * 2 ^ e then some z else none
    zs.foldl min (zs.headD 0)

/-! ## Room on a core -/

/-- What stands on a core: groups, lanes, blocks of its file (first column, columns, first row, rows),
segments (first word, words), a matrix team, data banks in service, and whether it admits a team (R133). -/
structure Room where
  groups : Nat
  lanes  : Nat
  blocks : List (Nat × Nat × Nat × Nat)
  segs   : List (Nat × Nat)
  isMatrix : Bool
  banks  : Nat
  admits : Bool
deriving DecidableEq, Repr

/-- A core with nothing on it. -/
def Core.emptyRoom (k : Core) : Room :=
  { groups := 0, lanes := 0, blocks := [], segs := [], isMatrix := false, banks := k.pad.service.length,
    admits := k.pad.lost.isEmpty }

/-- Words of a team's segment. -/
def Team.segWords (t : Team) : Nat := t.z / t.cores.length / 16

/-- A core as it stands, the teams of some grids left out. -/
def State.room (s : State) (core : Nat) (without : List Nat := []) : Room :=
  let here := s.teams.cells.filter fun (_, t) => t.cores.contains core && !without.contains t.grid
  let gs := s.groups.cells.filter fun (_, g) => g.core == core && here.any fun t => t.1 == g.team
  { (s.core core).emptyRoom with
    groups := gs.length
    lanes := (gs.map fun g => g.2.width).sum
    blocks := gs.map fun (_, g) => (g.col0, g.width / 8, g.row0, g.vregs)
    segs := here.filterMap fun (_, t) =>
      if t.z = 0 then none else some (t.segs.getD (t.cores.findIdx (· == core)) 0, t.segWords)
    isMatrix := here.any fun (_, t) => t.isMatrix }

/-- A block of a core's file: first column, columns, first row, rows. -/
abbrev Area := Nat × Nat × Nat × Nat

/-- Two runs meet. -/
def runsMeet (a n b m : Nat) : Bool := a < b + m && b < a + n

/-- A block lies within the file and beside the others (R12). -/
def Area.clear (x : Area) (blocks : List Area) : Bool :=
  x.2.2.1 + x.2.2.2 ≤ 4096 && !blocks.any fun b =>
    runsMeet x.1 x.2.1 b.1 b.2.1 && runsMeet x.2.2.1 x.2.2.2 b.2.2.1 b.2.2.2

/-- A place, row and column, comes before another. -/
def placeBefore (a b : Nat × Nat) : Bool := a.1 < b.1 || (a.1 == b.1 && a.2 < b.2)

/-- The places, row and column, at which a group of some columns and rows can rest: on row 0 or on the end of a block
below it, at a column that is a multiple of its own (R12); those first that come first. -/
def restPlaces (blocks : List Area) (cols rows : Nat) : List (Nat × Nat) :=
  let ends := (0 :: blocks.map fun b => b.2.2.1 + b.2.2.2).foldl (fun l r => ninsert r l) []
  ends.flatMap fun r => ((List.range (8 / cols)).map fun j => (r, j * cols)).filter fun p =>
    Area.clear (p.2, cols, r, rows) blocks

/-- Columns times rows that blocks take. -/
def areaOf (blocks : List Area) : Nat := (blocks.map fun b => b.2.1 * b.2.2.2).sum

/-- A group to be placed: its number, columns and rows. -/
abbrev Piece := Nat × Nat × Nat

/-- The first piece of each shape. -/
def distinctPieces (l : List Piece) : List Piece :=
  l.foldl (fun acc x => if acc.any fun y => y.2 == x.2 then acc else acc ++ [x]) []

/-- Places for pieces beside blocks (R12): none only where there are none. Pieces that can stand at all can be pushed down
until each rests on row 0 or on a block below it, and are found here in the order of their places, from one place
on. -/
def packPieces : Nat → List Area → List Piece → Nat × Nat → Option (List (Nat × Nat × Nat))
  | 0, _, rest, _ => if rest.isEmpty then some [] else none
  | n + 1, blocks, rest, last =>
    if rest.isEmpty then some []
    else if 8 * 4096 < areaOf blocks + (rest.map fun x => x.2.1 * x.2.2).sum then none
    else (distinctPieces rest).findSome? fun x =>
      ((restPlaces blocks x.2.1 x.2.2).filter fun p => !placeBefore p last).findSome? fun p =>
        (packPieces n (blocks ++ [(p.2, x.2.1, p.1, x.2.2)]) (rest.erase x) p).map ((x.1, p.2, p.1) :: ·)

/-- First word for a segment: at a stripe boundary (R122) (log 40, DESIGN CHOICE). -/
def freeSeg (segs : List (Nat × Nat)) (banks words : Nat) : Option Nat :=
  if words = 0 then some 0
  else
    let ok := fun (w : Nat) => decide (w + words ≤ banks * 1536) &&
      !segs.any fun u => w < u.1 + u.2 && u.1 < w + words
    ((0 :: segs.map fun u => (u.1 + u.2 + banks - 1) / banks * banks).filter ok).head?

/-- Column and first row for each of some groups, given by width and rows: none where they do not all fit beside those of
the core (R9, R12) (log 40, DESIGN CHOICE). -/
def Room.packGroups (r : Room) (gs : List (Nat × Nat)) : Option (List (Nat × Nat)) :=
  if 64 < r.groups + gs.length ∨ 4096 < r.lanes + (gs.map (·.1)).sum then none
  else (packPieces gs.length r.blocks (gs.zipIdx.map fun (g, i) => (i, g.1 / 8, g.2)) (0, 0)).map fun l =>
    (List.range gs.length).map fun i => ((l.find? fun x => x.1 == i).map (·.2)).getD (0, 0)

/-- What a team needs of each of its cores, its segment in words, and whether it is a matrix team. -/
structure TeamNeed where
  items    : List (List (Nat × Nat))
  segWords : Nat
  isMatrix : Bool
deriving DecidableEq, Repr

/-- What a team needs of one core. -/
structure CoreNeed where
  items    : List (Nat × Nat)
  segWords : Nat
  isMatrix : Bool
deriving DecidableEq, Repr

/-- What a team needs, by team core. -/
def TeamNeed.parts (n : TeamNeed) : List CoreNeed :=
  n.items.map fun i => { items := i, segWords := n.segWords, isMatrix := n.isMatrix }

/-- What a fresh team of a kernel needs. -/
def Kernel.need (k : Kernel) : TeamNeed :=
  { items := (List.range k.cores).map fun i => (k.onCore i).map fun g => (g.width, g.vregs)
    segWords := roundScratch k.scratch k.cores / k.cores / 16, isMatrix := k.isMatrix }

/-- Where a team goes on one of its cores: column and first row of each group, and the first word of its segment. -/
abbrev Fit := List (Nat × Nat) × Nat

/-- First words for the segments of some teams. -/
def Room.packSegs (r : Room) : List CoreNeed → Option (List Nat)
  | [] => some []
  | n :: rest => match freeSeg r.segs r.banks n.segWords with
    | none => none
    | some w =>
      (({ r with segs := if n.segWords = 0 then r.segs else r.segs ++ [(w, n.segWords)] } : Room).packSegs rest).map
        (w :: ·)

/-- A list cut into pieces of some lengths. -/
def cutBy {α : Type} : List Nat → List α → List (List α)
  | [], _ => []
  | n :: r, l => l.take n :: cutBy r (l.drop n)

/-- Room on one core for its part of some teams together (R9, R12, R36, R122, R133): where they go. -/
def Room.admitAll (r : Room) (ns : List CoreNeed) : Option (List Fit) :=
  if !r.admits || 1 < (ns.filter (·.isMatrix)).length + (if r.isMatrix then 1 else 0) then none
  else
    match r.packSegs ns, r.packGroups (ns.flatMap (·.items)) with
    | some ws, some spots => some ((cutBy (ns.map (·.items.length)) spots).zip ws)
    | _, _ => none

/-- Choices of n entries of a list, in order. -/
def combos : Nat → List Nat → List (List Nat)
  | 0, _ => [[]]
  | _ + 1, [] => []
  | n + 1, x :: r => (combos n r).map (x :: ·) ++ combos (n + 1) r

/-- The sets of n cores of one cluster of a partition, in ascending logical order (R11). -/
def Part.coreSets (p : Part) (n : Nat) : List (List Nat) :=
  (dedup (p.cores.map clusterOf)).flatMap fun c => combos n (p.cores.filter fun k => clusterOf k == c)

/-- Rooms of a partition by core. -/
abbrev Rooms := Tab Room

/-- What teams that are to be placed together need of each core. -/
abbrev Held := Tab (List CoreNeed)

/-- A team on some cores with those that are held already: none where one of the cores has no room for them all. -/
def Rooms.hold (rooms : Rooms) (held : Held) (n : TeamNeed) (cs : List Nat) : Option Held :=
  let held := (cs.zip n.parts).foldl (fun (t : Held) (c, p) => t.put [] c (t.get [] c ++ [p])) held
  let ok := fun (c : Nat) => (rooms.find? c).any fun (r : Room) => (r.admitAll (held.get [] c)).isSome
  if cs.length = n.items.length && cs.all ok then some held else none

/-- Sets of cores for teams that need the same, of those of a list in its order: none where they do not all fit. -/
def Rooms.assignSame (rooms : Rooms) (n : TeamNeed) : Nat → List (List Nat) → Held → Option (List (List Nat))
  | 0, _, _ => some []
  | k + 1, sets, held => (List.range sets.length).findSome? fun i =>
    match sets.drop i with
    | [] => none
    | cs :: rest => match rooms.hold held n cs with
      | some held => (rooms.assignSame n k (cs :: rest) held).map (cs :: ·)
      | none => none

/-- Sets of cores for teams that each have their own need. -/
def Rooms.assignEach (rooms : Rooms) (sets : TeamNeed → List (List Nat)) : List TeamNeed → Held → Option (List (List Nat))
  | [], _ => some []
  | n :: rest, held => (sets n).findSome? fun cs => match rooms.hold held n cs with
    | some held => (rooms.assignEach sets rest held).map (cs :: ·)
    | none => none

/-- The most teams, up to k, that fit on the cores of one cluster, by their sets of cores: those that j of them take are
known. -/
def Rooms.mostOf (rooms : Rooms) (n : TeamNeed) (sets : List (List Nat)) : Nat → Nat → List (List Nat) → List (List Nat)
  | 0, _, found => found
  | k + 1, j, found => match rooms.assignSame n (j + 1) sets ⟨[]⟩ with
    | some l => rooms.mostOf n sets k (j + 1) l
    | none => found

/-- The most teams, up to k, that fit on sets of cores, cluster by cluster (R384): all teams need the same. -/
def Rooms.most (rooms : Rooms) (n : TeamNeed) (sets : List (List Nat)) (k : Nat) : List (List Nat) :=
  (dedup (sets.map fun cs => clusterOf (cs.headD 0))).foldl (fun found c =>
    found ++ rooms.mostOf n (sets.filter fun cs => clusterOf (cs.headD 0) == c)
      (min (k - found.length) 4096) 0 []) []

/-- Sets of cores for all of some teams, those of the same need cluster by cluster. -/
def Rooms.assign (rooms : Rooms) (sets : TeamNeed → List (List Nat)) (ns : List TeamNeed) : Option (List (List Nat)) :=
  match ns with
  | [] => some []
  | n :: _ =>
    if ns.all (· == n) then
      let found := rooms.most n (sets n) ns.length
      if found.length = ns.length then some found else none
    else rooms.assignEach sets ns ⟨[]⟩

/-- Where teams on some cores go together: by team and team core. -/
def Rooms.plan (rooms : Rooms) (ts : List (TeamNeed × List Nat)) : Option (List (List Fit)) :=
  match ts.foldl (fun (h : Option Held) (n, cs) => h.bind fun h => rooms.hold h n cs) (some ⟨[]⟩) with
  | none => none
  | some held =>
    some (ts.zipIdx.map fun ((_, cs), j) => cs.map fun c =>
      let before := ((ts.take j).filter fun x => x.2.contains c).length
      let fits := ((rooms.find? c).bind fun r => r.admitAll (held.get [] c)).getD []
      fits.getD before ([], 0))

/-- Rooms of a partition, empty or as they stand. -/
def State.rooms (s : State) (part : Nat) (empty : Bool) (without : List Nat := []) : Rooms :=
  (s.part part).cores.foldl (fun (t : Rooms) c =>
    t.insert c (if empty then (s.core c).emptyRoom else s.room c without)) ⟨[]⟩

/-- Sets of cores on which up to k teams fit together. -/
def State.packTeams (s : State) (part : Nat) (n : TeamNeed) (k : Nat) (empty : Bool)
    (without : List Nat := []) : List (List Nat) :=
  Rooms.most (s.rooms part empty without) n ((s.part part).coreSets n.items.length) k

/-! ## Zeroing a segment (R123) -/

/-- Words of the banks of one parity group in a row: as they read, 0 where the row's first `part` service
banks are zeroed. -/
def Spad.zeroRow (p : Spad) (row part : Nat) : Spad :=
  let hit := p.service.take part
  (List.range 16).foldl (fun (p : Spad) g =>
    let bs := [4 * g, 4 * g + 1, 4 * g + 2, 4 * g + 3]
    let old := bs.map fun b => p.wordOf b row
    let new := (bs.zip old).map fun (b, w) => if hit.contains b then (b, 0) else (b, w)
    let words := new.foldl (fun (t : Tab Granule) (b, w) =>
      if p.retired.contains b then t else t.put 0 (padKey b row) w) p.words
    let parity := new.foldl (fun x (_, w) => x ^^^ w) (0 : Granule)
    { p with words := if p.retired.contains (64 + g) then words
        else words.put 0 (padKey (64 + g) row) parity }) p

/-- Every word of a segment is written 0, its tag and poison cleared, and the parity rows follow: nothing that waits at
the banks for these rows is left of an earlier team. -/
def Spad.zeroSegment (p : Spad) (start words : Nat) : Spad :=
  let banks := p.service.length
  let r0 := start / banks
  let full := words / banks
  let part := words % banks
  let inside := fun (k : Nat) =>
    let row := k % 1536
    (r0 ≤ row && row < r0 + full) ||
      (row == r0 + full && (p.service.take part).contains (k / 1536))
  let p := if part = 0 then p else p.zeroRow (r0 + full) part
  let rows := fun (row : Nat) => r0 ≤ row && row < r0 + full + (if part = 0 then 0 else 1)
  let parityRow := fun (k : Nat) => 64 ≤ k / 1536 && r0 ≤ k % 1536 && k % 1536 < r0 + full
  { p with
    reqs := p.reqs.filter fun r => !rows r.row
    updates := ⟨(p.updates.cells.map fun u => (u.1, u.2.filter fun e => !rows e.1)).filter fun u => !u.2.isEmpty⟩
    words := ⟨p.words.cells.filter fun c => !(inside c.1 || parityRow c.1)⟩
    tags := p.tags.filter fun k => !inside k
    poison := p.poison.filter fun k => !inside k
    ue := p.ue.filter fun k => !(inside k || parityRow k)
    ce := p.ce.filter fun k => !(inside k || parityRow k) }

/-! ## The start of a team -/

/-- k0 to k15 of a group (R77). -/
def startScalars (gr : Grid) (team : Nat) (g : GroupSpec) : Tab Elem :=
  let ws : List Word := [BitVec.ofNat 32 team, BitVec.ofNat 32 gr.teams, BitVec.ofNat 32 g.index,
    BitVec.ofNat 32 g.role] ++ gr.scalars
  ws.zipIdx.foldl (fun (t : Tab Elem) (w, i) => t.put Elem.zero i { bits := w, poison := false }) ⟨[]⟩

/-- c0: the team's allocation, with LD, ST, AT, CL, CS and Q; nothing where there is none (R80). -/
def padCap (z : Nat) : Cap := if z = 0 then Cap.null else Cap.spanning 2 0x5F 0 z

/-- c0 to c7 of a group (R80). -/
def startCaps (gr : Grid) (z : Nat) : Tab Cap :=
  (padCap z :: gr.caps).zipIdx.foldl (fun (t : Tab Cap) (c, i) => t.put Cap.null i c) ⟨[]⟩

/-- A group as it starts (R14, R71, R77, R80). -/
def startGroup (gr : Grid) (team index core z : Nat) (g : GroupSpec) (spot : Nat × Nat) :
    Group :=
  { team, role := g.role, index := g.index, width := g.width, vregs := g.vregs, kregs := g.kregs,
    tlane0 := g.tlane0, core, row0 := spot.2, col0 := spot.1, rows := ⟨[]⟩, tags := ⟨[]⟩, quads := [],
    near := ⟨[]⟩, nearTags := ⟨[]⟩, nearValid := [], k := startScalars gr index g, c := startCaps gr z,
    fibres := ⟨(List.range g.width).map fun l => (l, Fibre.start gr.kernel.entry 0 0)⟩,
    active := false, waiting := none, lastHdr := 0, vm := [], ci := [], co := [], fx := [], flights := [],
    pending := [], energyHi := 0, busy := [], walks := [], sampled := [], old := [] }

/-- Add a group to the machine. -/
def State.addGroup (s : State) (g : Group) : Nat × State :=
  let (id, s) := s.fresh
  (id, s.setGroup id g)

/-- Start the groups of a team core. -/
def State.startOn (s : State) (gr : Grid) (team index core z : Nat) (gs : List (GroupSpec × Nat × Nat)) :
    State :=
  gs.foldl (fun s (g, spot) =>
    let (id, s) := s.addGroup (startGroup gr team index core z g spot)
    s.modTeam team fun t => { t with groups := t.groups ++ [id] }) s

/-- A core is made ready for a team: its segment is zeroed, and the tiles of a matrix team stand at their
start (R83, R123). -/
def Core.ready (k : Core) (seg words : Nat) (isMatrix : Bool) : Core :=
  let k := if words = 0 then k else { k with pad := k.pad.zeroSegment seg words }
  if isMatrix then { k with tiles := ⟨[]⟩, tileTags := ⟨[]⟩ } else k

/-- The slice that a context receives (R217, R389): class 0 has none. -/
def Grid.grantSlice (g : Grid) (len : Nat) : Grid :=
  if g.cls = 0 then g else { g with slice := len - g.debt, debt := g.debt - min g.debt len }

/-- Start a team of a grid on some cores, where it has been found to fit. The clean L1 blocks of its cores go, so that it sees
what has been written before it starts (R373, R376, R385). -/
def State.startTeam (s : State) (key : Nat) (gr : Grid) (index : Nat) (cores : List Nat)
    (fit : List Fit) : State :=
  let z := roundScratch gr.kernel.scratch gr.kernel.cores
  let segs := fit.map (·.2)
  let (id, s) := s.fresh
  let t : Team :=
    { grid := key, index, cores, segs, z, isMatrix := gr.kernel.isMatrix, groups := [], bars := ⟨[]⟩,
      started := s.time, kill := none, killed := false, drain := false, unlinked := [] }
  let s := s.setTeam id t
  let s := (cores.zip segs).foldl (fun s (c, w) =>
    (s.acquireL1 c).modCore c fun k => k.ready w t.segWords t.isMatrix) s
  let s := (cores.zip fit).zipIdx.foldl (fun s ((c, x), i) =>
    s.startOn gr id index c z ((gr.kernel.onCore i).zip x.1)) s
  s.modGrid key fun g =>
    let g := if g.status = .admitted then g.grantSlice (s.part g.part).slice else g
    { g with status := .running, unplaced := nerase index g.unplaced, lastLive := s.time }

/-! ## Which grid is placed next (R384, R388) -/

/-- The conditions of R384. -/
def State.gridReady (s : State) (g : Grid) : Bool :=
  let p := s.part g.part
  g.afterTag.isNone &&
  g.notBefore.all (fun t => t ≤ s.time) &&
  g.kernel.folio.all fun r => !p.folios.any fun w => rangesMeet r.1 r.2 w.dest w.len

/-- The grid has teams to be placed, or a saved image: it holds back the grids after it, while it is being pre-empted
too (R388). -/
def Grid.holdsBack (g : Grid) : Bool := g.status != .killed && (!g.unplaced.isEmpty || g.status == .saved)

/-- The grid waits for room. -/
def Grid.wantsRoom (g : Grid) : Bool := g.preempt.isNone && g.holdsBack

/-- A grid comes before another in the order of placement. -/
def Grid.before (a b : Grid) : Bool := a.cls < b.cls || (a.cls == b.cls && a.order < b.order)

/-- The grid is the next of its partition to be placed (R388). -/
def State.placeNext (s : State) (key : Nat) (g : Grid) : Bool :=
  g.wantsRoom && s.gridReady g && s.grids.cells.all fun (k, h) =>
    k == key || h.part != g.part || !(h.holdsBack && s.gridReady h && h.before g)

/-- Cut a list into runs of n. -/
def runsOf (n : Nat) : Nat → List Nat → List (List Nat)
  | 0, _ => []
  | k + 1, l => l.take n :: runsOf n k (l.drop n)

/-- Place teams together: none where the cores do not suit or have no room. -/
def State.placeTeams (s : State) (key : Nat) (ts : List (Nat × List Nat)) : Option State :=
  match s.grids.find? key with
  | none => none
  | some gr =>
    let sets := (s.part gr.part).coreSets gr.kernel.cores
    if ts.all fun x => sets.contains x.2 then
      (Rooms.plan (s.rooms gr.part false) (ts.map fun x => (gr.kernel.need, x.2))).map fun fits =>
        (ts.zip fits).foldl (fun s ((i, cs), fit) => s.startTeam key gr i cs fit) s
    else none

/-- TEAM_PLACEMENT (R10, R384, R388): the next team of a grid, or all the teams of a co-resident grid, on the
cores that the curator has chosen. -/
def execTeamPlacement (key : Nat) (cores : List Nat) (s : State) : Result :=
  match s.grids.find? key with
  | none => notNow "TEAM_PLACEMENT"
  | some gr =>
    let n := gr.kernel.cores
    let next := if gr.coresident then gr.unplaced else gr.unplaced.take 1
    if s.placeNext key gr && gr.status != .saved && cores.length == n * next.length then
      match s.placeTeams key (next.zip (runsOf n next.length cores)) with
      | some s => .next s
      | none => notNow "TEAM_PLACEMENT"
    else notNow "TEAM_PLACEMENT"

end Sys2Proof.Machine
end

