-- ==== Sys2Proof/Machine/EvLaunch.lean ====
section
/-! DEFINITION. The scheduler takes launches (R188, R189, R381 to R386). -/

namespace Sys2Proof.Machine

/-! ## Reading through the page tables at `.sys` -/

/-- Bytes of a virtual range, whose ends are multiples of 16: none where a page does not allow RD or a granule
is poisoned. -/
def State.readVirtual (s : State) (part va n : Nat) : Option (List Byte) :=
  if va % 16 = 0 ∧ va + n ≤ 2 ^ 52 then
    (List.range (n / 16)).foldl (fun acc i =>
      match acc, s.walkPa part (va + 16 * i) { rd := true } { code := 0 } with
      | some bs, .ok pa => if s.placePoison (.mem pa) 16 then none else some (bs ++ s.homeBytes pa 16)
      | _, _ => none) (some [])
  else none

/-! ## The kernel descriptor (R381) -/

/-- Bytes of a range are all zero. -/
def zeroBytes (bs : List Byte) (off n : Nat) : Bool := ((bs.drop off).take n).all (· == 0)

/-- ROLE n. -/
def roleOf (bs : List Byte) (n : Nat) : Role :=
  let w := recField bs (0x20 + 8 * n) 8
  { width := w % 256, count := w / 2 ^ 8 % 2 ^ 16, vregs := w / 2 ^ 24 % 2 ^ 16, kregs := w / 2 ^ 40 % 256 }

/-- The kernel of a descriptor. -/
def kernelOf (bs : List Byte) : Kernel :=
  { entry := BitVec.ofNat 52 (recField bs 0 8)
    trapBase := pktWord bs 8
    code := Cap.spanning 5 0x20 (recField bs 0x10 8) (recField bs 0x18 8)
    roles := (List.range 4).map (roleOf bs)
    scratch := recField bs 0x40 4
    isMatrix := recField bs 0x44 1 / 8 % 2 == 1
    cores := recField bs 0x44 1 % 8
    acc := pktWord bs 0x48
    ttime := recField bs 0x50 4
    folio := (List.range (recField bs 0x54 1)).map fun i =>
      (recField bs (0x60 + 16 * i) 8, recField bs (0x68 + 16 * i) 8) }

/-- The descriptor keeps its layout: reserved bits are zero, NFOLIO is at most 8, ENTRY is 8-byte aligned,
TRAPBASE 256-byte aligned, and the code region has an encoding (R381, R206) (log 35, DEDUCED). -/
def layoutOk (bs : List Byte) : Bool :=
  (List.range 4).all (fun n => recField bs (0x26 + 8 * n) 2 == 0) &&
  recField bs 0x44 1 / 16 == 0 && zeroBytes bs 0x45 3 && zeroBytes bs 0x55 11 && zeroBytes bs 0xE0 32 &&
  recField bs 0x54 1 ≤ 8 && recField bs 0 8 % 8 == 0 && recField bs 0 8 < 2 ^ 52 &&
  recField bs 8 8 % 256 == 0 && recField bs 8 8 < 2 ^ 52 && (kernelOf bs).code.tag

/-- A role keeps the limits of R9. -/
def Role.ok (r : Role) : Bool :=
  r.count == 0 ||
    ([8, 16, 32, 64].contains r.width && 8 ≤ r.vregs && r.vregs ≤ 4096 && r.vregs % 8 == 0 && r.kregs ≤ 96)

/-- A core with nothing on it and every bank in service. -/
def Room.empty : Room :=
  { groups := 0, lanes := 0, blocks := [], segs := [], isMatrix := false, banks := 64, admits := true }

/-- Lanes of some groups. -/
def lanesOf (gs : List GroupSpec) : Nat := (gs.map (·.width)).sum

/-- The kernel keeps the limits of R9, on each core of the division too (R423). -/
def Kernel.limitsOk (k : Kernel) : Bool :=
  k.roles.all Role.ok && (k.roles.any fun r => r.count != 0) && 1 ≤ k.cores && k.cores ≤ 4 &&
  k.lanes ≤ 2048 && (List.range k.cores).all fun i =>
    lanesOf (k.onCore i) ≤ 1024 &&
      (Room.empty.packGroups ((k.onCore i).map fun g => (g.width, g.vregs))).isSome

/-! ## Capability requests (R380) -/

/-- A capability that the clerks mint: the null capability for a request of space 0, none for one that is
refused. Folio regions bound the requests of space 3 (R111), single entries of the queue table those of space
4 (R187). -/
def mint (regions : List (Nat × Nat)) (w0 w1 : Nat) : Option Cap :=
  let space := w0 / 2 ^ 52 % 8
  let base := w0 % 2 ^ 52
  let len := w1 % 2 ^ 52
  if w0 / 2 ^ 55 ≠ 0 ∨ w1 / 2 ^ 59 ≠ 0 then none
  else
    let c := Cap.spanning space (w1 / 2 ^ 52 % 128) base len
    let inside := match space with
      | 1 => true
      | 3 => regions.any fun r => r.1 ≤ base && base + len ≤ r.1 + r.2
      | 4 => base % 64 == 0 && len == 64 && base + len ≤ 4096
      | _ => false
    if space = 0 then some Cap.null else if inside && c.tag then some c else none

/-- c1 to c7 of a packet. -/
def mintAll (bs : List Byte) (regions : List (Nat × Nat)) : Option (List Cap) :=
  (List.range 7).foldl (fun acc i =>
    match acc, mint regions (recField bs (0x60 + 16 * i) 8) (recField bs (0x68 + 16 * i) 8) with
    | some l, some c => some (l ++ [c])
    | _, _ => none) (some [])

/-! ## Checking a LAUNCH packet (R383) -/

/-- Bits of word 0x14. -/
def launchFlag (bs : List Byte) (i : Nat) : Bool := recField bs 0x14 1 / 2 ^ i % 2 == 1

/-- Reserved bits outside the header. -/
def packetReserved (bs : List Byte) : Bool :=
  recField bs 0x14 4 / 2 ^ 6 != 0 || recField bs 0x1C 4 != 0 || !zeroBytes bs 0xD0 48

/-- The kernel descriptor of a packet: none where it cannot be read or breaks its layout. -/
def State.descriptor (s : State) (part : Nat) (bs : List Byte) : Option Kernel :=
  let a := recField bs 8 8
  if a % 256 != 0 || packetReserved bs then none
  else match s.readVirtual part a 256 with
    | some d => if layoutOk d then some (kernelOf d) else none
    | none => none

/-- Capabilities and Folio regions lie within the partition's grants. -/
def State.grants (s : State) (part : Nat) (bs : List Byte) (k : Kernel) : Option (List Cap) :=
  if k.folio.all fun r => r.1 + r.2 ≤ (s.part part).folioBytes then mintAll bs k.folio else none

/-- Judge a LAUNCH packet: the kernel and its capabilities, or the CODE of the refusal, the lowest one that
applies. -/
def State.judgeLaunch (s : State) (part : Nat) (bs : List Byte) (child : Bool) : Except Nat (Kernel × List Cap) :=
  match s.descriptor part bs with
  | none => .error 1
  | some k =>
    let teams := recField bs 0x10 4
    if !k.limitsOk || teams = 0 || 2 ^ 20 < teams then .error 2
    else
      let co := launchFlag bs 2
      let fits := (s.packTeams part k.need (if co then teams else 1) true).length
      if co && fits < teams then .error 3
      else if fits = 0 then .error 4
      else if launchFlag bs 4 && !(s.part part).knowsTag (BitVec.ofNat 32 (recField bs 0x18 4)) then .error 5
      else match s.grants part bs k with
        | none => .error 6
        | some cs =>
          if !s.doneOk part (pktWord bs 0x28) then .error 7
          else if child && pktTag bs != 0 && (s.part part).knowsTag (pktTag bs) then .error 8
          else .ok (k, cs)

/-! ## Admission (R383, R384, R386) -/

/-- Grids named by a partition: those that it has, the parents of those, and the contexts whose child launches wait. -/
def State.namedGrids (s : State) (part : Nat) : List Nat :=
  (s.grids.cells.flatMap fun (k, g) => k :: g.parent.toList) ++
  (s.queue (s.part part).qtable).launchBy.cells.map fun x => ctxidGrid x.2.1

/-- A context number that nothing of the partition bears or names, from 1 to 65,535 (log 40, DESIGN CHOICE). -/
def State.freeCtx (s : State) (part seed : Nat) : Nat :=
  let nth := fun (j : Nat) => (seed + j) % 65535 + 1
  let named := s.namedGrids part
  (((List.range (named.length + 1)).map nth).find? fun n => !named.contains (gridKey part n)).getD 1

/-- The tag that a packet's grid waits for: that of a packet which is outstanding (R384). -/
def Part.afterTag (p : Part) (bs : List Byte) : Option Word :=
  let t := BitVec.ofNat 32 (recField bs 0x18 4)
  if launchFlag bs 4 && p.tags.contains t then some t else none

/-- The grid of an admitted packet. -/
def gridOf (part order : Nat) (bs : List Byte) (k : Kernel) (caps : List Cap) (parent : Option Nat) (cls : Nat)
    (after : Option Word) (now : Nat) : Grid :=
  { part, kernel := k, tag := pktTag bs, cls, doneAddr := pktWord bs 0x28, teams := recField bs 0x10 4,
    unplaced := List.range (recField bs 0x10 4), coresident := launchFlag bs 2, restartable := launchFlag bs 3,
    afterTag := after,
    notBefore := if launchFlag bs 5 then some (recField bs 0x20 8) else none,
    scalars := (List.range 12).map fun i => BitVec.ofNat 32 (recField bs (0x30 + 4 * i) 4),
    caps, status := .admitted, admitted := now, order, slice := 0, debt := 0, wdog := 0, preemptCut := 10000, kills := ⟨[]⟩,
    parent, gbar := Barrier.fresh, preempt := none, image := [], lastLive := now }

/-- Admit a grid: a child's class is raised to its parent's (R386). -/
def State.admitGrid (s : State) (part num : Nat) (bs : List Byte) (k : Kernel) (caps : List Cap)
    (parent : Option (Nat × Nat)) : State :=
  let (order, s) := s.fresh
  let key := gridKey part (s.freeCtx part order)
  let own := recField bs 0x14 1 % 4
  let cls := parent.elim own fun p => max own p.2
  let s := s.setGrid key (gridOf part order bs k caps (parent.map (·.1)) cls ((s.part part).afterTag bs) s.time)
  if num = 0 then s
  else s.modPart part fun p => { p with packetOf := p.packetOf ++ [(2 ^ 32 + key, num)] }

/-! ## LAUNCH_TAKE -/

/-- A packet as the scheduler takes it: its number (0 for a child's), the CTXID of the party that enqueued it with its
class, its bytes where it can be read, and whether element and packet keep R188. -/
structure Taken where
  num   : Nat
  ctx   : Word
  cls   : Nat
  bytes : Option (List Byte)
  ok    : Bool
deriving DecidableEq, Repr

/-- The packet that an element names: a host packet in the packet store, which no page maps, and a child's through the
page tables; one that is poisoned cannot be read (R188) (log 74, DEDUCED). -/
def State.elementPacket (s : State) (part : Nat) (child : Bool) (w0 : Nat) : Option (List Byte) :=
  let a := w0 % 2 ^ 52
  if a % 64 ≠ 0 then none
  else if child then s.readVirtual part a 256
  else if s.placePoison (.mem a) 256 then none
  else some (s.homeBytes a 256)

/-- The packet of an element. -/
def State.taken (s : State) (part num : Nat) (ctx : Word) (cls : Nat) (ws : List Word) : Taken :=
  let w0 := (join64 (ws.getD 0 0) (ws.getD 1 0)).toNat
  let w1 := (join64 (ws.getD 2 0) (ws.getD 3 0)).toNat
  let bytes := s.elementPacket part (ctx != 0) w0
  let kind := bytes.elim 0 pktKind
  let len := if kind = 4 then 64 else 256
  { num, ctx, cls, bytes, ok := w0 / 2 ^ 52 == 0 && w1 == len && (kind == 1 || (kind == 4 && ctx == 0)) }

/-- The walks for a child's packet and for the descriptor that a packet names: a malformed entry leaves an error record
(R194). -/
def State.noteReads (s : State) (part : Nat) (ctx : Word) (ws : List Word) : State :=
  let a := (join64 (ws.getD 0 0) (ws.getD 1 0)).toNat % 2 ^ 52
  let need : Need := { rd := true }
  let s := if ctx != 0 then s.noteWalk part ctx a (s.walkPa part a need { code := 0 }) else s
  match s.elementPacket part (ctx != 0) a with
  | some bs =>
    if pktKind bs = 1 then
      let d := recField bs 8 8 % 2 ^ 52
      let s := s.noteWalk part ctx d (s.walkPa part d need { code := 0 })
      s.noteDone part ctx (pktWord bs 0x28)
    else s
  | none => s

/-- Take the element at the head of the launch queue: none where there is nothing to take; a void element gives
no packet. -/
def State.takeElement (s : State) (part : Nat) : Option (State × Option Taken) :=
  let place := Place.mem (s.part part).qtable
  let x := s.qOpen place
  if x.q.corrupt.isSome || x.q.state == 2 || x.q.empty then none
  else
    let i := x.q.take.toNat
    let (ctx, cls) := x.h.launchBy.get ((0 : Word), 0) i
    let num := (((s.part part).packetOf.find? fun e => e.1 == i).map (·.2)).getD 0
    let (x, w) := x.pass { clerkWait part [] with op := .deq }
    let s := ({ x with h := { x.h with launchBy := x.h.launchBy.erase i } } : QSt).pump.done
    let s := s.modPart part fun p => { p with packetOf := p.packetOf.filter fun e => e.1 != i }
    match w.results with
    | r :: _ =>
      if r.ok then some ((s.noteReads part ctx r.words), some (s.taken part num ctx cls r.words)) else some (s, none)
    | [] => some (s, some { num, ctx, cls, bytes := none, ok := false })

/-- A launch is refused (R383, R386): a handler packet, STATUS 3 where DONEADDR can be written, and its tag is
complete, a child's only where no other packet bears it. -/
def State.refuseTake (s : State) (part code : Nat) (t : Taken) : State :=
  let s := s.sendPacket part (clerkPacket 3 code t.ctx)
  match t.bytes with
  | none => s.packetDone part t.num 0
  | some bs =>
    let done := pktWord bs 0x28
    let s := if s.doneOk part done then s.complete385 part done 3 (pktTag bs) t.ctx else s
    let mine := t.ctx = 0 ∨ !(s.part part).knowsTag (pktTag bs)
    s.packetDone part t.num (if mine then pktTag bs else 0)

/-- A MARKER waits for the earlier packets of the window (R382). -/
def State.takeMarker (s : State) (part num : Nat) (bs : List Byte) : State :=
  s.modPart part fun p =>
    { p with markers := p.markers ++
        [{ id := num, tag := pktTag bs, done := pktWord bs 8, before := p.pending.filter (· < num) }] }

/-- LAUNCH_TAKE (R188, R383): the scheduler takes one element, and admits or refuses its grid. -/
def execLaunchTake (part : Nat) (s : State) : Result :=
  match s.takeElement part with
  | none => notNow "LAUNCH_TAKE"
  | some (s, none) => .next (s.clerk part)
  | some (s, some t) =>
    match t.bytes with
    | none => .next ((s.refuseTake part 1 t).clerk part)
    | some bs =>
      if !t.ok then .next ((s.refuseTake part 1 t).clerk part)
      else if pktKind bs = 4 then .next ((s.takeMarker part t.num bs).clerk part)
      else
        let child := t.ctx != 0
        match s.judgeLaunch part bs child with
        | .error code => .next ((s.refuseTake part code t).clerk part)
        | .ok (k, caps) =>
          let s := s.admitGrid part t.num bs k caps (if child then some (ctxidGrid t.ctx, t.cls) else none)
          let tag := pktTag bs
          .next ((if child && tag != 0 then s.modPart part fun p => { p with tags := tag :: p.tags } else s).clerk
            part)

end Sys2Proof.Machine
end

