-- ==== Sys2Proof/Machine/Queue.lean ====
section
/-! DEFINITION. Class 7, third part: the queue operations (R171 to R181) and the retry of an operation that
found its home's wait table full (R177). -/

namespace Sys2Proof.Machine

/-! ## A request -/

/-- The nine queue operations. -/
inductive QAct where
  | enq | deq | rsv | cmt | take | done | init | stat | close
deriving DecidableEq, Repr

/-- Operations that release (R155). -/
def QAct.releases : QAct → Bool
  | .enq | .cmt | .done | .init | .close => true
  | _ => false

/-- Operations that acquire (R155). -/
def QAct.acquires : QAct → Bool
  | .deq | .rsv | .take => true
  | _ => false

/-- What a party asks of a queue: who asks, and where the block lies. -/
structure QReq where
  act    : QAct
  esize  : Nat
  scope  : Scope
  blk    : Bool
  core   : Nat
  part   : Nat
  party  : Party
  holder : Holder
  pc     : Addr
  acc    : Access
  place  : Place
  args   : QArgs
deriving DecidableEq, Repr

/-- The block's address. -/
def QReq.addr (r : QReq) : Dword := BitVec.ofNat 64 r.acc.addr.toNat

/-- The queue as the party names it (R167). -/
def QReq.ref (r : QReq) : Dword := BitVec.ofNat 64 (r.acc.cap.space * 2 ^ 60 + r.acc.addr.toNat)

/-- A fault about the queue (R221). -/
def QReq.fault (r : QReq) (code : Byte) (detail : Nat) : LaneFault :=
  { code, addr := r.addr, detail, operand := fCap, space := r.acc.cap.space, size := 6 }

/-- The queue as the request finds it: the core's own stores to it have gone home. -/
def State.qSee (s : State) (r : QReq) : QSt := (s.ownFirst r.core r.place 64).qOpen r.place

/-! ## The checks of R173 -/

/-- KIND admits the operation (R186). -/
def kindAdmits (kind : Nat) (a : QAct) : Bool :=
  match kind with
  | 0 => true
  | 1 => a == .deq || a == .take || a == .done || a == .stat
  | 2 => a == .enq || a == .stat
  | _ => a == .deq || a == .take || a == .done || a == .stat || a == .close

/-- The queue lies in host or peer memory (R114, R115): no home is there to look at a block (log 36, DEDUCED).
-/
def QReq.outside (r : QReq) : Except Stop Unit := require (!r.place.isOutside) (r.fault 0x11 5)

/-- A party of another die than the home's (R184). -/
def QReq.otherDie (r : QReq) : Bool :=
  match r.place with
  | .mem pa => dieOfAddr pa != dieOf r.core
  | _ => false

/-- Check 3: a multi-die queue below `.dev`, and the scope checker (R155, R157). An acquire that parks is judged again
when it takes its slot. -/
def State.qScope (s : State) (r : QReq) (q : Qcb) : Except Stop Unit := do
  require (!(q.md && r.scope.rank < 4)) (r.fault 0x0D r.scope.rank)
  require (!r.act.acquires || s.acquireOk r.part r.core r.scope r.place)
    { r.fault 0x0D r.scope.rank with addr := BitVec.ofNat 64 (r.acc.addr.toNat / 128 * 128) }

/-- Check 4: broken, or corrupt (R168, R181). -/
def QReq.sound (r : QReq) (q : Qcb) : Except Stop Unit := do
  require (q.state != 2) (r.fault 0x0F 0)
  match q.corrupt with
  | some (d, _) => raise (r.fault 0x0F d)
  | none => .ok ()

/-- Check 5: admission. -/
def QReq.admitted (r : QReq) (q : Qcb) : Except Stop Unit := do
  require (!(q.kind == 2 && r.act == .enq && r.blk)) { r.fault 0x02 0 with addr := 0, operand := 0 }
  require (kindAdmits q.kind r.act) (r.fault 0x11 1)
  require (!r.blk || q.blk) (r.fault 0x11 2)
  require (q.md || !r.otherDie) (r.fault 0x11 3)
  require (q.sp == (r.acc.cap.space == 2)) (r.fault 0x11 4)
  require (match r.act with
    | .enq | .deq | .rsv | .take => r.esize == q.esz
    | _ => true) (r.fault 0x11 6)

/-- Check 6: closed. -/
def QReq.openFor (r : QReq) (q : Qcb) : Except Stop Unit :=
  require (!(q.state == 1 && (r.act == .enq || r.act == .rsv || r.act == .close))) (r.fault 0x10 0)

/-- Checks 3 to 6 of an operation other than `qinit`; `qstat` makes no block check (R179) (log 36, DEDUCED). -/
def State.qJudge (s : State) (r : QReq) : Except Stop Unit := do
  r.outside
  let x := s.qSee r
  x.s.qScope r x.q
  if r.act != .stat then r.sound x.q
  r.admitted x.q
  r.openFor x.q

/-- The configuration that `qinit` is given (R178). -/
structure QInit where
  config   : Word
  slotBase : Dword
  sibling  : Dword
deriving DecidableEq, Repr

/-- The checks of `qinit` (R178) (log 36, DEDUCED). -/
def State.qJudgeInit (s : State) (r : QReq) (i : QInit) : Except Stop Unit := do
  r.outside
  let x := s.qSee r
  let q : Qcb := Qcb.ofWords (qcbWords i.config i.slotBase i.sibling 0 0)
  require (!(q.md && r.scope.rank < 4)) (r.fault 0x0D r.scope.rank)
  require (!(x.q.state == 0 && x.q.check == x.q.checkWord)) (r.fault 0x10 0)
  require (q.state == 0 && configOk i.config && !(q.sp && q.md)) (badOperand fDst)
  require (q.kind != 1 && q.kind != 2 && r.acc.cap.space != 4) (r.fault 0x11 1)
  require (q.sp == (r.acc.cap.space == 2)) (r.fault 0x11 4)
  require (q.kind != 3 || q.esz == 5) (r.fault 0x11 6)
  let sb := i.slotBase.toNat
  let f := fun (code : Byte) => { r.fault code 0 with addr := i.slotBase, operand := fDst }
  require (sb % 2 ^ q.esz == 0) (f 0x0A)
  require (r.acc.cap.base ≤ sb && sb + 2 ^ (q.caplog + q.esz) ≤ r.acc.cap.limit) (f 0x08)

/-- HOME of a block (R167). -/
def State.homeWord (s : State) (part : Nat) (p : Place) : Word :=
  match p with
  | .mem pa =>
    let (d, j) := (s.part part).homeOf pa
    BitVec.ofNat 32 (d * 256 + j)
  | .pad team off =>
    match s.teams.find? team with
    | some t =>
      let seg := t.z / t.cores.length
      BitVec.ofNat 32 (0x8000 + (if seg = 0 then 0 else off / seg))
    | none => 0x8000
  | _ => 0

/-- The home of a block that is opened afresh: its counts start again, and the batches whose operations wait there, are
held back or are about to complete stay (R177, R180, R181) (log 56, DESIGN CHOICE). -/
def QHome.renew (h : QHome) : QHome :=
  { QHome.reset with producers := h.producers, consumers := h.consumers, served := h.served, held := h.held }

/-- `qinit` writes the block and opens a fresh home (R165). -/
def State.qInit (s : State) (r : QReq) (i : QInit) : State :=
  let s := s.ownFirst r.core r.place 64
  let q := Qcb.ofWords (qcbWords i.config i.slotBase i.sibling (s.homeWord r.part r.place) r.holder.ctx)
  (({ s, q, h := (s.queue r.place.queueKey).renew, place := r.place } : QSt)).done

/-! ## The operation at the home -/

/-- The block is found corrupt: the queue breaks, its parked lanes fault, and one packet goes out
(R181). -/
def State.qBreak (s : State) (r : QReq) (lane : Nat) : State :=
  let x := s.qSee r
  match x.q.corrupt with
  | none => s
  | some (d, found) =>
    let team := match r.place with
      | .pad t _ => some t
      | _ => none
    (x.breakQ d).done.sendPacket r.part
      { kind := 1, code := 0x0F, detail := BitVec.ofNat 16 d, party := r.holder.ctx, qref := r.ref,
        pc := r.pc.setWidth 64, observed := found,
        core := BitVec.ofNat 7 ((s.part r.part).logical r.core), lane := BitVec.ofNat 6 lane }
      x.q.sibling team

/-- The parked form of an operation. -/
def QAct.op : QAct → QOp
  | .enq => .enq
  | .rsv => .rsv
  | .take => .take
  | _ => .deq

/-- The operation with the lanes still to be served and the words of each. -/
def QReq.wait (r : QReq) (active : List Nat) (lanes : List (Nat × List Word)) : QWait :=
  { party := r.party, holder := r.holder, op := r.act.op, active, lanes, results := [], faults := [],
    pc := r.pc, core := r.core, scope := r.scope, qref := r.ref, args := some r.args }

/-- Put a batch at the end of its wait list (R177). -/
def QSt.park (x : QSt) (w : QWait) : QSt :=
  match w.op with
  | .enq | .rsv => { x with h := { x.h with producers := x.h.producers ++ [w] } }
  | .deq | .take => { x with h := { x.h with consumers := x.h.consumers ++ [w] } }

/-- What an operation comes to at its home: complete, parked, or turned away by a full wait table. -/
inductive QEnd where
  | complete (w : QWait)
  | parked
  | full
deriving DecidableEq, Repr

/-- The pass of an operation, with its parking, and the waking of others (R174 to R177). -/
def State.qPass (s : State) (part : Nat) (p : Place) (blk : Bool) (w : QWait) : State × QEnd :=
  let (x, w) := (s.qOpen p).pass w
  if w.lanes.isEmpty then (x.pump.done, .complete w)
  else if !blk then (x.pump.done, .complete w.giveUp)
  else if 256 ≤ s.homeLoad part p then
    let s := x.pump.done
    let h := s.queue p.queueKey
    (s.setQueue p.queueKey { h with held := h.held ++ [w] }, .full)
  else ((x.park w).pump.done, .parked)

/-- `qcmt` and `qdone` of one index; none where the index is not one of theirs (R175). -/
def QSt.mark (x : QSt) (a : QAct) (ctx : Word) (i : Word) : Option QSt :=
  if a = .cmt then
    if countDiff i x.q.tail < countDiff x.q.reserve x.q.tail && !x.h.committed.contains i.toNat &&
        (match x.h.reserved.find? i.toNat with | some h => h.ctx == ctx | none => false) then
      some (x.commit i)
    else none
  else if countDiff i x.q.head < countDiff x.q.take x.q.head && !x.h.done.contains i.toNat then
    some (x.finish i)
  else none

/-- `qcmt` and `qdone` over some lanes: results and faults. -/
def markAll (r : QReq) : List (Nat × List Word) → QSt → List (Nat × LaneFault) →
    QSt × List (Nat × LaneFault)
  | [], x, bad => (x, bad)
  | (l, ws) :: rest, x, bad =>
    match x.mark r.act r.holder.ctx (ws.getD 0 0) with
    | some y => markAll r rest y bad
    | none => markAll r rest x (bad ++ [(l, r.fault 0x11 7)])

/-- The word that `qstat` reads (R179). -/
def Qcb.word (q : Qcb) (sel : Nat) : Word := q.words.getD sel 0

/-- Perform an operation at its home for some lanes: what it comes to. The record of a release is written as it arrives
(R156) (log 30, DEDUCED). -/
def State.qPerform (s : State) (r : QReq) (active : List Nat) (lanes : List (Nat × List Word)) :
    State × QEnd :=
  let s := s.ownFirst r.core r.place 64
  let w := r.wait active lanes
  let s := if r.act.releases then s.recordRelease r.part r.core r.scope r.place else s
  match r.act with
  | .enq | .deq | .rsv | .take => s.qPass r.part r.place r.blk w
  | .cmt | .done =>
    let (x, bad) := markAll r lanes (s.qOpen r.place) []
    (x.pump.done, .complete { w with lanes := [], faults := bad })
  | .stat =>
    let x := s.qOpen r.place
    let v := x.q.word r.esize
    (x.s, .complete { w with lanes := [], results := lanes.map fun l => { lane := l.1, ok := true, words := [v] } })
  | .close => ((s.qOpen r.place).close.pump.done, .complete { w with lanes := [] })
  | .init => (s, .complete { w with lanes := [] })

/-! ## Operands (R171, R172) -/

/-- Registers of a data operand in group code, and 0 where there is none. -/
def QAct.regs (a : QAct) (esize : Nat) : Nat :=
  match a with
  | .enq | .deq => if esize = 3 then 2 else if esize = 4 then 4 else 1
  | .rsv | .take | .cmt | .done | .stat => 1
  | .init => 5
  | .close => 0

/-- The data operand is written. -/
def QAct.writes : QAct → Bool
  | .deq | .rsv | .take | .stat => true
  | _ => false

/-- The operation has a status predicate. -/
def QAct.status : QAct → Bool
  | .enq | .deq | .rsv | .take => true
  | _ => false

/-- The operation moves one element for the whole batch. -/
def uniformData (o : Opnd) : Bool :=
  match o with
  | .u _ => true
  | _ => false

/-- Faults on the address carry the aux field (log 24, DEDUCED). -/
def onAux {α : Type} (e : Except Stop α) : Except Stop α :=
  match e with
  | .error (.fault f) => .error (.fault (if f.operand = fIndex then { f with operand := fAux } else f))
  | e => e

/-- The access to the block: W governs every queue operation (R194). -/
def qAccess (cap : Cap) (aux : Elem) : Access :=
  { cap, idx := aux, addr := (cap.cursor : Int) + aux.bits.toNat, size := 64, align := 64
    perm := cap.q, need := { w := true } }

/-- Words of a run of elements. -/
def wordsOfElems (es : List Elem) : List Word := es.map (·.bits)

/-- The configuration run of group code (R178). -/
def groupInit (es : List Elem) : QInit :=
  let w := fun (i : Nat) => (es.getD i Elem.zero).bits
  { config := w 0, slotBase := join64 (w 1) (w 2), sibling := join64 (w 3) (w 4) }

/-! ## Group code -/

/-- The data operand of a lane is one that the operation admits. -/
def Ctx.qOperand (c : Ctx) (act : QAct) (a : QArgs) (l : Nat) : Except Stop Unit :=
  let n := act.regs a.esize.toNat
  match act with
  | .close => .ok ()
  | .init => require (match a.data with | .u _ => c.within l a.data n | _ => false) (badOperand fDst)
  | _ => c.vnkOk l a.data n

/-- What a lane's data operand gives. -/
def Ctx.qData (c : Ctx) (act : QAct) (a : QArgs) (l : Nat) : Except Stop (List Elem) := do
  let n := act.regs a.esize.toNat
  match act with
  | .close => return []
  | .init => return (← c.read l a.data n fDst 0).elems
  | _ =>
    if act.writes then return []
    else
      let x ← c.read l a.data n fDst 0
      match x.tags.find? fun t => !t.valid with
      | some t => raise { code := 0x03, addr := tagWord t, operand := fDst }
      | none => return x.elems

/-- The request of a lane, with what it gives: checks 1 to 6 of R173, survivors before sources (R218). Poisoned data, the
configuration of a `qinit` included, faults before them (log 79, DEDUCED). -/
def Ctx.qLane (c : Ctx) (act : QAct) (a : QArgs) (l : Nat) : Except Stop (QReq × List Elem) := do
  require (a.aux.isUniform && c.inBounds l a.aux 1) (badOperand fAux)
  c.qOperand act a l
  if act.writes then c.survivor l a.data (act.regs a.esize.toNat)
  if act.status then c.predSurvivor l a.status
  let es ← c.qData act a l
  let x ← c.read l a.aux 1 fAux 0
  let acc := qAccess (c.g.cap a.cap) x.low
  let p ← onAux (c.s.access c.accessor acc)
  let r : QReq :=
    { act, esize := a.esize.toNat, scope := a.scope, blk := a.blk, core := c.g.core, part := c.gr.part,
      party := .group c.gid, holder := { ctx := gridCtxid c.t.grid, team := c.g.team, group := c.gid },
      pc := c.is.pc, acc, place := p, args := a }
  if act = .init then
    match es.find? (·.poison) with
    | some e => raise { r.fault 0x0E 3 with operand := fDst, observed := e.bits }
    | none => c.s.qJudgeInit r (groupInit es)
  else
    c.s.qJudge r
    match es.find? (·.poison) with
    | some e => raise { r.fault 0x0E 3 with operand := fDst, observed := e.bits }
    | none => pure ()
  return (r, es)

/-- The lanes whose fibres have gone on stand at the instruction again. -/
def State.backTo (s : State) (gid : Nat) (pc : Addr) (ls : List Nat) (w : Option Wait) : State :=
  s.modGroup gid fun g => g.modFibres ls fun _ f => { f with pc, needHdr := false, wait := w }

/-- The register results of a lane: b32 data, status codes padded with zeros (R172, R176). -/
def qResult (n : Nat) (ws : List Word) : VRes :=
  { elems := (List.range n).map fun j => { bits := ws.getD j 0, poison := false }, tag := Tag.of .b32 }

/-- The results of the lanes that have been served are written: registers and predicates. -/
def Ctx.qGive (c : Ctx) (act : QAct) (a : QArgs) (ls : List Nat) (w : QWait) (s : State) : State :=
  let n := act.regs a.esize.toNat
  let uni := uniformData a.data
  let out := (w.results.filter fun r => !r.words.isEmpty).map fun r => (r.lane, qResult n r.words)
  let s := if act.writes then c.writeOnly a.data out s else s
  let preds := if uni then
      match w.results with
      | r :: _ => ls.map fun l => (l, r.ok)
      | [] => []
    else w.results.map fun r => (r.lane, r.ok)
  if act.status then s.setPreds c.gid a.status preds else s

/-- A batch's operation is complete: results, predicates, the acquire, and the faults of its lanes. A fault
of a uniform operation is every lane's. -/
def Ctx.qComplete (c : Ctx) (act : QAct) (a : QArgs) (ls : List Nat) (w : QWait) (s : State) : State :=
  let s := c.qGive act a ls w s
  let s := if act.acquires then c.acquire a.scope s else s
  let bad := if uniformData a.data then
      match w.faults with
      | (_, f) :: _ => ls.map fun l => (l, f)
      | [] => []
    else w.faults
  (s.backTo c.gid c.is.pc (bad.map (·.1)) none).takeFaults c.gid c.is.pc bad

/-- The home where the batch is parked. -/
def Ctx.parkedAt (c : Ctx) : Option Nat :=
  c.is.lanes.findSome? fun l => match c.fibre? l with
    | some f => match f.wait with
      | some (.queue k) => some k
      | _ => none
    | none => none

/-- The operation of a party that its home has served. -/
def QHome.servedOf (h : QHome) (p : Party) (active : List Nat) : Option QWait :=
  h.served.find? fun w => w.party == p && w.active == active

/-- A served operation leaves its home. -/
def State.qCollect (s : State) (k : Nat) (w : QWait) : State :=
  let h := s.queue k
  s.setQueue k { h with served := h.served.erase w }

/-- The first effect of a batch's operation: release, the home, and what it comes to. -/
def Ctx.qEffect (c : Ctx) (act : QAct) (a : QArgs) (rs : List (Nat × QReq × List Elem)) (s : State) :
    State :=
  match rs with
  | [] => s
  | (l0, r, es) :: _ =>
    let ls := rs.map (·.1)
    let s := if act.releases then c.release a.scope s else s
    if act = .init then
      (s.qInit r (groupInit es)).recordRelease r.part r.core r.scope r.place
    else
      let lanes := if uniformData a.data then [(l0, wordsOfElems es)]
        else rs.map fun (l, _, es) => (l, wordsOfElems es)
      let (s, e) := s.qPerform r ls lanes
      match e with
      | .complete w => c.qComplete act a ls w s
      | .parked => s.backTo c.gid c.is.pc ls (some (.queue r.place.queueKey))
      | .full => s.backTo c.gid c.is.pc ls (some (.queueRetry (s.cyclesOf c.g.core + 64)))

/-- The state once a batch has met a corrupt block at an address. -/
def Ctx.qBroken (c : Ctx) (act : QAct) (a : QArgs) (addr lane : Nat) : State :=
  let acc := { qAccess (c.g.cap a.cap) Elem.zero with addr := addr }
  match c.s.access c.accessor acc with
  | .ok p =>
    c.s.qBreak
      { act, esize := a.esize.toNat, scope := a.scope, blk := a.blk, core := c.g.core, part := c.gr.part,
        party := .group c.gid, holder := { ctx := gridCtxid c.t.grid, team := c.g.team, group := c.gid },
        pc := c.is.pc, acc, place := p, args := a } lane
  | .error _ => c.s

/-- A queue operation in group code. A batch that its home has served completes its instruction. -/
def queueGroup (act : QAct) (a : QArgs) (s : State) : Result :=
  match s.ctx? with
  | none => .refused .noIssue
  | some c =>
    match c.parkedAt with
    | some k =>
      match (s.queue k).servedOf (.group c.gid) c.is.lanes with
      | some w => .next (c.qComplete act a c.is.lanes w ((c.advance true c.is.lanes).qCollect k w))
      | none => .next s
    | none =>
      let r := sortLanes (c.checks .closing fun c l => c.qLane act a l)
      let c := match r.bad.find? fun b => b.2.code == 0x0F && b.2.detail != 0 with
        | some (l, f) => ({ c with s := c.qBroken act a f.addr.toNat l } : Ctx)
        | none => c
      c.finish true r (c.qEffect act a)

/-! ## Leaving the lists (R185) -/

/-- The wait of a party's lanes. -/
def State.setWait (s : State) (p : Party) (ls : List Nat) (w : Wait) : State :=
  match p with
  | .group gid => s.modGroup gid fun g => g.modFibres ls fun _ f => { f with wait := some w }
  | .stoker core => s.modStream core fun st => { st with wait := some w }

/-- Operations of a team that wait at a home. -/
def QHome.waitingOf (h : QHome) (team : Nat) : List QWait :=
  (h.producers ++ h.consumers ++ h.held).filter fun w => w.holder.team == team

/-- Take a team's waiting operations out of the lists of one queue (R185). -/
def State.unlinkAt (s : State) (team k : Nat) : State :=
  let ws := (s.queue k).waitingOf team
  if ws.isEmpty then s
  else
    let held := ((s.queue k).held.filter fun w => w.holder.team == team)
    let rest := fun (l : List QWait) => l.filter fun w => w.holder.team != team
    let x := s.qOpen (placeOfKey k)
    let x := { x with h := { x.h with producers := rest x.h.producers, consumers := rest x.h.consumers
                                      held := rest x.h.held } }
    let s := x.pump.done
    let s := held.foldl (fun s w => s.setWait w.party w.active (.queue k)) s
    s.modTeam team fun t => { t with unlinked := t.unlinked ++ ws.map fun w => (k, w) }

/-! ## Stoker code -/

/-- The data operand of a Stoker's operation: its first scalar and how many. -/
def QAct.sregs (a : QAct) (esize : Nat) : Nat :=
  match a with
  | .enq | .deq => if esize = 4 then 2 else 1
  | .init => 3
  | .close => 0
  | _ => 1

/-- Words of a Stoker element (R172). -/
def sWords (esize : Nat) (rs : List SReg) : List Word :=
  let two : List Word := rs.flatMap fun (r : SReg) => [r.bits.setWidth 32, (r.bits >>> 32).setWidth 32]
  if esize ≤ 2 then two.take 1 else two

/-- A poisoned half of a Stoker element. -/
def sPoison (esize : Nat) (rs : List SReg) : Bool :=
  rs.any fun r => r.plo || (3 ≤ esize && r.phi)

/-- The scalars that an operation reads. -/
def SCtx.qData (c : SCtx) (act : QAct) (a : QArgs) : Except Stop (List SReg) := do
  let n := act.sregs a.esize.toNat
  if n = 0 then return []
  else
    require (match a.data with
      | .u i => i + n ≤ 32 && (act == .init || aligned i n)
      | _ => false) (badOperand fDst)
    return (List.range n).map fun j => c.sreg (regIndex a.data + j)

/-- The configuration run of Stoker code. -/
def stokerInit (rs : List SReg) : QInit :=
  let r := fun (i : Nat) => (rs.getD i SReg.zero).bits
  { config := (r 0).setWidth 32, slotBase := r 1, sibling := r 2 }

/-- The request of a stream: checks 1 to 6 of R173. -/
def SCtx.qReq (c : SCtx) (act : QAct) (a : QArgs) : Except Stop (QReq × List SReg) := do
  require (a.aux.isUniform && regIndex a.aux < 32) (badOperand fAux)
  let rs ← c.qData act a
  let x ← c.read a.aux .n32 fAux
  let acc := qAccess (c.g.cap a.cap) x.low
  let p ← onAux (c.s.access c.accessor acc)
  let r : QReq :=
    { act, esize := a.esize.toNat, scope := a.scope, blk := a.blk, core := c.core, part := c.gr.part,
      party := .stoker c.core, holder := { ctx := gridCtxid c.t.grid, team := c.g.team, group := 0 },
      pc := c.is.pc, acc, place := p, args := a }
  let esz := if act = .init ∨ act = .enq then a.esize.toNat else 2
  let poison := !act.writes && (if act = .init then
      (rs.getD 0 SReg.zero).plo || (rs.drop 1).any fun r => r.plo || r.phi
    else sPoison esz rs)
  let f := { r.fault 0x0E 3 with operand := fDst, observed := ((rs.getD 0 SReg.zero).bits).setWidth 32 }
  if act = .init then
    require (!poison) f
    c.s.qJudgeInit r (stokerInit rs)
  else
    c.s.qJudge r
    require (!poison) f
  return (r, rs)

/-- The scalars that a result writes. -/
def sResult (esize : Nat) (ws : List Word) : List SReg :=
  let pair := fun (j : Nat) =>
    ({ bits := join64 (ws.getD (2 * j) 0) (ws.getD (2 * j + 1) 0), plo := false, phi := false } : SReg)
  if esize = 4 then [pair 0, pair 1] else [pair 0]

/-- A stream's operation is complete. -/
def SCtx.qComplete (c : SCtx) (act : QAct) (a : QArgs) (w : QWait) (s : State) : State :=
  match w.faults with
  | (_, f) :: _ =>
    ({ c with s := s } : SCtx).fault f
  | [] =>
    match w.results with
    | [] => s
    | r :: _ =>
      let esz := if act = .deq then a.esize.toNat else 2
      let s := if act.writes && !r.words.isEmpty then
          (sResult esz r.words).zipIdx.foldl (fun s (x, j) =>
            s.setSreg c.core (regIndex a.data + j) x) s
        else s
      let s := if act.status then s.setStreamPred c.core a.status r.ok else s
      if act.acquires then s.acquireAt c.core a.scope else s

/-- The stream stands at the instruction and waits at the home of a queue. Under a request for its context it stops there
at once, and its operation leaves the list (R185, R231). -/
def SCtx.qStay (c : SCtx) (k : Nat) (w : Wait) (s : State) : State :=
  let s := s.modStream c.core fun _ => { c.st with wait := some w, stopped := c.st.stopped || c.gr.polite c.t }
  if c.gr.polite c.t then s.unlinkAt c.g.team k else s

/-- The first effect of a stream's operation. -/
def SCtx.qEffect (c : SCtx) (act : QAct) (a : QArgs) (r : QReq) (rs : List SReg) (s : State) : State :=
  let s := if act.releases then s.releaseAt c.core c.t.cores a.scope else s
  if act = .init then
    (s.qInit r (stokerInit rs)).recordRelease r.part r.core r.scope r.place
  else
    let esz := if act = .enq then a.esize.toNat else 2
    let (s, e) := s.qPerform r [0] [(0, sWords esz rs)]
    match e with
    | .complete w => c.qComplete act a w s
    | .parked => c.qStay r.place.queueKey (.queue r.place.queueKey) s
    | .full => c.qStay r.place.queueKey (.queueRetry (s.cyclesOf c.core + 64)) s

/-- The state once a stream has met a corrupt block at an address. -/
def SCtx.qBroken (c : SCtx) (act : QAct) (a : QArgs) (addr : Nat) : State :=
  let acc := { qAccess (c.g.cap a.cap) Elem.zero with addr := addr }
  match c.s.access c.accessor acc with
  | .ok p =>
    c.s.qBreak
      { act, esize := a.esize.toNat, scope := a.scope, blk := a.blk, core := c.core, part := c.gr.part,
        party := .stoker c.core, holder := { ctx := gridCtxid c.t.grid, team := c.g.team, group := 0 },
        pc := c.is.pc, acc, place := p, args := a } 0
  | .error _ => c.s

/-- A queue operation in Stoker code. -/
def queueStream (act : QAct) (a : QArgs) (s : State) : Result :=
  match s.sctx? with
  | none => .refused .noIssue
  | some c =>
    match c.st.wait with
    | some (.queue k) =>
      match (s.queue k).servedOf (.stoker c.core) [0] with
      | some w => .next (c.qComplete act a w (c.advance.qCollect k w))
      | none => .next s
    | _ =>
      match c.qReq act a with
      | .ok (r, rs) => .next (c.qEffect act a r rs c.advance)
      | .error (.fault f) =>
        let s := if f.code = 0x0F ∧ f.detail ≠ 0 then c.qBroken act a f.addr.toNat else c.s
        .next (({ c with s := s } : SCtx).fault f)
      | .error .replay => .next c.advance
      | .error (.walk p) => .next (c.awaitWalks [p])
      | .error (.dead pa) => .fault (.noSuchMemory pa)

/-- A queue operation. -/
def queueStep (act : QAct) (a : QArgs) (s : State) : Result :=
  if s.stokerIssues then queueStream act a s else queueGroup act a s

/-! ## Instructions (R171) -/

/-- `qenq` (R174). -/
def execQenq (a : QArgs) (s : State) : Result := queueStep .enq a s

/-- `qdeq` (R174). -/
def execQdeq (a : QArgs) (s : State) : Result := queueStep .deq a s

/-- `qrsv` (R175). -/
def execQrsv (a : QArgs) (s : State) : Result := queueStep .rsv a s

/-- `qcmt` (R175). -/
def execQcmt (a : QArgs) (s : State) : Result := queueStep .cmt a s

/-- `qtake` (R175). -/
def execQtake (a : QArgs) (s : State) : Result := queueStep .take a s

/-- `qdone` (R175). -/
def execQdone (a : QArgs) (s : State) : Result := queueStep .done a s

/-- `qinit` (R178). -/
def execQinit (a : QArgs) (s : State) : Result := queueStep .init a s

/-- `qstat` (R179). -/
def execQstat (a : QArgs) (s : State) : Result := queueStep .stat a s

/-- `qclose` (R180). -/
def execQclose (a : QArgs) (s : State) : Result := queueStep .close a s

/-! ## QUEUE_RETRY (R177) -/

/-- The operation that a party holds back, with its home. -/
def State.heldOf (s : State) (p : Party) (active : List Nat) : Option (Nat × QWait) :=
  s.queues.cells.findSome? fun (k, h) =>
    (h.held.find? fun w => w.party == p && w.active == active).map fun w => (k, w)

/-- The operation that a parked one performs. -/
def QOp.act : QOp → QAct
  | .enq => .enq
  | .deq => .deq
  | .rsv => .rsv
  | .take => .take

/-- A batch's parked operation gives its served lanes their results now; the others stay to be served (R185). -/
def State.giveServed (s : State) (w : QWait) : State × QWait :=
  match w.party, w.args with
  | .group gid, some a =>
    match s.groups.find? gid with
    | none => (s, w)
    | some g => match s.teams.find? g.team with
      | none => (s, w)
      | some t => match s.grids.find? t.grid with
        | none => (s, w)
        | some gr =>
          let c : Ctx := { s, gid, g, t, gr, is := { party := w.party, lanes := w.active, eff := w.active, slot := 2
                                                     pc := w.pc, word := 0 } }
          (c.qGive w.op.act a w.active w s, { w with results := [] })
  | _, _ => (s, w)

/-- What a retried operation meets at the block (R173, checks 4 and 6), after the scope checker's check 3. -/
def retryFault (q : Qcb) (w : QWait) : Option LaneFault :=
  let f := fun (code : Byte) (d : Nat) =>
    ({ code, detail := d, operand := fCap, space := refSpace w.qref, size := 6
       addr := BitVec.ofNat 64 (w.qref.toNat % 2 ^ 52) } : LaneFault)
  if q.state = 2 then some (f 0x0F 0)
  else match q.corrupt with
    | some (d, _) => some (f 0x0F d)
    | none =>
      if q.state = 1 && (w.op == .enq || w.op == .rsv) then some (f 0x10 0) else none

/-- A retry that meets a fault in every lane still to be served: the block breaks if it is corrupt. -/
def State.retryFails (s : State) (k : Nat) (w : QWait) (f : LaneFault) : State :=
  let x := s.qOpen (placeOfKey k)
  let part := w.holder.ctx.toNat % 8
  let s := if f.code = 0x0F ∧ f.detail ≠ 0 then
      (x.breakQ f.detail).done.sendPacket part
        { kind := 1, code := 0x0F, detail := BitVec.ofNat 16 f.detail, party := w.holder.ctx
          qref := w.qref, pc := w.pc.setWidth 64, observed := ((x.q.corrupt.map (·.2)).getD 0)
          core := BitVec.ofNat 7 ((s.part part).logical w.core)
          lane := BitVec.ofNat 6 (w.active.headD 0) }
        x.q.sibling (match placeOfKey k with | .pad t _ => some t | _ => none)
    else s
  let w := { w.lanes.foldl (fun (a : QWait) l => a.fail l.1 f) w with lanes := [] }
  let h := s.queue k
  (s.setQueue k { h with served := h.served ++ [w] }).setWait w.party w.active (.queue k)

/-- The retry of an operation held back. -/
def State.retry (s : State) (k : Nat) (w : QWait) : State :=
  let h := s.queue k
  let s := s.setQueue k { h with held := h.held.erase w }
  let p := placeOfKey k
  let x := s.qOpen p
  match (x.scopeFault w).orElse fun _ => retryFault x.q w with
  | some f => s.retryFails k w f
  | none =>
    let (s, e) := s.qPass (w.holder.ctx.toNat % 8) p true w
    match e with
    | .complete w =>
      let h := s.queue k
      (s.setQueue k { h with served := h.served ++ [w] }).setWait w.party w.active (.queue k)
    | .parked => s.setWait w.party w.active (.queue k)
    | .full => s.setWait w.party w.active (.queueRetry (s.cyclesOf w.core + 64))

/-- The party's lanes wait to retry, and their time has come. -/
def State.retryDue (s : State) (p : Party) (ls : List Nat) : Bool :=
  let due := fun (core : Nat) (w : Wait) => match w with
    | .queueRetry n => n ≤ s.cyclesOf core
    | _ => false
  match p with
  | .group gid => match s.groups.find? gid with
    | some g => g.waiters ls (due g.core)
    | none => false
  | .stoker core => match (s.core core).stream with
    | some st => st.wait.elim false (due core)
    | none => false

/-- QUEUE_RETRY (R177). -/
def execQueueRetry (p : Party) (ls : List Nat) (s : State) : Result :=
  if s.retryDue p ls then
    match s.heldOf p (match p with | .stoker _ => [0] | .group _ => ls) with
    | some (k, w) => .next (s.retry k w)
    | none => notNow "QUEUE_RETRY"
  else notNow "QUEUE_RETRY"

end Sys2Proof.Machine
end

