-- ==== Sys2Proof/Machine/EvPreempt.lean ====
section
/-! DEFINITION. Pre-emption (R230 to R233), its places in queues (R185), time slices (R389) and the
watchdog (R232). -/

namespace Sys2Proof.Machine

/-! ## Who waits for whose room (R388, R389) -/

/-- What a saved team needs: its groups by the team core that held them. -/
def TeamImage.need (m : TeamImage) : TeamNeed :=
  { items := m.team.cores.map fun c =>
      (m.groups.filter fun x => x.2.core == c).map fun x => (x.2.width, x.2.vregs)
    segWords := m.team.segWords, isMatrix := m.team.isMatrix }

/-- The teams of an image fit together. -/
def State.imageFits (s : State) (part : Nat) (ms : List TeamImage) (rooms : Rooms) : Bool :=
  (rooms.assign (fun n => (s.part part).coreSets n.items.length) (ms.map (·.need))).isSome

/-- What a grid wants to place next fits, the teams of some grids left out. -/
def State.gridFits (s : State) (g : Grid) (without : List Nat := []) : Bool :=
  if g.status = .saved then s.imageFits g.part g.image (s.rooms g.part false without)
  else
    let n := if g.coresident then g.unplaced.length else 1
    n ≤ (s.packTeams g.part g.kernel.need n false without).length

/-- A grid holds room on the cores. -/
def State.resident (s : State) (key : Nat) : Bool := !(s.teamsOf key).isEmpty

/-- The grids of a partition that satisfy a condition. -/
def State.gridsOf (s : State) (part : Nat) (f : Nat → Grid → Bool) : List Nat :=
  (s.grids.cells.filter fun (k, g) => g.part == part && f k g).map (·.1)

/-- A class-0 grid must have room that classes 1 to 3 hold, beyond what the pre-emptions in progress give
it (R388, R390). -/
def State.forcesRoom (s : State) (part : Nat) : Bool :=
  let lower := s.gridsOf part fun _ g => g.cls != 0
  let going := s.gridsOf part fun _ g => g.preempt.isSome
  s.grids.cells.any fun (k, h) => h.part == part && h.cls == 0 && s.placeNext k h &&
    !s.gridFits h && !s.gridFits h going && s.gridFits h lower

/-- The grid cannot be placed although those that are being pre-empted go, and can be once others of some grids have
gone with this one: of the others those are left out without which it fits all the same (log 41, DESIGN CHOICE). -/
def State.needsRoomOf (s : State) (h : Grid) (going others : List Nat) (key : Nat) : Bool :=
  let all := key :: (going ++ others)
  s.gridFits h all &&
    let least := others.foldl (fun set o => let set' := set.filter (· != o)
      if s.gridFits h set' then set' else set) all
    !s.gridFits h (least.filter (· != key))

/-- A grid of the same class waits for room that this grid holds, alone or with others of the class (R389). -/
def State.peerWaits (s : State) (key : Nat) (g : Grid) : Bool :=
  let going := s.gridsOf g.part fun _ h => h.preempt.isSome
  let others := s.gridsOf g.part fun k h => k != key && h.cls == g.cls && h.preempt.isNone && s.resident k
  s.grids.cells.any fun (k, h) => k != key && h.part == g.part && h.cls == g.cls && h.wantsRoom &&
    s.gridReady h && !s.gridFits h && s.needsRoomOf h going others key

/-! ## The request (R230, R231) -/

/-- Take a team's waiting operations out of every list. -/
def State.unlinkTeam (s : State) (team : Nat) : State :=
  (s.queues.cells.map (·.1)).foldl (fun s k => s.unlinkAt team k) s

/-- An operation of a party has been served and waits to complete. -/
def State.servedAt (s : State) (k : Nat) (p : Party) (lane : Nat) : Bool :=
  (s.queue k).served.any fun w => w.party == p && w.active.contains lane

/-- The stream of a core waits in a queue, and its home has not served it. -/
def State.streamInQueue (s : State) (core : Nat) (st : Stream) : Bool :=
  match st.wait with
  | some (.queue k) => !s.servedAt k (.stoker core) 0
  | some (.queueRetry _) => true
  | _ => false

/-- The streams of a team stop at once in a queue wait; one that has been served runs on to its boundary (R231) (log 42,
DEDUCED). -/
def State.stopInQueues (s : State) (team : Nat) : State :=
  match s.teams.find? team with
  | none => s
  | some t =>
    let mine := s.groupsOf team
    t.cores.foldl (fun s c => s.modStream c fun st =>
      if mine.contains st.owner && s.streamInQueue c st then { st with stopped := true } else st) s

/-- The moment up to which a team of a partition may drain without breaking the bound of a class-0 grid that waits for
room: none where no such grid waits (R230, R390). -/
def State.drainLimit (s : State) (part : Nat) : Option Nat :=
  ((s.grids.cells.filter fun (k, h) => h.part == part && h.cls == 0 && s.placeNext k h && !s.gridFits h).map
    fun (_, h) => h.notBefore.getD h.admitted + 20000).min?

/-- A team drains: the time that it is expected to need still is at most PREEMPTCUT, and does not go beyond a limit
(R230) (log 41, DESIGN CHOICE). -/
def Grid.drains (g : Grid) (t : Team) (now : Nat) (limit : Option Nat) : Bool :=
  let left := g.kernel.ttime - (now - t.started)
  g.kernel.ttime != 0 && left ≤ g.preemptCut.toNat && limit.all fun m => now + left ≤ m

/-- The request lets a team drain, or has it saved. -/
def State.drainOrSave (s : State) (g : Grid) (team : Nat) (t : Team) : State :=
  if g.drains t s.time (s.drainLimit g.part) then s.setTeam team { t with drain := true }
  else (s.stopInQueues team).unlinkTeam team

/-- The request reaches one team (R230). A team of a restartable grid may be flushed, at the scheduler's choice: it is
killed without an error record and without a count, and is placed again from its start (log 41, DESIGN CHOICE). -/
def State.requestTeam (s : State) (g : Grid) (team : Nat) : State :=
  match s.teams.find? team with
  | none => s
  | some t =>
    if g.restartable && t.kill.isNone && !t.killed then
      let s' := { s with free := s.free + 1 }
      if Config.flush s.free then s'.killTeam team else s'.drainOrSave g team t
    else s.drainOrSave g team t

/-- The scheduler pre-empts a grid. -/
def State.startPreempt (s : State) (key : Nat) (g : Grid) (forced : Bool) : State :=
  let s := s.setGrid key
    { g with preempt := some { since := s.time, cut := none, lanes := [], forced, escalations := 0 } }
  (s.teamsOf key).foldl (fun s t => s.requestTeam g t) s

/-- PREEMPT_REQUEST: class 0 takes room of a lower class (R388, R231). -/
def execPreemptRequest (key : Nat) (s : State) : Result :=
  match s.grids.find? key with
  | none => notNow "PREEMPT_REQUEST"
  | some g =>
    if g.cls != 0 && g.preempt.isNone && g.status != .killed && s.resident key && s.forcesRoom g.part then
      .next (s.startPreempt key g true)
    else notNow "PREEMPT_REQUEST"

/-- The slice of a resident grid has run out (R389). -/
def State.sliceDue (s : State) (key : Nat) (g : Grid) : Bool :=
  g.cls != 0 && g.slice == 0 && g.preempt.isNone && g.status != .killed && s.resident key

/-- SLICE_EXPIRY: the grid is pre-empted for one of its class, or its slice is loaded again (R389). -/
def execSliceExpiry (key : Nat) (s : State) : Result :=
  match s.grids.find? key with
  | none => notNow "SLICE_EXPIRY"
  | some g =>
    if s.sliceDue key g then
      .next (if s.peerWaits key g then s.startPreempt key g false
        else s.setGrid key (g.grantSlice (s.part g.part).slice))
    else notNow "SLICE_EXPIRY"

/-! ## The cut (R231) -/

/-- A fibre has stopped: parked, at a header, or waiting at a barrier or a queue. -/
def State.fibreStopped (s : State) (core : Nat) (gr : Grid) (f : Fibre) : Bool :=
  f.parked.isSome || s.atHeader core gr f || match f.wait with
    | some (.barrier _) | some (.queue _) | some (.queueRetry _) => true
    | _ => false

/-- The cut of one group: what has not stopped is replayed, and its copy batches are closed. -/
def State.cutGroup (s : State) (gr : Grid) (gid : Nat) : State :=
  match s.groups.find? gid with
  | none => s
  | some g =>
    let ls := (g.fibres.cells.filter fun (_, f) => !s.fibreStopped g.core gr f).map (·.1)
    (s.replay gid ls).modGroup gid fun g =>
      { g with ci := sealBatches g.ci, co := sealBatches g.co, fx := sealBatches g.fx }

/-- The cut of one team: it drains no longer. -/
def State.cutTeam (s : State) (gr : Grid) (team : Nat) : State :=
  let s := s.modTeam team fun t => { t with drain := false }
  let s := (s.groupsOf team).foldl (fun s g => s.cutGroup gr g) s
  (s.stopInQueues team).unlinkTeam team

/-- The cut of a pre-emption is due. -/
def Grid.cutDue (g : Grid) (now : Nat) : Bool :=
  match g.preempt with
  | some p => p.cut.isNone && g.status != .killed && p.since + g.preemptCut.toNat ≤ now
  | none => false

/-- The lane cycles that the clusters of a grid's teams have counted (R232). -/
def State.laneCounts (s : State) (key : Nat) : List (Nat × Nat) :=
  (dedup ((s.teams.cells.filter fun x => x.2.grid == key).map fun x => clusterOf (x.2.cores.getD 0 0))).map
    fun c => (c, (s.cluster c).laneCycles)

/-- PREEMPT_CUT (R231). -/
def execPreemptCut (key : Nat) (s : State) : Result :=
  match s.grids.find? key with
  | none => notNow "PREEMPT_CUT"
  | some g =>
    match g.preempt with
    | some p =>
      if g.cutDue s.time then
        let s := (s.teamsOf key).foldl (fun s t => s.cutTeam g t) s
        .next (s.modGrid key fun g => { g with preempt := some { p with cut := some s.time, lanes := s.laneCounts key } })
      else notNow "PREEMPT_CUT"
    | none => notNow "PREEMPT_CUT"

/-! ## The image (R233) -/

/-- A fibre is still: nothing of it is left to complete. -/
def State.fibreStill (s : State) (gid core : Nat) (gr : Grid) (l : Nat) (f : Fibre) : Bool :=
  f.parked.isSome || match f.wait with
    | some (.barrier b) => !f.released.getLsbD b
    | some (.queue k) => !s.servedAt k (.group gid) l
    | some (.queueRetry _) => true
    | _ => s.atHeader core gr f

/-- A group is still, and its counters stand at zero. -/
def State.groupStill (s : State) (gr : Grid) (gid : Nat) (g : Group) : Bool :=
  (g.fibres.cells.all fun (l, f) => s.fibreStill gid g.core gr l f) && g.flights.isEmpty &&
  s.counter g .vm == 0 && s.counter g .ci == 0 && s.counter g .co == 0 && s.counter g .fx == 0 &&
  s.counter g .mx == 0

/-- A stream has stopped: at an iteration boundary, outside every loop, or in a queue wait; and its commands are
complete (log 42, DEDUCED). -/
def State.streamStill (s : State) (core : Nat) (st : Stream) : Bool :=
  st.ci.isEmpty && st.co.isEmpty && (s.core core).matq.isEmpty &&
  (st.stopped || st.loops.isEmpty) && match st.wait with
    | some (.queue k) => !s.servedAt k (.stoker core) 0
    | _ => true

/-- A team is still; one that has been killed is not saved, it ends. -/
def State.teamStill (s : State) (gr : Grid) (team : Nat) (t : Team) : Bool :=
  !t.drain && t.kill.isNone && !t.killed &&
  (s.groups.cells.all fun (i, g) => g.team != team || s.groupStill gr i g) &&
  t.cores.all fun c => match (s.core c).stream with
    | some st => !(s.groupsOf team).contains st.owner || s.streamStill c st
    | none => true

/-- The contents of a team's allocation; the save meets the errors of its words (R129, R134). -/
def State.padImage (s : State) (t : Team) : PadImage × State :=
  (List.range (t.z / 16)).foldl (fun (m, s) i =>
    let (r, s) := s.padTake t (16 * i)
    ({ bytes := (List.range 16).foldl (fun b j =>
         b.write (16 * i + j) ((r.data >>> (8 * j)).setWidth 8)) m.bytes
       tags := if r.tag then m.tags ++ [i] else m.tags
       poison := if r.poison then m.poison ++ [i] else m.poison }, s))
    (({ bytes := ⟨[]⟩, tags := [], poison := [] } : PadImage), s)

/-- The save reads the tiles declared with `.acc`: their errors are met (R135). -/
def State.meetTiles (s : State) (core part : Nat) (acc : BitVec 64) (party : Word) : State :=
  ((s.upsets.tile.filter fun u => u.1 == core && acc.getLsbD (u.2 / 4096)).map (·.2)).foldl
    (fun s key => s.tileUpset core key part party) s

/-- The tiles declared with `.acc` (R90). -/
def Core.tileImage (k : Core) (acc : BitVec 64) : TileImage :=
  { elems := ⟨k.tiles.cells.filter fun x => acc.getLsbD (x.1 / 4096)⟩
    tags := ⟨k.tileTags.cells.filter fun x => acc.getLsbD x.1⟩ }

/-- A fibre as it is saved: at a header nothing is waited for. -/
def Fibre.saved (f : Fibre) : Fibre :=
  { f with block := none, wait := match f.wait with
    | some (.barrier b) => some (.barrier b)
    | some (.queue k) => some (.queue k)
    | _ => none }

/-- A group as it is saved: the near level is dropped (R90) (log 38, DEDUCED). -/
def Group.saved (g : Group) : Group :=
  ({ g with near := ⟨[]⟩, nearTags := ⟨[]⟩, nearValid := [], active := false, busy := [], walks := [] }
    ).mapFibres Fibre.saved

/-- A stream as it is saved. -/
def Stream.saved (st : Stream) : Stream := { st with stopped := false, walks := [] }

/-- The stream of a core, if it belongs to one of some groups. -/
def Core.streamOf (k : Core) (mine : List Nat) : Option Stream :=
  k.stream.filter fun st => mine.contains st.owner

/-- The image of a team, with what its reads have met. -/
def State.teamImage (s : State) (gr : Grid) (team : Nat) (t : Team) : TeamImage × State :=
  let mine := s.groupsOf team
  let s := if t.isMatrix then
      t.cores.foldl (fun s c => s.meetTiles c gr.part gr.kernel.acc (gridCtxid t.grid)) s
    else s
  let (pad, s) := s.padImage t
  ({ id := team, team := { t with started := s.time - t.started }
     groups := (s.groups.cells.filter fun x => x.2.team == team).map fun (i, g) => (i, g.saved)
     pad
     tiles := t.cores.map fun c =>
       if t.isMatrix then (s.core c).tileImage gr.kernel.acc else { elems := ⟨[]⟩, tags := ⟨[]⟩ }
     streams := t.cores.map fun c => ((s.core c).streamOf mine).map Stream.saved }, s)

/-- A saved team leaves its cores. -/
def State.vacate (s : State) (team : Nat) (t : Team) : State :=
  let mine := s.groupsOf team
  let s := mine.foldl (fun (s : State) i =>
    match s.groups.find? i with
    | some g => s.modCore g.core fun k => k.dropLatches i (List.range g.width)
    | none => s) s
  let s := t.cores.foldl (fun s c => s.modCore c fun k =>
    let k := { k with scopes := k.scopes.filter fun r => r.line / 2 ^ 25 != team }
    let k := if (k.streamOf mine).isSome then { k with stream := none } else k
    if t.isMatrix then { k with tiles := ⟨[]⟩, tileTags := ⟨[]⟩ } else k) s
  { s with teams := s.teams.erase team, groups := ⟨s.groups.cells.filter fun x => x.2.team != team⟩ }

/-- Save one team: the queue operations that have parked since are unlinked, and its stores are performed. -/
def State.saveTeam (s : State) (key : Nat) (gr : Grid) (team : Nat) : State :=
  let s := s.unlinkTeam team
  match s.teams.find? team with
  | none => s
  | some t =>
    let s := t.cores.foldl (fun s c => s.drainAll c) s
    let (m, s) := s.teamImage gr team t
    (s.vacate team t).modGrid key fun g => { g with image := g.image ++ [m] }

/-- The moment at which the slice ends (R217). -/
def Grid.sliceEnd (g : Grid) (p : Preempt) : Nat :=
  if p.forced then p.since + g.preemptCut.toNat else p.since

/-- The pre-emption is over: DEBT receives the overrun, beside what has exceeded the slice before it (R217, R232) (log 73,
DEDUCED), and a grid that gave way within its class goes behind the others of it (R389). -/
def State.preempted (s : State) (key : Nat) (p : Preempt) : State :=
  let (order, s) := s.fresh
  s.modGrid key fun g =>
    let late := s.time - g.sliceEnd p
    { g with
      preempt := none
      status := if g.image.isEmpty then .admitted else .saved
      debt := min (g.debt + late) 0xFFFFFFFF
      order := if p.forced then g.order else order }

/-- Every team of the grid is still. -/
def State.allStill (s : State) (key : Nat) (gr : Grid) : Bool :=
  s.teams.cells.all fun (i, t) => t.grid != key || s.teamStill gr i t

/-- SAVE_IMAGE (R231, R233): no image is made where every team has ended by itself (R391). -/
def execSaveImage (key : Nat) (s : State) : Result :=
  match s.grids.find? key with
  | none => notNow "SAVE_IMAGE"
  | some g =>
    match g.preempt with
    | some p =>
      if g.status != .killed && s.allStill key g then
        .next (((s.teamsOf key).foldl (fun s t => s.saveTeam key g t) s).preempted key p)
      else notNow "SAVE_IMAGE"
    | none => notNow "SAVE_IMAGE"

/-! ## The watchdog (R232) -/

/-- Lane cycles of a cluster since the cut of a pre-emption. -/
def State.tailCycles (s : State) (p : Preempt) (cluster : Nat) : Nat :=
  match p.lanes.find? (·.1 == cluster) with
  | some x => (s.cluster cluster).laneCycles - x.2
  | none => 0

/-- The tail of a pre-emption has passed the next multiple of four budgets on a cluster of its teams (R232, R235). -/
def State.watchdogDue (s : State) (key : Nat) (g : Grid) : Bool :=
  match g.preempt with
  | some p => p.cut.isSome && s.teams.cells.any fun (_, t) => t.grid == key &&
      262144 * (1 + p.escalations) < s.tailCycles p (clusterOf (t.cores.getD 0 0))
  | none => false

/-- A rung of the ladder starts for a target, unless the same one is in progress: the climb continues (R235). -/
def Part.startRung (p : Part) (level target now : Nat) (byHost : Bool) : Part :=
  if p.rungs.any fun r => r.level == level && r.target == target then
    { p with rungs := p.rungs.map fun r =>
        if r.level == level && r.target == target then { r with byHost := r.byHost || byHost } else r }
  else { p with rungs := p.rungs ++ [{ level, target, since := now, byHost }] }

/-- The ladder goes on at a rung: what RESETREQ shows of a lower one it shows of this one from then on (R407). -/
def Part.climbTo (p : Part) (level target now : Nat) : Part :=
  let lower := fun (r : Rung) => r.byHost && r.level < level
  ({ p with rungs := p.rungs.map fun r => if lower r then { r with byHost := false } else r } : Part).startRung level
    target now (p.rungs.any lower)

/-- WATCHDOG_ESCALATION (R217, R232). -/
def execWatchdogEscalation (key : Nat) (s : State) : Result :=
  match s.grids.find? key with
  | none => notNow "WATCHDOG_ESCALATION"
  | some g =>
    match g.preempt with
    | some p =>
      if s.watchdogDue key g then
        let s := s.setGrid key
          { g with wdog := min (g.wdog + 1) 0xFFFFFFFF
                   preempt := some { p with escalations := p.escalations + 1 } }
        let s := s.errorRecord g.part 0x1A 6 (gridCtxid key) 0 0 0 0 0
        .next (s.modPart g.part fun q => q.startRung 2 (key % 65536) s.time false)
      else notNow "WATCHDOG_ESCALATION"
    | none => notNow "WATCHDOG_ESCALATION"

/-! ## The restore (R185, R233, R389) -/

/-- Write a saved allocation back; parity follows. -/
def State.restorePad (s : State) (t : Team) (m : PadImage) : State :=
  (List.range (t.z / 16)).foldl (fun s i =>
    let d := BitVec.ofNat 128 (leNat ((List.range 16).map fun j => m.bytes.read (16 * i + j)))
    s.padWriteGranule t (16 * i) d (BitVec.allOnes 16) (m.tags.contains i) (m.poison.contains i)) s

/-- A fibre of a restored group: one parked on a page that has been serviced since goes back to its strand. -/
def Fibre.restored (f : Fibre) (waits : Nat → Bool) : Fibre :=
  if f.parked == some 0x0B && !waits (f.trapAddr.toNat % 2 ^ 52 / 2 ^ 16) then { f with parked := none } else f

/-- A restored group on its new core. -/
def Group.restored (g : Group) (core : Nat) (spot : Nat × Nat) (waits : Nat → Bool) : Group :=
  ({ g with core := core, col0 := spot.1, row0 := spot.2, waiting := none, sampled := [], old := [] }).mapFibres fun f => f.restored waits

/-- Party of a restored operation: a Stoker goes with its team to another core. -/
def newParty (old new : List Nat) : Party → Party
  | .group g => .group g
  | .stoker c => .stoker (new.getD (old.findIdx (· == c)) 0)

/-- A restored operation writes the results of the lanes that were served, and parks again at the end of its list for the
others (R185); one whose queue has closed completes as a
parked one did, one whose queue has broken faults (log 42, DEDUCED). -/
def State.relink (s : State) (k : Nat) (w : QWait) : State :=
  let p := placeOfKey k
  let (s, w) := s.giveServed w
  let x := s.qOpen p
  let served := fun (w : QWait) =>
    let h := s.queue k
    s.setQueue k { h with served := h.served ++ [w] }
  match retryFault x.q w with
  | some f =>
    if f.code = 0x10 then
      served (x.shut w)
    else s.retryFails k w f
  | none =>
    let (s, e) := s.qPass (w.holder.ctx.toNat % 8) p true w
    match e with
    | .complete w =>
      let h := s.queue k
      s.setQueue k { h with served := h.served ++ [w] }
    | .parked => s
    | .full =>
      s.setWait w.party w.active (.queueRetry (s.cyclesOf w.core + 64))

/-- The groups of a team core of an image. -/
def TeamImage.onCore (m : TeamImage) (core : Nat) : List (Nat × Group) :=
  m.groups.filter fun x => x.2.core == core

/-- Restore the groups, tiles and stream of one team core: its sizes of the L1 predictor stand at 8 words (R205), its clean
L1 blocks go (R368), and its tiles are written anew. -/
def State.restoreCore (s : State) (key : Nat) (m : TeamImage) (i new : Nat) (spots : List (Nat × Nat)) : State :=
  let gs := m.onCore (m.team.cores.getD i 0)
  let waits := fun (page : Nat) => (s.part (key / 65536)).pages.contains (key, page)
  let s := (gs.zip spots).foldl (fun s ((id, g), spot) =>
    s.setGroup id (g.restored new spot waits)) s
  let tiles := m.tiles.getD i { elems := ⟨[]⟩, tags := ⟨[]⟩ }
  let st := (m.streams.getD i none)
  let s := if m.team.isMatrix then { s with upsets := { s.upsets with tile := s.upsets.tile.filter fun u => u.1 != new } }
    else s
  (s.acquireL1 new).modCore new fun k =>
    let k := { k with predict := ⟨[]⟩ }
    let k := if m.team.isMatrix then { k with tiles := tiles.elems, tileTags := tiles.tags } else k
    match st with
    | some st => { k with stream := some st }
    | none => k

/-- Restore one team on some cores, where it has been found to fit. -/
def State.restoreTeam (s : State) (key : Nat) (m : TeamImage) (cores : List Nat) (fit : List Fit) : State :=
  let segs := fit.map (·.2)
  let t : Team := { m.team with cores := cores, segs := segs, started := s.time - m.team.started
                                unlinked := [] }
  let s := s.setTeam m.id t
  let s := (cores.zip segs).foldl (fun s (c, w) =>
    s.modCore c fun k => k.ready w t.segWords t.isMatrix) s
  let s := s.restorePad t m.pad
  let s := (cores.zip fit).zipIdx.foldl (fun s ((c, x), i) => s.restoreCore key m i c x.1) s
  m.team.unlinked.foldl (fun s (k, w) =>
    s.relink k { w with party := newParty m.team.cores cores w.party
                        core := cores.getD (m.team.cores.findIdx (· == w.core)) 0 }) s

/-- Restore teams together: none where the cores do not suit or have no room. -/
def State.restoreTeams (s : State) (key : Nat) (ms : List (TeamImage × List Nat)) : Option State :=
  let p := s.part (key / 65536)
  if ms.all fun x => (p.coreSets x.1.team.cores.length).contains x.2 then
    (Rooms.plan (s.rooms (key / 65536) false) (ms.map fun x => (x.1.need, x.2))).map fun fits =>
      (ms.zip fits).foldl (fun s ((m, cs), fit) => s.restoreTeam key m cs fit) s
  else none

/-- CONTEXT_RESTORE (R233, R389): the teams of a saved grid return on the cores that the curator has chosen. -/
def execContextRestore (key : Nat) (cores : List (List Nat)) (s : State) : Result :=
  match s.grids.find? key with
  | none => notNow "CONTEXT_RESTORE"
  | some g =>
    if g.status == .saved && s.placeNext key g && cores.length == g.image.length then
      match s.restoreTeams key (g.image.zip cores) with
      | some s => .next (s.modGrid key fun g =>
          { g.grantSlice (s.part g.part).slice with status := .running, image := [], lastLive := s.time })
      | none => notNow "CONTEXT_RESTORE"
    else notNow "CONTEXT_RESTORE"

end Sys2Proof.Machine
end

