-- ==== Sys2Proof/Machine/EvReset.lean ====
section
/-! DEFINITION. The reset ladder (R234, R394, R401): rungs 1 to 5, their timeouts, and partition reset
(R133, R187, R188, R198, R212, R391). -/

namespace Sys2Proof.Machine

/-! ## A rung is taken -/

/-- A rung is taken for a partition: its error record (R227) and MSI-X vector 2 (R393). -/
def State.rungTaken (s : State) (part level : Nat) : State :=
  (s.errorRecord part 0 11 0 0 0 (BitVec.ofNat 32 level) 0 0).interrupt part 2

/-- The rung in progress of a level with a target. -/
def Part.rungOf (p : Part) (level target : Nat) : Option Rung :=
  p.rungs.find? fun r => r.level == level && r.target == target

/-- A rung of a level with a target is in progress. -/
def Part.rungIs (p : Part) (level target : Nat) : Bool := (p.rungOf level target).isSome

/-- The rung of a level with a target has finished, if it is in progress. -/
def Part.finishRung (p : Part) (level target : Nat) : Part :=
  match p.rungOf level target with
  | some r => p.endRung r
  | none => p

/-! ## Rung 1: a queue -/

/-- The place of a queue: a table index, or the key of its home (log 49, DESIGN CHOICE). -/
def Part.queuePlace (p : Part) (queue : Nat) : Place :=
  if queue < 64 then .mem (p.qtable + 64 * queue) else placeOfKey queue

/-- A queue as a reference in the SIBLING layout (R167). -/
def queueRefOf (queue : Nat) : Dword :=
  if queue < 64 then BitVec.ofNat 64 (4 * 2 ^ 60 + 64 * queue)
  else match placeOfKey queue with
    | .pad _ off => BitVec.ofNat 64 (2 * 2 ^ 60 + off)
    | .mem pa => BitVec.ofNat 64 (2 ^ 60 + pa % 2 ^ 52)
    | _ => 0

/-- Operations are parked at a home that are due an answer: the block is corrupt or no longer open, or has a slot for
them. One that is parked because the queue is full or empty is not (R176, R177, R180). -/
def QSt.owes (x : QSt) : Bool :=
  (!x.h.producers.isEmpty && (x.q.corrupt.isSome || x.q.state != 0 || !x.q.full)) ||
  (!x.h.consumers.isEmpty && (x.q.corrupt.isSome || x.q.state == 2 || x.q.drained || !x.q.empty))

/-- The queue is broken (R181): its parked lanes fault, and its handler packet has DETAIL 0. -/
def State.breakQueue (s : State) (part queue : Nat) : State :=
  let p := s.part part
  let place := p.queuePlace queue
  let x := s.qOpen place
  (x.breakQ 0).done.sendPacket part
    { kind := 1, code := 0x0F, detail := 0, party := 0, qref := queueRefOf queue, pc := 0, observed := 0,
      core := 0, lane := 0 }
    x.q.sibling (match place with | .pad t _ => some t | _ => none)

/-- Operations wait for the answer of a home that has answered nothing for 50 µs (R234, R413). -/
def State.unanswered (s : State) (p : Place) : Bool :=
  let x := s.qOpen p
  x.owes && x.h.answered + 50000 ≤ s.time

/-- QUEUE_RUNG (R234): the curator, or the ladder, breaks a queue whose home does not answer (log 43, DEDUCED). -/
def execQueueRung (part queue : Nat) (s : State) : Result :=
  let p := s.part part
  if p.rungIs 1 queue || s.unanswered (p.queuePlace queue) then
    .next (((s.breakQueue part queue).rungTaken part 1).modPart part fun p => p.finishRung 1 queue)
  else notNow "QUEUE_RUNG"

/-! ## Rung 2: a context -/

/-- A resident context has neither issued nor completed anything for 100 ms (R234) (log 43, DEDUCED). -/
def State.idleTooLong (s : State) (key : Nat) (g : Grid) : Bool :=
  s.resident key && g.lastLive + 100000000 ≤ s.time

/-- CONTEXT_RUNG (R229, R234). -/
def execContextRung (part ctx : Nat) (s : State) : Result :=
  let key := gridKey part ctx
  let p := s.part part
  match s.grids.find? key with
  | none => if p.rungIs 2 ctx then .next (s.modPart part fun p => p.finishRung 2 ctx) else notNow "CONTEXT_RUNG"
  | some g =>
    if g.status != .killed && (p.rungIs 2 ctx || s.idleTooLong key g) then
      let s := s.modPart part fun p => p.startRung 2 ctx s.time false
      .next (((s.rungTaken part 2).killContext key).settleRung part)
    else notNow "CONTEXT_RUNG"

/-! ## Rung 3: a core's engines -/

/-- A granule is poisoned where it lies. -/
def State.poisonPlace (s : State) (p : Place) : State :=
  match p with
  | .mem pa => { s with poison := ninsert (pa / 16) s.poison }
  | .pad team off => match s.teams.find? team with
    | some t => s.padWriteGranule t off 0 0 false true
    | none => s
  | _ => s

/-- A copy in flight is abandoned: its destination granules are poisoned. -/
def State.abandonCopy (s : State) (c : Copy) : State :=
  let s := c.moves.foldl (fun s m => s.poisonPlace m.dst) s
  match c.party with
  | .group gid => s.modGroup gid fun g => (g.copyDone c.cls c.id [] c.dests).1
  | .stoker core => s.modStream core fun st =>
      { st with ci := st.ci.filter (· != c.id), co := st.co.filter (· != c.id) }

/-- A matrix command in flight is abandoned: the elements that it would have written are poisoned. -/
def Core.abandonMatrix (k : Core) (m : MatCmd) : Core :=
  (List.range m.m).foldl (fun k i => (List.range m.n).foldl (fun (k : Core) j =>
    let key := tileKey m.tile i j
    { k with tiles := k.tiles.put Elem.zero key { (k.tiles.get Elem.zero key) with poison := true } }) k) k

/-- The engines of a core are reset. -/
def State.resetEngines (s : State) (core : Nat) : State :=
  let k := s.core core
  let s := k.copies.foldl (fun s c => s.abandonCopy c) s
  s.modCore core fun k =>
    let k := k.matq.foldl (fun k m => k.abandonMatrix m) k
    { k with copies := [], matq := []
             stream := k.stream.map fun st => { st with stopped := true, wait := none, ci := [], co := [] } }

/-- The contexts with a team on a core. -/
def State.contextsOn (s : State) (core : Nat) : List Nat :=
  dedup ((s.teams.cells.filter fun (_, t) => t.cores.contains core).map fun x => x.2.grid)

/-- ENGINE_RUNG (R234). -/
def execEngineRung (part core : Nat) (s : State) : Result :=
  let p := s.part part
  if p.rungIs 3 core then
    match p.cores[core]? with
    | none => .next (s.modPart part fun p => p.finishRung 3 core)
    | some c =>
      let due := (s.contextsOn c).filter fun k => (s.grids.find? k).elim false fun g => g.status != .killed
      if !due.isEmpty || !(s.core c).copies.isEmpty || !(s.core c).matq.isEmpty || s.rungDone part
          { level := 3, target := core, since := 0, byHost := false } then
        let s := (s.rungTaken part 3).resetEngines c
        .next ((due.foldl (fun s k => s.killContext k) s).settleRung part)
      else notNow "ENGINE_RUNG"
  else notNow "ENGINE_RUNG"

/-! ## Rung 4: a partition -/

/-- The grid of a partition is over at once: its completion word reports it killed (R385) (log 43, DEDUCED). -/
def State.endGrid (s : State) (key : Nat) : State :=
  match s.grids.find? key with
  | none => s
  | some g =>
    let s := s.complete385 g.part g.doneAddr 2 g.tag (gridCtxid key)
    { s with grids := s.grids.erase key }

/-- Teams, groups and grids of a partition are gone. -/
def State.clearWork (s : State) (part : Nat) : State :=
  let keys := s.gridsOf part fun _ _ => true
  let s := (s.part part).cores.foldl (fun s c => s.drainAll c) s
  let s := keys.foldl (fun s k => s.killContext k) s
  let teams := (s.teams.cells.filter fun (_, t) => keys.contains t.grid).map (·.1)
  let s := teams.foldl (fun s t => s.dropPadQueues t) s
  let s := keys.foldl (fun s k => s.endGrid k) s
  { s with teams := ⟨s.teams.cells.filter fun x => !teams.contains x.1⟩
           groups := ⟨s.groups.cells.filter fun x => !teams.contains x.2.team⟩ }

/-- A core after a reset: retired banks stay retired, and groups that were lost are removed (R131, R133). -/
def Core.afterReset (k : Core) : Core :=
  { Core.reset with pad := { Spad.reset with
      retired := k.pad.retired
      removed := k.pad.lost.foldl (fun l g => ninsert g l) k.pad.removed } }

/-- Cores and clusters of a partition are reset. -/
def State.resetClusters (s : State) (part : Nat) : State :=
  let cs := (s.part part).cores
  let s := cs.foldl (fun s c => s.modCore c Core.afterReset) s
  (dedup (cs.map clusterOf)).foldl (fun s c => s.setCluster c Cluster.reset) s

/-- Nothing of a partition is left in the dies and slices. -/
def State.forgetPart (s : State) (part : Nat) : State :=
  { s with
    dies := ⟨s.dies.cells.map fun (i, d) =>
      (i, { d with walks := d.walks.filter fun w => w.part != part
                   wcache := d.wcache.filter fun w => w.part != part })⟩
    slices := ⟨s.slices.cells.map fun (i, d) =>
      (i, { d with scopes := d.scopes.filter fun r => r.part != part })⟩ }

/-- Cores of some clusters, in ascending physical order. -/
def coresOf (clusters : List Nat) : List Nat :=
  (clusters.foldl (fun l c => ninsert c l) []).flatMap fun c => (List.range 4).map fun i => 4 * c + i

/-- A list in ascending order, without repeats. -/
def ascending (l : List Nat) : List Nat := l.foldl (fun a x => ninsert x a) []

/-- Where the curator lays the tables of a partition (log 5, DESIGN CHOICE): in the stack of its lowest channel, so on
D0's stacks where it has channels there (R187, R387) (log 7, DESIGN CHOICE). -/
def curatorBase (part : Nat) (channels : List Nat) : Nat :=
  (channels.min?.getD 0) / 32 * Config.stackBytes + part * 2 ^ 32

/-- What is left of a share where the fuses exclude what has failed, each list in ascending order (R198). -/
def PartMap.less (m fuses : PartMap) : PartMap :=
  let left := fun (l out : List Nat) => ascending (l.filter fun x => !out.contains x)
  { clusters := left m.clusters fuses.clusters, slices0 := left m.slices0 fuses.slices0
    slices1 := left m.slices1 fuses.slices1, channels := left m.channels fuses.channels
    folio := left m.folio fuses.folio }

/-- The remap table is built from the map and the fuses, and the registers of BAR0 and of the partition are at their
reset values (R198, R212, R377, R389, R391, R393). -/
def Part.rebuilt (p : Part) (part : Nat) (fuses : PartMap) : Part :=
  let m := PartMap.less p.map fuses
  let base := curatorBase part m.channels
  { Part.reset with
    map := p.map
    cores := coresOf m.clusters
    slices0 := m.slices0
    slices1 := m.slices1
    channels := m.channels
    folio := m.folio
    root := base + 0x40000000
    qtable := base + 0x80000000
    store := base + 0xC0000000
    workQs := p.workQs
    group := p.group.map fun c => { c with reports := [], excess := [], slack := 0, last := none } }

/-- CONFIG of a work queue: BLK, MD, KIND 1 (R166, R187). -/
def workConfig (q : WorkQueueCfg) : Word :=
  BitVec.ofNat 32 (q.eszlog % 16 + q.caplog % 32 * 16 + 0x800 + 0x1000 + 0x4000)

/-- The clerks open a queue of the table (R187, R188). -/
def State.openQueue (s : State) (part n : Nat) (config : Word) (slots : Nat) : State :=
  let a := (s.part part).qtable + 64 * n
  let s := { s with queues := s.queues.erase a }
  s.homeWrite a (bytesOf (qcbWords config (BitVec.ofNat 64 slots) 0 (s.homeWord part (.mem a)) 0))

/-- A work queue opens (log 5, DESIGN CHOICE). -/
def State.openWork (s : State) (part : Nat) (q : WorkQueueCfg) : State :=
  s.openQueue part q.index (workConfig q) (q.index * 2 ^ 24)

/-- The clerks make the queue table anew (log 5, DESIGN CHOICE). -/
def State.openTable (s : State) (part : Nat) : State :=
  let base := (s.part part).qtable
  let s := { s with queues := ⟨s.queues.cells.filter fun x => !(base ≤ x.1 && x.1 < base + 4096)⟩ }
  let s := s.homeWrite base (List.replicate 4096 0)
  let s := s.openQueue part 0 0x9084 0x1000
  let s := s.openQueue part 1 0xD885 0x2000
  (s.part part).workQs.foldl (fun s q => s.openWork part q) s

/-- A step of TIME that waits for a partition reset is made (R213, R398). -/
def Clock.makeStep (c : Clock) : Clock := { c with time := c.time + c.step, step := 0 }

/-- Partition reset (log 43, DEDUCED); VALID of the rails reads 0 until their next sample (R212). -/
def State.resetPart (s : State) (part : Nat) : State :=
  let s := (((s.clearWork part).resetClusters part).forgetPart part).modPart part fun p => p.rebuilt part s.fuses
  let s := (s.resetClusters part).openTable part
  { s with clock := s.clock.makeStep, rails := ⟨[]⟩ }

/-- PARTITION_RUNG (R234). -/
def execPartitionRung (part : Nat) (s : State) : Result :=
  if (s.part part).rungIs 4 0 then .next ((s.resetPart part).rungTaken part 4) else notNow "PARTITION_RUNG"

/-! ## Rung 5: the device -/

/-- An update is installed when its signature verifies and its version is not below the fused counter
(R400). -/
def State.installUpdate (s : State) : State :=
  match s.update with
  | some u =>
    if u.valid && s.rollback ≤ u.version then { s with update := none, firmware := u.version }
    else { s with update := none }
  | none => s

/-- The device after a reset: memory, the retirement record, the fuses, TIME, the record log and firmware stay (log 44,
DEDUCED). -/
def State.afterReset (s : State) : State :=
  let s := s.installUpdate
  let t : State :=
    { State.reset with
      inputs := s.inputs, schedule := s.schedule, seq := s.seq, nextId := s.nextId, free := s.free
      nominal := s.nominal, fuses := s.fuses
      parts := ⟨[(0, Part.first.rebuilt 0 s.fuses)]⟩
      clock := { Clock.reset with time := s.clock.time + s.clock.step, rest := s.clock.rest }
      firmware := s.firmware, rollback := s.rollback, errors := s.errors, upsets := s.upsets
      outbox := s.outbox, mem := s.mem, memTags := s.memTags, poison := s.poison, ceMarks := s.ceMarks
      folio := s.folio, folioPoison := s.folioPoison
      cores := ⟨s.cores.cells.map fun (i, k) => (i, k.afterReset)⟩
      dies := ⟨s.dies.cells.map fun (i, d) => (i, { Die.reset with windows := d.windows })⟩ }
  t.openTable 0

/-- DEVICE_RUNG (R234, R400). -/
def execDeviceRung (s : State) : Result :=
  if s.deviceRung.isSome then .next (s.afterReset.rungTaken 0 5) else notNow "DEVICE_RUNG"

/-! ## Timeouts (R234) -/

/-- Timeout of a rung in nanoseconds. -/
def rungLimit : Nat → Nat
  | 1 => 50000
  | 2 => 500000
  | 3 => 5000000
  | 4 => 50000000
  | _ => 500000000

/-- The target of the next rung: the context that owns the queue or waits at it, a core of the context (log 43,
DEDUCED). -/
def State.nextTarget (s : State) (part : Nat) (r : Rung) : Nat :=
  match r.level with
  | 1 =>
    let x := s.qOpen ((s.part part).queuePlace r.target)
    let w := (x.h.producers ++ x.h.consumers ++ x.h.held).head?
    if x.q.owner != 0 then x.q.owner.toNat / 65536 else (w.map fun w => w.holder.ctx.toNat / 65536).getD 0
  | 2 =>
    let t := s.teams.cells.find? fun (_, t) => t.grid == gridKey part r.target
    (t.map fun t => (s.part part).logical (t.2.cores.getD 0 1024)).getD 1024
  | _ => 0

/-- A rung that has not finished within its timeout. -/
def State.rungLate (s : State) (part : Nat) : Option Rung :=
  (s.part part).rungs.find? fun r => r.since + rungLimit r.level ≤ s.time

/-- The device rung has not finished within its timeout. -/
def State.deviceLate (s : State) : Bool :=
  match s.deviceRung with
  | some t => t + rungLimit 5 ≤ s.time
  | none => false

/-- A rung hands over to the next: BUSY clears (R394). -/
def State.handOver (s : State) (part : Nat) (r : Rung) : State :=
  let target := s.nextTarget part r
  let s := s.modPart part fun p => p.endRung r
  if r.level = 4 then { s with deviceRung := some (s.deviceRung.getD s.time) }
  else s.modPart part fun p => p.startRung (r.level + 1) target s.time false

/-- RUNG_TIMEOUT: a rung hands over to the next; a missed device rung, for which no partition is named, leaves
the module held in reset. -/
def execRungTimeout (part : Nat) (s : State) : Result :=
  match s.rungLate part with
  | some r => .next (s.handOver part r)
  | none =>
    if s.deviceLate then .next { s with held := true, deviceRung := none } else notNow "RUNG_TIMEOUT"

/-! ## RESETREQ and RESET n (R394, R401) -/

/-- TARGET names something in the partition (log 43, DEDUCED). -/
def State.targetOk (s : State) (part rung target : Nat) : Bool :=
  match rung with
  | 1 => target < 64 && (s.homeBytes ((s.part part).qtable + 64 * target) 64).any (· != 0)
  | 2 => (s.grids.find? (gridKey part target)).isSome
  | 3 => target < (s.part part).cores.length
  | _ => true

/-- A host write of RESETREQ: ignored while BUSY, or with a target that names nothing; reserved bits read
0. -/
def State.resetReq (s : State) (part : Nat) (value : Word) : State :=
  let rung := value.toNat % 8
  let target := value.toNat / 16 % 65536
  let p := s.part part
  if p.resetreq.getLsbD 31 || !s.targetOk part rung target then s
  else s.modPart part fun p =>
    ({ p with resetreq := (value &&& 0x000FFFF7) ||| 0x80000000 } : Part).startRung rung
      (if rung = 4 then 0 else target) s.time true

/-- RESETREQ with RUNG 1. -/
def execResetreqQueue (part : Nat) (value : Word) (s : State) : Result :=
  if value.toNat % 8 = 1 then .next (s.resetReq part value) else notNow "RESETREQ_QUEUE"

/-- RESETREQ with RUNG 2. -/
def execResetreqContext (part : Nat) (value : Word) (s : State) : Result :=
  if value.toNat % 8 = 2 then .next (s.resetReq part value) else notNow "RESETREQ_CONTEXT"

/-- RESETREQ with RUNG 3. -/
def execResetreqEngine (part : Nat) (value : Word) (s : State) : Result :=
  if value.toNat % 8 = 3 then .next (s.resetReq part value) else notNow "RESETREQ_ENGINE"

/-- RESETREQ with RUNG 4. -/
def execResetreqPartition (part : Nat) (value : Word) (s : State) : Result :=
  if value.toNat % 8 = 4 then .next (s.resetReq part value) else notNow "RESETREQ_PARTITION"

/-- RESET n on Yilup (R401): the ladder starts at rung n, or goes on there where RESETREQ shows a lower rung (R407); a
module held in reset answers RESET 5 only. -/
def execReset (rung part target : Nat) (s : State) : Result :=
  if rung = 5 then .next { s with held := false, deviceRung := some (s.deviceRung.getD s.time) }
  else if s.held || rung = 0 || 5 < rung || !s.targetOk part rung target then .next s
  else .next (s.modPart part fun p => p.climbTo rung (if rung = 4 then 0 else target) s.time)

end Sys2Proof.Machine
end

