-- ==== Sys2Proof/Machine/EvHost.lean ====
section
/-! DEFINITION. What the host and the peers do: BAR0 registers (R364, R377, R393), memory accesses and
AtomicOps (R118, R392), and the fabric's ports (R115, R395, R396). -/

namespace Sys2Proof.Machine

/-! ## BAR0 -/

/-- A message goes out (log 48, DESIGN CHOICE). -/
def State.send (s : State) (m : Message) : State := { s with outbox := s.outbox ++ [m] }

/-- A host read of a register completes with its 32 bits, low byte first. -/
def State.reply32 (s : State) (w : Word) : State := s.send (.readReply (leBytes 4 w.toNat) false)

/-- ENERGY_LO_READ: the host reads bits 31:0 of ENERGY, and bits 63:32 go into the latch of the virtual
function (R215). -/
def execEnergyLoRead (part : Nat) (s : State) : Result :=
  let e := (s.part part).energy
  .next ((s.modPart part fun p => { p with energyHi := (e >>> 32).setWidth 32 }).reply32 (e.setWidth 32))

/-- The offsets whose writes are events of their own. -/
def ownEvent (offset : Nat) (value : Word) : Bool :=
  (0x100 ≤ offset && offset < 0x110) || offset == 0x120 ||
  (offset == 0x130 && 1 ≤ value.toNat % 8 && value.toNat % 8 ≤ 4)

/-- REGISTER_WRITE: ERRINJEN, the feed window, and offsets that ignore writes (R364, R377, R393). -/
def execRegisterWrite (part offset : Nat) (value : Word) (s : State) : Result :=
  if ownEvent offset value then notNow "REGISTER_WRITE"
  else if offset = 0x110 then .next (s.modPart part fun p => { p with errinj := value.getLsbD 0 })
  else if 0x8000 ≤ offset ∧ offset + 4 ≤ 0x10000 then
    .next (s.modPart part fun p =>
      { p with feed := (leBytes 4 value.toNat).zipIdx.foldl (fun m (b, i) =>
          m.write (offset - 0x8000 + i) b) p.feed })
  else .next s

/-- The bytes of some numbers, and 0xFF up to a length (R198). -/
def listBytes (l : List Nat) (n : Nat) : List Byte := (List.range n).map fun i => BitVec.ofNat 8 (l.getD i 0xFF)

/-- The 256 bytes of the partition remap table (R198); the reserved ones read as unused ones do (log 82, DESIGN CHOICE). -/
def Part.remap (p : Part) : List Byte :=
  listBytes p.cores 128 ++ listBytes p.slices0 32 ++ listBytes p.slices1 32 ++
  ((List.range 32).map fun i => (List.range 8).foldl (fun (b : Byte) j =>
    if p.channels.contains (8 * i + j) then b ||| 1#8 <<< j else b) 0#8) ++
  listBytes p.folio 16 ++
  listBytes [p.cores.length, p.slices0.length, p.slices1.length, p.folio.length] 16

/-- TIMESTAT (R398). -/
def Clock.timestat (c : Clock) : Dword :=
  let off := BitVec.ofInt 32 (max (-0x80000000) (min 0x7FFFFFFF c.offset))
  (if c.lock then 0x8000000000000000 else 0) ||| BitVec.ofNat 64 (c.src % 4 * 2 ^ 61) ||| off.setWidth 64

/-- One half of a 64-bit register. -/
def halfOf (d : Dword) (hi : Bool) : Word := if hi then (d >>> 32).setWidth 32 else d.setWidth 32

/-- The word that a host reads at a 4-byte aligned offset of a virtual function's BAR0; offsets that are not listed read
0 (R393). PGRESUME reads BUSY 0, ENERGY_HI the latch. -/
def State.bar0 (s : State) (part offset : Nat) : Word :=
  let p := s.part part
  if offset = 0x100 ∨ offset = 0x104 then halfOf p.invreq (offset == 0x104)
  else if offset = 0x108 ∨ offset = 0x10C then halfOf p.pgresume (offset == 0x10C)
  else if offset = 0x110 then (if p.errinj then 1 else 0)
  else if offset = 0x120 then p.feedTail
  else if offset = 0x124 then p.feedHead
  else if offset = 0x130 then p.resetreq
  else if offset = 0x204 then p.energyHi
  else if offset = 0x300 ∨ offset = 0x304 then halfOf s.clock.timestat (offset == 0x304)
  else if 0x1000 ≤ offset ∧ offset < 0x1100 then BitVec.ofNat 32 (leNat ((p.remap.drop (offset - 0x1000)).take 4))
  else if 0x8000 ≤ offset ∧ offset < 0x10000 then
    BitVec.ofNat 32 (leNat ((List.range 4).map fun i => p.feed.read (offset - 0x8000 + i)))
  else 0

/-! ## Memory -/

/-- A device address that the device does not have. -/
def beyond (pa size : Nat) : Bool := isDevice pa && Config.hbmBytes < pa + size

/-- The first poisoned granule that a range meets, as an address within the range. -/
def State.firstPoison (s : State) (pa size : Nat) : Option Nat :=
  ((List.range ((pa + size + 15) / 16 - pa / 16)).map fun i => pa / 16 + i).findSome? fun w =>
    if s.poison.contains w then some (max pa (16 * w)) else none

/-- A host read of memory: a poisoned sector completes with the poisoned-data indication and an error record of DETAIL 9
(R118). -/
def State.hostRead (s : State) (part pa size : Nat) : State :=
  let bad := s.firstPoison pa size
  let s := s.send (.readReply (s.homeBytes pa size) bad.isSome)
  match bad with
  | some a => s.errorRecord part 0 9 0 (BitVec.ofNat 64 (a % 2 ^ 52)) 0 0 0 0
  | none => s

/-- HOST_MEMORY_READ: a host read of device memory (R118), or of whole registers of BAR0 without ENERGY_LO, whose read is
an event of its own (R215, R393). -/
def execHostMemoryRead (part : Nat) (start : HostAddr) (size : Nat) (s : State) : Result :=
  match start with
  | .memory pa => if beyond pa size then .fault (.noSuchMemory pa) else .next (s.hostRead part pa size)
  | .register offset =>
    if offset % 4 ≠ 0 ∨ size % 4 ≠ 0 ∨ (offset ≤ 0x200 ∧ 0x200 < offset + size) then notNow "HOST_MEMORY_READ"
    else
      let words := (List.range (size / 4)).map fun i => s.bar0 part (offset + 4 * i)
      .next (s.send (.readReply (words.flatMap fun w => leBytes 4 w.toNat) false))

/-- HOST_MEMORY_WRITE: a posted write of the host, or of another agent outside to memory outside (R113 to R115)
(log 48, DESIGN CHOICE). -/
def execHostMemoryWrite (pa : Nat) (bytes : List Byte) (s : State) : Result :=
  if beyond pa bytes.length then .fault (.noSuchMemory pa) else .next (s.homeWrite pa bytes)

/-- One atomic of an outside agent at the home: the reply, and memory afterwards; a poisoned operand changes
nothing (log 48, DESIGN CHOICE). -/
def State.outsideAtomic (s : State) (pa n : Nat) (f : Nat → Nat) : Nat × Bool × State :=
  let old := leNat (s.homeBytes pa n)
  let bad := s.homePoison pa n
  (old, bad, if bad then s else s.homeWrite pa (leBytes n (f old)))

/-- The new value of a PCI Express AtomicOp. -/
def hostOpValue (op : HostOp) (n : Nat) (operand new : Dword) (old : Nat) : Nat :=
  match op with
  | .fetchAdd => (old + operand.toNat) % 256 ^ n
  | .swap => operand.toNat % 256 ^ n
  | .cas => if old = operand.toNat % 256 ^ n then new.toNat % 256 ^ n else old

/-- HOST_ATOMIC_OP (R392): FetchAdd, Swap and CAS at 32 and 64 bits. -/
def execHostAtomicOp (op : HostOp) (pa : Nat) (wide : Bool) (operand new : Dword) (s : State) : Result :=
  let n := if wide then 8 else 4
  if pa % n ≠ 0 then notNow "HOST_ATOMIC_OP"
  else if beyond pa n then .fault (.noSuchMemory pa)
  else
    let (old, bad, s) := s.outsideAtomic pa n (hostOpValue op n operand new)
    .next (s.send (.atomicReply (BitVec.ofNat 64 old) bad))

/-! ## The fabric -/

/-- Bytes of an element in memory. -/
def tyBytes (t : Ty) : Nat := elemBits t / 8

/-- PEER_REQUEST: a peer's load, store or atomic is executed at this device's home (R115, R395). -/
def execPeerRequest (port : Nat) (r : PeerReq) (s : State) : Result :=
  if !s.ports.getD port false then notNow "PEER_REQUEST"
  else match r with
    | .load pa size =>
      if hostBase ≤ pa ∨ beyond pa size then .fault (.noSuchMemory pa)
      else .next (s.send (.peerReply port (s.homeBytes pa size) (s.homePoison pa size)))
    | .store pa bytes =>
      if hostBase ≤ pa ∨ beyond pa bytes.length then .fault (.noSuchMemory pa)
      else .next (s.homeWrite pa bytes)
    | .atomic pa ty op operand =>
      let n := tyBytes ty
      if hostBase ≤ pa ∨ beyond pa n then .fault (.noSuchMemory pa)
      else
        let (old, bad, s) := s.outsideAtomic pa n fun old => atomOp op ty old (operand.toNat % 256 ^ n)
        .next (s.send (.peerReply port (leBytes n old) bad))
    | .cas pa ty cmp new =>
      let n := tyBytes ty
      if hostBase ≤ pa ∨ beyond pa n then .fault (.noSuchMemory pa)
      else
        let (old, bad, s) := s.outsideAtomic pa n fun old =>
          if old = cmp.toNat % 256 ^ n then new.toNat % 256 ^ n else old
        .next (s.send (.peerReply port (leBytes n old) bad))

/-- A page table names a port: some leaf below a table does, with fuel for the levels left. -/
def State.tableNames (s : State) (port : Nat) : (fuel level table : Nat) → Bool
  | 0, _, _ => false
  | fuel + 1, level, table =>
    let n := 2 ^ (levelBits level).2
    (List.range n).any fun i =>
      let pa := table + 8 * i
      let e : Dword := BitVec.ofNat 64 (leNat (s.homeBytes pa 8))
      entryV e && pa < Config.hbmBytes && !entryMalformed level e &&
        (if entryLeaf e then entryTarget e == 2 && entryPort e == port
         else s.tableNames port fuel (level + 1) (entryAddr e))

/-- MSI-X vector 3 of every virtual function whose pages name a port (R396). -/
def State.signalPort (s : State) (port : Nat) : State :=
  (s.parts.cells.filter fun (_, p) => s.tableNames port 5 1 p.root).foldl (fun s x => s.interrupt x.1 3) s

/-- A read in flight through the port completes with its data poisoned. -/
def LaneWrite.losePort (w : LaneWrite) (port : Nat) : LaneWrite :=
  if w.port == some port then { w with elem := { w.elem with poison := true } } else w

/-- Reads of a group in flight through the port are poisoned (log 32, DEDUCED). -/
def Group.losePort (g : Group) (port : Nat) : Group :=
  { g with flights := g.flights.map fun f => { f with writes := f.writes.map fun w => w.losePort port } }

/-- A copy in flight that reads or writes through the port: what it still reads there is poisoned, what it still writes
there is lost (R396). -/
def Copy.losePort (c : Copy) (port : Nat) : Copy :=
  let c := if c.moves.any fun m => m.src.port == some port || m.dst.port == some port then
      { c with cut := c.cut ++ [port] }
    else c
  match c.moves.find? fun m => m.dst.port == some port with
  | some m => { c with lost := some m.va }
  | none => c

/-- A core's copies in flight lose the port. -/
def Core.losePort (k : Core) (port : Nat) : Core :=
  { k with copies := k.copies.map fun c => c.losePort port }

/-- PORT_DOWN (R396). -/
def execPortDown (port : Nat) (s : State) : Result :=
  if s.ports.getD port false then
    let s := { s with
      ports := listModify s.ports port fun _ => false
      groups := ⟨s.groups.cells.map fun (x : Nat × Group) => (x.1, x.2.losePort port)⟩
      cores := ⟨s.cores.cells.map fun (x : Nat × Core) => (x.1, x.2.losePort port)⟩ }
    .next (s.signalPort port)
  else notNow "PORT_DOWN"

/-- PORT_UP: the curator has retrained the port (R396). -/
def execPortUp (port : Nat) (s : State) : Result :=
  if port < 8 ∧ s.ports.getD port false = false then
    .next ({ s with ports := listModify s.ports port fun _ => true }.signalPort port)
  else notNow "PORT_UP"

end Sys2Proof.Machine
end

