-- ==== Sys2Proof/Machine/EvPower.lean ====
section
/-! DEFINITION. Power and clocks: the damper (R214, R216, R402, R403), lane clock ratios, droop alarms (R404)
and slack control (R397). -/

namespace Sys2Proof.Machine

/-! ## The damper (R214, R216, R402) -/

/-- IRAIL after another sample: SEQ advances with each, the first among them. -/
def railSample (old : Word) (code : BitVec 10) : Word :=
  let seq := (old.toNat / 65536 + 1) % 1024
  0x80000000 ||| BitVec.ofNat 32 (seq * 65536) ||| code.setWidth 32

/-- The rails are sampled (log 6, DESIGN CHOICE). -/
def State.sampleRails (s : State) (codes : List (BitVec 10)) : State :=
  { s with rails := (List.range 8).foldl (fun (t : Tab Word) i =>
      t.insert i (railSample (t.get 0 i) (codes.getD i 0))) s.rails }

/-- The sum of the readings of some units. -/
def readingsOf (l units : List Nat) : Nat := (units.map fun i => l.getD i 0).sum

/-- The energy of an interval that a partition is charged: its clusters, L2 slices, HBM channels and Folio bank groups,
and of the shared rails its share by traffic, rounded down (R214) (log 6, DESIGN CHOICE). -/
def Part.energyOf (p : Part) (part : Nat) (r : Readings) : Nat :=
  readingsOf r.clusters (dedup (p.cores.map clusterOf)) +
  readingsOf r.slices (p.slices0 ++ p.slices1.map (32 + ·)) +
  readingsOf r.channels p.channels + readingsOf r.folio p.folio +
  r.shared * r.traffic.getD part 0 / r.traffic.sum

/-- Each partition's energy of the interval is added (R214). -/
def State.addEnergy (s : State) (r : Readings) : State :=
  { s with parts := ⟨s.parts.cells.map fun (i, p) =>
      (i, { p with energy := p.energy + BitVec.ofNat 64 (p.energyOf i r) })⟩ }

/-- Insert a number behind those that a rank puts before it. -/
def rankInsert (rank : Nat → Nat) (i : Nat) : List Nat → List Nat
  | [] => [i]
  | j :: r => if rank j ≤ rank i then j :: rankInsert rank i r else i :: j :: r

/-- Numbers below n in ascending rank; of equals the lower comes first. -/
def ranked (rank : Nat → Nat) (n : Nat) : List Nat :=
  (List.range n).foldl (fun l i => rankInsert rank i l) []

/-- GRANT of a cluster's cores. -/
def State.grantOf (s : State) (cluster : Nat) : Nat := (s.core (4 * cluster)).grant

/-- Change GRANT on every core of some clusters. -/
def State.setGrants (s : State) (cs : List Nat) (f : Nat → Nat) : State :=
  cs.foldl (fun s c => (List.range 4).foldl (fun s i =>
    s.modCore (4 * c + i) fun k => { k with grant := f k.grant }) s) s

/-- Input power in tenths of a watt: CODE × 0.05 A × 48 V. -/
def inputPower (codes : List (BitVec 10)) : Nat := (codes.getD 7 0).toNat * 24

/-- The damper's steps on GRANT (log 45, DEDUCED). -/
def State.damp (s : State) (p : Nat) : State :=
  if 15000 < p then
    let byRate := ranked (fun c => 2 ^ 32 - (s.cluster c).rate) 32
    s.setGrants (byRate.take 8) fun g => max 1 (g - 1)
  else if p < 14400 then s.setGrants ((ranked s.grantOf 32).take 8) fun g => min 4 (g + 1)
  else s

/-- Vector batches that a cluster issues in 64 intervals at half its peak: 8 slots, 525 cycles each (log 45, DEDUCED).
-/
def halfPeak : Nat := 64 * 525 * 8 / 2

/-- The counts of one cluster after an interval: intervals with GRANT at 1 above 1,500 W, intervals below 1,440
W, and the vector issue of the last 64 (log 45, DEDUCED). -/
def Cluster.count (k : Cluster) (p grant : Nat) : Cluster :=
  { k with
    hot := if grant = 1 ∧ 15000 < p then k.hot + 1 else 0
    cool := if p < 14400 then k.cool + 1 else 0
    busyIntervals := (k.vector :: k.busyIntervals).take 64
    rate := 0, vector := 0 }

/-- The lane ratio that the damper gives a cluster: its code, 0 for 0.5, 1 and 2 (log 45, DEDUCED). -/
def Cluster.wanted (k : Cluster) (p : Nat) (isMatrix : Bool) : Nat :=
  if k.ratio = 0 then (if 64 ≤ k.cool then 1 else 0)
  else if 64 ≤ k.hot then 0
  else if isMatrix || 12000 ≤ p then 1
  else if k.ratio = 2 then 2
  else if k.busyIntervals.length = 64 ∧ halfPeak < k.busyIntervals.sum then 2
  else 1

/-- A matrix team is resident on the cluster, or waits for it to have ratio 1. -/
def State.matrixOn (s : State) (cluster : Nat) : Bool :=
  s.teams.cells.any fun (_, t) => t.isMatrix && t.cores.any fun c => clusterOf c == cluster

/-- A change of the lane ratio stalls the cluster for 128 front-end cycles. -/
def Cluster.retune (k : Cluster) (p : Nat) (isMatrix : Bool) : Cluster :=
  if k.stall.isNone && k.wanted p isMatrix != k.ratio then
    { k with stall := some (128, k.wanted p isMatrix), hot := 0, cool := 0 }
  else k

/-- The damper's work on one cluster. -/
def State.dampCluster (s : State) (p cluster : Nat) : State :=
  s.modCluster cluster fun k => (k.count p (s.grantOf cluster)).retune p (s.matrixOn cluster)

/-- DAMPER_INTERVAL: the regulators' readings of 500 ns, and what the damper does with them (log 6, DESIGN
CHOICE). -/
def execDamperInterval (codes : List (BitVec 10)) (r : Readings) (s : State) : Result :=
  let p := inputPower codes
  let s := ((s.sampleRails codes).addEnergy r).damp p
  .next ((List.range 32).foldl (fun s c => s.dampCluster p c) s)

/-- LANE_RATIO_STALL_END: LANECLK reads the new ratio from now on (R402). Ratio 2 is not granted to a cluster on which a
matrix team has been placed meanwhile. -/
def execLaneRatioStallEnd (cluster : Nat) (s : State) : Result :=
  match (s.cluster cluster).stall with
  | some (0, code) => .next (s.modCluster cluster fun k =>
      { k with stall := none, ratio := if code = 2 ∧ s.matrixOn cluster then k.ratio else code })
  | _ => notNow "LANE_RATIO_STALL_END"

/-! ## Droops (R404) -/

/-- DROOP_ALARM: an alarm in step 1 joins the sequence; any other starts one (log 45, DEDUCED). -/
def execDroopAlarm (cluster : Nat) (s : State) : Result :=
  let k := s.cluster cluster
  if 32 ≤ cluster ∨ !k.droopCfg.getLsbD 31 then notNow "DROOP_ALARM"
  else if 1 < k.stretchLeft then .next s
  else .next (s.setCluster cluster { k with stretchLeft := 8, droopEv := k.droopEv + 1 })

/-- STRETCH_END: step 2 of the sequence, 64 cycles of halved issue. -/
def execStretchEnd (cluster : Nat) (s : State) : Result :=
  let k := s.cluster cluster
  if k.stretchLeft = 1 then .next (s.setCluster cluster { k with stretchLeft := 0, halvedLeft := 65 })
  else notNow "STRETCH_END"

/-- HALVED_END: the sequence is over. -/
def execHalvedEnd (cluster : Nat) (s : State) : Result :=
  let k := s.cluster cluster
  if k.halvedLeft = 1 then .next (s.setCluster cluster { k with halvedLeft := 0 })
  else notNow "HALVED_END"

/-! ## Slack control (R397) -/

/-- Length of a round in nanoseconds. -/
def roundNs : Nat := 64000

/-- The slacks reported for a round. -/
def Collective.reported (c : Collective) (round : Nat) : List (Nat × Nat) :=
  (c.reports.filter fun r => r.1 == round).map (·.2)

/-- Every member's report for a round has arrived. -/
def Collective.complete (c : Collective) (round : Nat) : Bool :=
  c.members.all fun m => (c.reported round).any fun r => r.1 == m

/-- The excess of a round with its own slack: 0 where a member's report has not arrived. -/
def Collective.excessOf (c : Collective) (round slack : Nat) : Nat :=
  if c.complete round then slack - ((c.reported round).map (·.2)).foldl min slack else 0

/-- The bin after a round. -/
def binAfter (excess : List Nat) (since bin : Nat) : Nat :=
  if since < 32 then bin
  else if excess.length = 8 ∧ excess.all (8000 < ·) then min 3 (bin + 1)
  else if 2 ≤ excess.length ∧ (excess.take 2).all (· < 2000) then bin - 1
  else bin

/-- A round of a partition is over. -/
def State.roundDue (s : State) (part : Nat) : Bool :=
  match (s.part part).group with
  | some c => c.round < s.time / roundNs
  | none => false

/-- A round that has ended is judged: the excess, and the clocks of the partition may change their bin. -/
def State.judgeRound (s : State) (part : Nat) (c : Collective) (slack : Nat) : State :=
  let excess := (c.excessOf (c.round - 1) slack :: c.excess).take 8
  let clusters := dedup ((s.part part).cores.map clusterOf)
  let bin := (s.cluster (clusters.headD 0)).bin
  let new := binAfter excess c.since bin
  let s := s.modPart part fun p =>
    { p with group := some { c with
        reports := c.reports.filter fun r => c.round ≤ r.1
        excess, last := none
        since := if new = bin then min 32 (c.since + 1) else 1 } }
  if new = bin then s
  else clusters.foldl (fun s k => s.modCluster k fun k => { k with bin := new }) s

/-- The round before is judged where every member's report for it has arrived, or at the end of the next round at the latest
(log 67, DESIGN CHOICE). -/
def State.judgeDue (s : State) (part : Nat) (atEnd : Bool) : State :=
  match (s.part part).group with
  | some c => match c.last with
    | some slack => if atEnd || c.complete (c.round - 1) then s.judgeRound part c slack else s
    | none => s
  | none => s

/-- A round ends: its slack goes to the group and waits for the reports of the others. -/
def State.endRound (s : State) (part : Nat) : State :=
  let s := s.judgeDue part true
  match (s.part part).group with
  | some c =>
    let s := s.send (.slack part c.round c.slack)
    (s.modPart part fun p =>
      { p with group := some { c with last := some c.slack, slack := 0, round := c.round + 1 } }).judgeDue part false
  | none => s

/-- SLACK_ROUND: a round of the partition has ended. -/
def execSlackRound (part : Nat) (s : State) : Result :=
  if s.roundDue part then .next (s.endRound part) else notNow "SLACK_ROUND"

/-- SLACK_REPORT: the slack of another member for a round. -/
def execSlackReport (part member : Nat) (report : RoundSlack) (s : State) : Result :=
  match (s.part part).group with
  | some c =>
    if c.members.contains member then
      .next ((s.modPart part fun p =>
        { p with group := some { c with
            reports := c.reports.filter (fun r => !(r.1 == report.round && r.2.1 == member)) ++
              [(report.round, member, report.slack)] } }
        ).judgeDue part false)
    else notNow "SLACK_REPORT"
  | none => notNow "SLACK_REPORT"

end Sys2Proof.Machine
end

