-- ==== Sys2Proof/Machine/EvMgmt.lean ====
section
/-! DEFINITION. Time sources (R213, R398), the patrol scrub (R406), clerks (R399), Yilup (R401), firmware and
SPDM (R400), and the configuration of partitions (R387, R389, R397). -/

namespace Sys2Proof.Machine

/-! ## Time (R213, R398) -/

/-- A number held between two bounds. -/
def clampInt (lo hi x : Int) : Int := max lo (min hi x)

/-- A measurement of TIME − source by a source: TIMESTAT, the rate, and a step forward for the next partition
reset where TIME lags by more than 1 ms. One source at a time disciplines TIME: the curator keeps the one it has until it
is lost (R398) (log 68, DESIGN CHOICE). -/
def Clock.measure (c : Clock) (src : Nat) (offset : Int) : Clock :=
  let near := -100 ≤ offset && offset ≤ 100
  let good := if near then min 16 (c.good + 1) else 0
  if c.src = 0 ∨ c.src = src then
    { c with
      src, offset, good, lock := good == 16
      rate := clampInt (-100) 100 (-offset)
      step := if offset < -1000000 then (-offset).toNat else 0 }
  else c

/-- PTM_MEASUREMENT. -/
def execPtmMeasurement (offset : Int) (s : State) : Result :=
  .next { s with clock := s.clock.measure 1 offset }

/-- TIME_OF_DAY_MESSAGE: the PTP seconds of the next pulse. -/
def execTimeOfDayMessage (secs : Nat) (s : State) : Result :=
  .next { s with clock := { s.clock with tod := some secs } }

/-- PPS_PULSE: a pulse with its time of day is a measurement (log 46, DEDUCED). -/
def execPpsPulse (s : State) : Result :=
  match s.clock.tod with
  | some secs => .next { s with
      clock := { s.clock.measure 2 ((s.time : Int) - secs * 1000000000) with tod := none } }
  | none => .next s

/-- TIME_SOURCE_LOSS: TIME runs free. LOCK goes on saying what the last 16 measurements were. -/
def execTimeSourceLoss (s : State) : Result :=
  .next { s with clock := { s.clock with src := 0, rate := 0 } }

/-! ## Patrol scrub and clerks -/

/-- PATROL_SCRUB: a corrected error of a sector is written back, an uncorrectable one poisons it (R119,
R406). -/
def execPatrolScrub (sector : Nat) (r : ScrubResult) (s : State) : Result :=
  if Config.hbmBytes ≤ sector * 32 then notNow "PATROL_SCRUB"
  else match r with
    | .clean => .next s
    | .corrected => .next { s with ceMarks := nerase sector s.ceMarks }
    | .uncorrectable =>
      .next { s with poison := ninsert (2 * sector + 1) (ninsert (2 * sector) s.poison) }

/-- CLERK_RESTART: nothing is lost (R379, R399). -/
def execClerkRestart (clerk : Nat) (s : State) : Result :=
  if clerk < 6 then .next s else notNow "CLERK_RESTART"

/-! ## Partition configuration -/

/-- Two lists have nothing in common. -/
def disjoint (a b : List Nat) : Bool := a.all fun x => !b.contains x

/-- Two shares have nothing in common. -/
def sharesApart (a b : PartMap) : Bool :=
  disjoint a.clusters b.clusters && disjoint a.slices0 b.slices0 && disjoint a.slices1 b.slices1 &&
  disjoint a.channels b.channels && disjoint a.folio b.folio

/-- A share names parts of the device. -/
def shareWithin (m : PartMap) : Bool :=
  m.clusters.all (· < 32) && m.slices0.all (· < 32) && m.slices1.all (· < 32) &&
  m.channels.all (· < 256) && m.folio.all (· < 16)

/-- The share of a partition that is in force: what its last reset has given it (R198, R387). -/
def Part.inForce (p : Part) : PartMap :=
  { clusters := dedup (p.cores.map clusterOf), slices0 := p.slices0, slices1 := p.slices1
    channels := p.channels, folio := p.folio }

/-- The share may be set: it lies within the device, apart from those that are set for the other partitions and from
those that are still in force there (R387) (log 47, DEDUCED). -/
def State.mapOk (s : State) (part : Nat) (m : PartMap) : Bool :=
  part < 8 && shareWithin m &&
    s.parts.cells.all fun (i, p) => i == part || (sharesApart m p.map && sharesApart m p.inForce)

/-- Set a partition's share; a partition reset applies it (R387) (log 47, DEDUCED). -/
def State.setMap (s : State) (part : Nat) (m : PartMap) : State :=
  s.modPart part fun p => ({ p with map := m } : Part).climbTo 4 0 s.time

/-- A work queue's configuration is one that CONFIG can hold (R166, R187). -/
def workQueueOk (q : WorkQueueCfg) : Bool :=
  2 ≤ q.index && q.index < 64 && 2 ≤ q.eszlog && q.eszlog ≤ 8 && 2 ≤ q.caplog && q.caplog ≤ 16

/-- Configure a work queue: it opens at once where its entry holds none yet, else at the next partition reset
(log 47, DEDUCED). -/
def State.setWork (s : State) (part : Nat) (q : WorkQueueCfg) : State :=
  let p := s.part part
  let old := p.workQs.any fun w => w.index == q.index
  let s := s.modPart part fun p => { p with workQs := p.workQs.filter (fun w => w.index != q.index) ++ [q] }
  if old then s else s.openWork part q

/-- A new collective group. -/
def State.newCollective (s : State) (members : List Nat) : Option Collective :=
  if members.isEmpty then none
  else some { members, reports := [], excess := [], since := 32, slack := 0, round := s.time / roundNs, last := none }

/-- PARTITION_CONFIGURATION: the physical function sets a slice length, a work queue, a collective group or a
share, or starts the device rung (R394). -/
def execPartitionConfiguration (part : Nat) (cfg : PartCfg) (s : State) : Result :=
  if 8 ≤ part then notNow "PARTITION_CONFIGURATION"
  else match cfg with
    | .slice ns =>
      if 100000 ≤ ns ∧ ns ≤ 100000000 then .next (s.modPart part fun p => { p with slice := ns })
      else notNow "PARTITION_CONFIGURATION"
    | .workQueue q =>
      if workQueueOk q then .next (s.setWork part q) else notNow "PARTITION_CONFIGURATION"
    | .collective ms => .next (s.modPart part fun p => { p with group := s.newCollective ms })
    | .partMap m =>
      if s.mapOk part m then .next (s.setMap part m) else notNow "PARTITION_CONFIGURATION"
    | .deviceRung => .next { s with deviceRung := some (s.deviceRung.getD s.time) }

/-! ## Yilup (R401) -/

/-- The rung in progress: the highest of the device's. -/
def State.rungNow (s : State) : Option Nat :=
  if s.deviceRung.isSome then some 5
  else
    let ls := s.parts.cells.flatMap fun x => x.2.rungs.map (·.level)
    if ls.isEmpty then none else some (ls.foldl max 0)

/-- STATUS. -/
def execStatus (s : State) : Result :=
  .next (s.send (.status s.held s.rungNow s.clock.timestat ((List.range 8).map fun i => s.rails.get 0 i)))

/-- LOG: a module held in reset does not answer. -/
def execLog (s : State) : Result := .next (if s.held then s else s.send (.log s.errors))

/-- MAP: read the partition map, or set a share of it. -/
def execMap (c : MapCmd) (s : State) : Result :=
  if s.held then .next s
  else match c with
    | .read => .next (s.send (.partMap (s.parts.cells.map fun x => x.2.map)))
    | .set part m =>
      .next (if s.mapOk part m then (s.setMap part m).send (.accepted true) else s.send (.accepted false))

/-- UPDATE: an image is kept for the next device rung where its signature verifies and its version is not below
the fused counter (R400) (log 20, DESIGN CHOICE). -/
def execUpdate (image : Image) (s : State) : Result :=
  if s.held then .next s
  else
    let ok := image.valid && s.rollback ≤ image.version
    .next ({ s with update := if ok then some image else s.update }.send (.accepted ok))

/-! ## SPDM over DOE (R400) -/

/-- SPDM_VERSION: 1.2 (log 20, DESIGN CHOICE). -/
def execSpdmVersion (s : State) : Result := .next (s.send (.spdm 0 [0x12]))

/-- SPDM_CAPABILITIES. -/
def execSpdmCapabilities (s : State) : Result := .next (s.send (.spdm 1 (Config.spdmAnswer 1 0)))

/-- SPDM_ALGORITHMS: it signs with Falcon-1024 and hashes with SHAKE256, both vendor-defined. -/
def execSpdmAlgorithms (s : State) : Result := .next (s.send (.algorithms .falcon1024 .shake256 true))

/-- SPDM_CERTIFICATES: the chain of the device stands in slot 0. -/
def execSpdmCertificates (slot : Nat) (s : State) : Result :=
  .next (s.send (.spdm 3 (if slot = 0 then Config.spdmAnswer 3 0 else [])))

/-- Numbers of a share. -/
def PartMap.numbers (m : PartMap) : List Nat :=
  [m.clusters, m.slices0, m.slices1, m.channels, m.folio].flatMap fun l => l.length :: l

/-- What a measurement is of (R400): 1 the boot ROM, which never changes, 2 the curator image and 3 the clerk image, which
the version in force names, 4 the fuses and the remap tables, 5 the partition map. -/
def State.measured (s : State) (index : Nat) : List Nat :=
  match index with
  | 2 | 3 => [s.firmware]
  | 4 => PartMap.numbers s.fuses ++ s.parts.cells.flatMap fun (i, p) => i :: (p.remap.map (·.toNat))
  | 5 => s.parts.cells.flatMap fun (i, p) => i :: PartMap.numbers p.map
  | _ => []

/-- The five measurements: digests of what they are of (log 20, DESIGN CHOICE). -/
def State.measurement (s : State) (index : Nat) : List Nat := Config.digest index (s.measured index)

/-- SPDM_CHALLENGE: the nonce and the measurements signed with the identity key (log 20, DESIGN CHOICE). -/
def execSpdmChallenge (nonce : Nat) (s : State) : Result :=
  .next (s.send (.spdm 4 (Config.signature (nonce :: (List.range 5).flatMap fun i => s.measurement (i + 1)))))

/-- SPDM_MEASUREMENTS: five measurements; any other index has none. -/
def execSpdmMeasurements (index : Nat) (s : State) : Result :=
  .next (s.send (.spdm 5 (if 1 ≤ index ∧ index ≤ 5 then s.measurement index else [])))

end Sys2Proof.Machine
end

