-- ==== Sys2Proof/Machine/Lane.lean ====
section
/-! DEFINITION. Class 5: movement across lanes and reductions (R316, R317). -/

namespace Sys2Proof.Machine

/-! ## Reading another lane (R316) -/

/-- A latch's element in a position: a lane outside the batch has been given none, and is a free value (log 2)
(log 28, DEDUCED). -/
def Ctx.latchElem (c : Ctx) (x : Latch) (j : Nat) : Elem :=
  if c.is.lanes.contains j then x.elems.get Elem.zero (c.g.position j)
  else freeElem (c.s.free + c.g.position j)

/-- An element that the first slot has written in this cycle, as it stood before: a lane exchange on the second slot
does not see the write (R316, R319). -/
def Ctx.oldElem (c : Ctx) (r : Reg) (p : Nat → Bool) : Option OldElem :=
  if c.is.slot = 0 then none
  else c.g.old.find? fun x => x.cycle == c.s.cyclesOf c.g.core && x.reg == r && p x.lane

/-- A register's element, tag and valid bit in lane `j` as a lane exchange reads them. -/
def Ctx.seen (c : Ctx) (r : Reg) (j : Nat) : Elem × Bool :=
  match c.oldElem r (· == j) with
  | some x => (x.elem, x.valid)
  | none => (c.g.elem r j, c.g.nearOk r j)

/-- The tag of a register's column as a lane exchange reads it. -/
def Ctx.seenTag (c : Ctx) (r : Reg) (j : Nat) : Tag :=
  match c.oldElem r (fun l => l / 8 == j / 8) with
  | some x => x.tag
  | none => c.g.tag r j

/-- A source of `n` registers read in lane `j`, its row resolved through the reading lane's window. -/
def Ctx.readFrom (c : Ctx) (l : Nat) (o : Opnd) (n j : Nat) : Except Stop Src := do
  match o with
  | .v _ | .n _ =>
    let r := c.reg l o
    let rs := (List.range n).map r.succ
    require (rs.all fun r => (c.seen r j).2)
      { code := 0x05, addr := BitVec.ofNat 64 o.code, operand := fS1 }
    return { elems := rs.map fun r => (c.seen r j).1, tags := rs.map fun r => c.seenTag r j,
             kind := .stored }
  | .b i =>
    let slot := (c.s.core c.g.core).slot c.is.slot
    if !slot.validFor c.gid c.is.lanes || slot.latch.length < i + n then .error .replay
    else
      let ls := (List.range n).map fun k => slot.latch.getD (i + k) Latch.empty
      return { elems := ls.map fun x => c.latchElem x j
               tags := ls.map fun x => x.tags.get Tag.start (c.g.position j / 8), kind := .stored }
  | .u _ | .zero => c.read l o n fS1 0
  | _ =>
    return { elems := { bits := BitVec.ofNat 32 (c.special j o), poison := false } ::
               List.replicate (n - 1) Elem.zero
             tags := [], kind := .special }

/-- The lanes whose columns a source's tag is judged in: all the columns of the group, or of the batch for a
latch (log 28, DEDUCED). -/
def Ctx.tagLanes (c : Ctx) (o : Opnd) : List Nat :=
  match o with
  | .b _ => c.is.lanes
  | _ => (List.range ((c.g.width + 7) / 8)).map (· * 8)

/-- The tags of the k-th register of a source in the columns of the group, read through a lane's window. -/
def Ctx.columnTags (c : Ctx) (l : Nat) (o : Opnd) (k : Nat) : List Tag :=
  match o with
  | .v _ | .n _ => (c.tagLanes o).map fun j => c.seenTag ((c.reg l o).succ k) j
  | .b i =>
    let slot := (c.s.core c.g.core).slot c.is.slot
    (c.tagLanes o).map fun j => (slot.latch.getD (i + k) Latch.empty).tags.get Tag.start (c.g.position j / 8)
  | _ => []

/-- A tag mismatch where the columns of a moved register do not all carry one tag (R316). -/
def Ctx.sameColumns (c : Ctx) (o : Opnd) (k : Nat) : Except Stop Unit :=
  match c.is.eff.flatMap fun l => c.columnTags l o k with
  | t :: r => match r.find? (· != t) with
    | some u => raise { code := 0x03, addr := tagWord u, operand := fS1 }
    | none => .ok ()
  | [] => .ok ()

/-- The value of a lane exchange: the moved source, with the poison of the lane operand. -/
def movedRes (ty : Ty) (x b : Src) : VRes :=
  { elems := x.elems.map fun e => { e with poison := e.poison || b.poison }
    tag := x.tagAs ty, hiTag := x.hiTag }

/-- Operands of a lane movement: the destination, the moved source, the lane operand. -/
def Ctx.moveOk (c : Ctx) (l : Nat) (a : VArgs) (s2ok : Bool) : Except Stop Unit := do
  c.dstOk l a.dst a.ty.regs
  require (c.inBounds l a.s1 a.ty.regs && a.s1 != .imm) (badOperand fS1)
  require (c.inBounds l a.s2 1 && a.s2 != .imm && s2ok) (badOperand fS2)
  c.survivor l a.dst a.ty.regs

/-- The source lane of `shfl`; none is out of range. -/
def shflLane (mode : BitVec 4) (width l b : Nat) : Option Nat :=
  let j : Int := match mode.toNat with
    | 0 => b
    | 1 => (l : Int) - b
    | 2 => l + b
    | _ => (l ^^^ b : Nat)
  if 0 ≤ j && j < width then some j.toNat else none

/-- Where `a` was a latch, lanes outside the batch may have taken free values. -/
def State.tookLatch (s : State) (o : Opnd) : State :=
  match o with
  | .b _ => { s with free := s.free + 64 }
  | _ => s

/-- The moved source judged without the lane that it is read in: its columns, and the tag that they share. -/
def Ctx.judgeMoved (c : Ctx) (l : Nat) (a : VArgs) : Except Stop Unit := do
  let tags := (List.range a.ty.regs).flatMap fun k => (c.columnTags l a.s1 k).take 1
  let x ← match a.s1 with
    | .v _ | .n _ => .ok { elems := [], tags, kind := .stored }
    | o => c.readFrom l o a.ty.regs l
  (List.range a.ty.regs).forM (c.sameColumns a.s1)
  x.accept a.ty true fS1

/-- `shfl` (R316). The moved source is judged before the lane operand, as R218 orders the fields; where the lane operand
itself faults, no lane is known to read it in, and its tags alone are judged (log 28, DEDUCED). -/
def execShfl (a : VArgs) (s : State) : Result :=
  groupOnly s .plain
    (fun c l => do
      c.moveOk l a true
      match c.source l { o := a.s2, ty := .n32, field := fS2, loose := true } 0 with
      | .ok b =>
        let j := (shflLane a.func c.g.width l b.low.bits.toNat).getD l
        let x ← c.readFrom l a.s1 a.ty.regs j
        (List.range a.ty.regs).forM (c.sameColumns a.s1)
        x.accept a.ty true fS1
        return movedRes a.ty x b
      | .error e => do
        c.judgeMoved l a
        .error e)
    (fun c rs s => c.writeVec a.dst rs (s.tookLatch a.s1)) (shiftIdle a.ty.regs)

/-- `bcast` (R316). -/
def execBcast (a : VArgs) (s : State) : Result :=
  groupOnly s .plain
    (fun c l => do
      c.moveOk l a (match a.s2 with
        | .u _ | .zero | .width | .core | .groupix => (c.read l a.s2 1 fS2 0).toOption.any fun b =>
            b.low.bits.toNat < c.g.width
        | _ => false)
      let b ← c.source l { o := a.s2, ty := .n32, field := fS2, loose := true } 0
      let j := b.low.bits.toNat
      let x ← c.readFrom l a.s1 a.ty.regs j
      x.accept a.ty true fS1
      return movedRes a.ty x b)
    (fun c rs s => c.writeVec a.dst rs (s.tookLatch a.s1)) (shiftIdle a.ty.regs)

/-! ## Reductions (R317) -/

/-- The integer reduction of some elements. -/
def reduceInt (t : Ty) (sat : Bool) (op : Nat) (xs : List Nat) : Nat :=
  let w := elemBits t
  let v := xs.map (intOf t)
  match op with
  | 0 => intResult t sat v.sum
  | 1 => wrap w (v.foldl min (intMax t.signed w))
  | 2 => wrap w (v.foldl max (intMin t.signed w))
  | 3 => xs.foldl Nat.land (2 ^ w - 1)
  | 4 => xs.foldl Nat.lor 0
  | _ => xs.foldl Nat.xor 0

/-- The float reduction: an exact sum rounded once, whose exact zero is +0; the lesser or greater value. -/
def reduceFlt (t : Ty) (rnd : Rnd) (op : Nat) (xs : List Nat) : Nat :=
  let v := xs.map (floatOf t)
  match op with
  | 0 =>
    match v.foldl (ExactNum.add false) (.zero false) with
    | .zero _ => 0
    | r => roundFloat t rnd false r
  | 1 => roundFloat t .rne false (match v with
    | [] => .inf false
    | x :: r => r.foldl ExactNum.min x)
  | _ => roundFloat t .rne false (match v with
    | [] => .inf true
    | x :: r => r.foldl ExactNum.max x)

/-- The lanes that a lane's result is taken over. -/
def scanSet (scan excl : Bool) (l : Nat) (ls : List (Nat × Src)) : List (Nat × Src) :=
  if !scan then ls else ls.filter fun x => x.1 < l || (x.1 == l && !excl)

/-- `vred` and `vscan` over the batch's active lanes. A scale that R61 refuses in one lane is a tag
mismatch in every active lane. -/
def reduceStep (s : State) (a : VArgs) (scan : Bool) : Result :=
  let op := a.func.toNat % 8
  let excl := a.func.getLsbD 3
  let ty := a.ty
  groupOnly s .plain
    (fun c l => do
      let xs ← c.sources l a.dst ty.regs none
        [{ o := a.s1, ty, field := fS1, loose := false }]
      match c.is.eff.findSome? (fun k => match c.read k a.s1 ty.regs fS1 0 with
          | .ok x => x.tags.find? fun t => t.scale != 127 && t.scale != 255
          | .error _ => none) with
      | some t => raise { code := 0x03, addr := tagWord t, operand := fS1 }
      | none => pure ()
      match xs with
      | x :: _ => return x
      | [] => raise (badOperand fS1))
    (fun c rs s =>
      let nan := rs.any fun x => x.2.nanScale
      let flt : Bool := ty.isFlt
      let tag : Tag := { Tag.of ty with scale := if nan && !flt then 255 else 127 }
      let out := rs.map fun (l, _) =>
        let set := scanSet scan excl l rs
        let es := (List.range ty.count).map fun i =>
          let vs := set.map fun x => (elems ty x.2.value).getD i 0
          if !flt then reduceInt ty a.sat op vs
          else if nan then canonNan ty
          else reduceFlt ty a.rnd op vs
        (l, VRes.of ty (packElems ty es) (set.any fun x => x.2.poison) tag)
      c.writeVec a.dst out s) (shiftIdle ty.regs)

/-- `vred` (R317). -/
def execVred (a : VArgs) (s : State) : Result := reduceStep s a false

/-- `vscan` (R317). -/
def execVscan (a : VArgs) (s : State) : Result := reduceStep s a true

end Sys2Proof.Machine
end

