-- ==== Sys2Proof/Machine/Predicate.lean ====
section
/-! DEFINITION. Class 2: predicate instructions (R288 to R292). -/

namespace Sys2Proof.Machine

/-! ## Logic (R289) -/

/-- An instruction that writes a predicate in each active lane. -/
def predStep (s : State) (pd : BitVec 4) (f : Ctx → Nat → Bool) : Result :=
  groupOnly s .plain
    (fun c l => do
      c.predSurvivor l pd
      return f c l)
    (fun c rs s => s.setPreds c.gid pd rs)

/-- `pand` (R289). -/
def execPand (a : GArgs) (s : State) : Result := predStep s a.pd fun c l => c.g1 a l && c.g2 a l

/-- `por` (R289). -/
def execPor (a : GArgs) (s : State) : Result := predStep s a.pd fun c l => c.g1 a l || c.g2 a l

/-- `pxor` (R289). -/
def execPxor (a : GArgs) (s : State) : Result := predStep s a.pd fun c l => c.g1 a l != c.g2 a l

/-- `pnot` (R289). -/
def execPnot (a : GArgs) (s : State) : Result := predStep s a.pd fun c l => !c.pred l a.ps1

/-- `pmov` (R289). -/
def execPmov (a : GArgs) (s : State) : Result := predStep s a.pd fun c l => c.g1 a l

/-! ## Reductions (R290, R291) -/

/-- A register destination of class 2. -/
def Ctx.predRegOk (c : Ctx) (l : Nat) (o : Opnd) (n : Nat) : Except Stop Unit := do
  require (o.isReg && c.inBounds l o n) (badOperand fDst)
  c.survivor l o n

/-- The lanes of a ballot as a number. -/
def ballot (ls : List Nat) : Nat := (ls.map fun l => 2 ^ l).sum

/-- The active lanes of a batch in which g1 holds. -/
def Ctx.voters (c : Ctx) (a : GArgs) : List Nat := c.is.eff.filter (c.g1 a)

/-- `pvote` (R290): over every active lane of the batch, also one that the instruction faults in. -/
def execPvote (a : GArgs) (s : State) : Result :=
  groupOnly s .plain
    (fun c l => do
      if a.func.toNat < 2 then c.predSurvivor l a.pd
      else c.predRegOk l a.reg (if a.func = 2 then 2 else 1))
    (fun c rs s =>
      let holds := c.voters a
      match a.func.toNat with
      | 0 => s.setPreds c.gid a.pd (rs.map fun r => (r.1, !holds.isEmpty))
      | 1 => s.setPreds c.gid a.pd (rs.map fun r => (r.1, holds.length == c.is.eff.length))
      | 2 =>
        c.writeOnly a.reg
          (rs.map fun r => (r.1, VRes.of .b64 (BitVec.ofNat 64 (ballot holds)) false (Tag.of .b64))) s
      | _ => c.writeOnly a.reg (rs.map fun r => (r.1, VRes.one holds.length false (Tag.of .n32))) s)

/-- `pfirst` (R291). -/
def execPfirst (a : GArgs) (s : State) : Result :=
  groupOnly s .plain
    (fun c l => do
      c.predSurvivor l a.pd)
    (fun c rs s =>
      let holds := c.voters a
      let pick := if a.func = 0 then holds.head? else holds.getLast?
      s.setPreds c.gid a.pd (rs.map fun r => (r.1, pick == some r.1)))

/-! ## pmask (R292) -/

/-- The predicate word after a masked write. -/
def maskPreds (old : BitVec 16) (x : Word) : BitVec 16 :=
  let m : BitVec 16 := (x >>> 16).setWidth 16
  (old &&& ~~~m) ||| (x.setWidth 16 &&& m)

/-- `pmask.get`. -/
def pmaskGet (a : GArgs) (s : State) : Result :=
  groupOnly s .plain
    (fun c l => do
      c.predRegOk l a.reg 1
      return (c.fibre? l).elim 0 fun f => f.pred.toNat)
    (fun c rs s => c.writeOnly a.reg (rs.map fun r => (r.1, VRes.one r.2 false (Tag.of .n32))) s)

/-- The register element of `pmask.set` in a lane. -/
def Ctx.maskWord (c : Ctx) (a : GArgs) (l : Nat) : Except Stop Word := do
  require (a.reg.isReg && c.inBounds l a.reg 1) (badOperand fDst)
  let x ← c.index l a.reg fDst
  require (!x.poison) { code := 0x0E, detail := 4, operand := fDst, observed := x.poisoned }
  return x.low.bits

/-- The survivors that the write masks of the lanes cover. -/
def Ctx.maskCover (c : Ctx) (a : GArgs) : BitVec 16 :=
  c.is.eff.foldl (fun m l =>
    match c.maskWord a l with
    | .ok x => m ||| ((x >>> 16).setWidth 16 &&&
        ((c.fibre? l).bind fun f => f.surv).elim 0#16 fun h => h.pmask)
    | .error _ => m) 0

/-- `pmask.set`: a survivor covered in one lane stops the instruction in every lane (R29). -/
def pmaskSet (a : GArgs) (s : State) : Result :=
  groupOnly s .plain
    (fun c l => do
      let x ← c.maskWord a l
      let m := c.maskCover a
      require (m == 0)
        { code := 0x04, operand := fDst
          addr := BitVec.ofNat 64 (((List.range 16).find? fun i => m.getLsbD i).getD 0) }
      return x)
    (fun c rs s => s.modGroup c.gid fun g =>
      rs.foldl (fun g (l, x) => g.modFibre l fun f => { f with pred := maskPreds f.pred x }) g)

/-- `pmask` (R292) (log 31, DEDUCED). -/
def execPmask (a : GArgs) (s : State) : Result := if a.func = 0 then pmaskGet a s else pmaskSet a s

end Sys2Proof.Machine
end

