-- ==== Sys2Proof/Machine/Uniform.lean ====
section
/-! DEFINITION. Class 1: uniform scalar instructions (R281 to R287), in group code and in Stoker code. -/

namespace Sys2Proof.Machine

/-! ## The course of a class 1 instruction (R281) -/

/-- A uniform source of group code: k, ZERO, WIDTH, CORE, GROUPIX, and IMM in the VI form. -/
def uniSource : Opnd → Bool
  | .u _ | .zero | .width | .core | .groupix | .imm => true
  | _ => false

/-- The uniform sources in one lane, in the order of R218: operands, then the survivor check. IMM is
expanded by the type. -/
def Ctx.uniSources (c : Ctx) (l : Nat) (ty : Ty) (dst : Opnd) (imm : Option (BitVec 16))
    (srcs : List (Opnd × Nat)) : Except Stop (List Src) := do
  require (match dst with | .u _ => c.inBounds l dst ty.regs | _ => false) (badOperand fDst)
  srcs.forM fun (o, f) =>
    require (uniSource o && c.inBounds l o ty.regs && (o != .imm || imm.isSome)) (badOperand f)
  c.survivor l dst ty.regs
  srcs.mapM fun (o, f) => c.read l o ty.regs f (imm.elim 0 (expandImm ty))

/-- The sources of a class 1 instruction in Stoker code. -/
def SCtx.uniSources (c : SCtx) (ty : Ty) (dst : Opnd) (imm : Option (BitVec 16))
    (srcs : List (Opnd × Nat)) : Except Stop (List Src) := do
  SCtx.dstOk dst
  srcs.mapM fun (o, f) => c.read o ty f (imm.map (expandImm ty))

/-- The result of a uniform computation: value and poison. -/
abbrev UniRes := Dword × Bool

/-- Write a uniform result for the group. -/
def Ctx.writeUni (c : Ctx) (ty : Ty) (dst : Opnd) (rs : List (Nat × UniRes)) (s : State) : State :=
  c.writeOnly dst (rs.map fun (l, x, p) => (l, VRes.of ty x p (Tag.of ty))) s

/-- Write a uniform result of a stream (log 27, DEDUCED). -/
def SCtx.writeUni (c : SCtx) (ty : Ty) (dst : Opnd) (r : UniRes) (s : State) : State :=
  match dst with
  | .u i => s.setSreg c.core i
      { bits := stokerWide ty r.1, plo := r.2, phi := r.2 && (ty.regs = 2 || ty = .s32) }
  | _ => s

/-- A class 1 instruction: one value for the whole batch, from the sources' values; its poison is the OR
of theirs. -/
def uniStep (s : State) (ty : Ty) (dst : Opnd) (imm : Option (BitVec 16)) (srcs : List (Opnd × Nat))
    (f : List Nat → Nat) : Result :=
  let run := fun (xs : List Src) =>
    (BitVec.ofNat 64 (f (xs.map fun x => x.value.toNat)), xs.any Src.poison)
  if s.stokerIssues then
    streamStep s (fun c => return run (← c.uniSources ty dst imm srcs))
      (fun c r s => c.writeUni ty dst r s)
  else
    groupStep s .plain (fun c l => return run (← c.uniSources l ty dst imm srcs))
      (fun c rs s => c.writeUni ty dst rs s)

def uni1 (s : State) (a : VArgs) (f : Nat → Nat) : Result :=
  uniStep s a.ty a.dst none [(a.s1, fS1)] fun xs => f (xs.getD 0 0)

def uni2 (s : State) (a : VArgs) (f : Nat → Nat → Nat) : Result :=
  uniStep s a.ty a.dst none [(a.s1, fS1), (a.s2, fS2)] fun xs => f (xs.getD 0 0) (xs.getD 1 0)

def uni2Imm (s : State) (a : VIArgs) (f : Nat → Nat → Nat) : Result :=
  uniStep s a.ty a.dst (some a.imm) [(a.s1, fS1), (.imm, fImm)] fun xs => f (xs.getD 0 0) (xs.getD 1 0)

/-! ## Computations (R282) -/

def uAdd (t : Ty) (sat : Bool) (x y : Nat) : Nat := intResult t sat (intOf t x + intOf t y)
def uSub (t : Ty) (sat : Bool) (x y : Nat) : Nat := intResult t sat (intOf t x - intOf t y)
def uMul (t : Ty) (sat : Bool) (x y : Nat) : Nat := intResult t sat (intOf t x * intOf t y)

/-- High half of the product. -/
def uMulh (t : Ty) (x y : Nat) : Nat := wrap (elemBits t) (intOf t x * intOf t y / 2 ^ elemBits t)

/-- Shift left; counts at or above the width give 0. -/
def uShl (t : Ty) (x y : Nat) : Nat :=
  if elemBits t ≤ y then 0 else x * 2 ^ y % 2 ^ elemBits t

/-- Shift right with zeros. -/
def uShr (t : Ty) (x y : Nat) : Nat := if elemBits t ≤ y then 0 else x / 2 ^ y

/-- Shift right with copies of the sign bit. -/
def uSar (t : Ty) (x y : Nat) : Nat :=
  wrap (elemBits t) (toInt true (elemBits t) x / 2 ^ min y (elemBits t))

def uMin (t : Ty) (x y : Nat) : Nat := if intOf t x ≤ intOf t y then x else y
def uMax (t : Ty) (x y : Nat) : Nat := if intOf t x ≤ intOf t y then y else x

/-! ## Instructions -/

/-- `kmov` (R282). -/
def execKmov (a : VArgs) (s : State) : Result := uni1 s a id

/-- `kpopc` (R282). -/
def execKpopc (a : VArgs) (s : State) : Result := uni1 s a (popCount (elemBits a.ty))

/-- `kclz` (R282). -/
def execKclz (a : VArgs) (s : State) : Result := uni1 s a (leadingZeros (elemBits a.ty))

/-- `kadd` (R282). -/
def execKadd (a : VArgs) (s : State) : Result := uni2 s a (uAdd a.ty a.sat)

/-- `kadd` with an immediate (R282). -/
def execKaddImm (a : VIArgs) (s : State) : Result := uni2Imm s a (uAdd a.ty a.sat)

/-- `ksub` (R282). -/
def execKsub (a : VArgs) (s : State) : Result := uni2 s a (uSub a.ty a.sat)

/-- `ksub` with an immediate (R282). -/
def execKsubImm (a : VIArgs) (s : State) : Result := uni2Imm s a (uSub a.ty a.sat)

/-- `kmul` (R282). -/
def execKmul (a : VArgs) (s : State) : Result := uni2 s a (uMul a.ty a.sat)

/-- `kmul` with an immediate (R282). -/
def execKmulImm (a : VIArgs) (s : State) : Result := uni2Imm s a (uMul a.ty a.sat)

/-- `kmulh` (R282). -/
def execKmulh (a : VArgs) (s : State) : Result := uni2 s a (uMulh a.ty)

/-- `kmulh` with an immediate (R282). -/
def execKmulhImm (a : VIArgs) (s : State) : Result := uni2Imm s a (uMulh a.ty)

/-- `kand` (R282). -/
def execKand (a : VArgs) (s : State) : Result := uni2 s a (Nat.land)

/-- `kand` with an immediate (R282). -/
def execKandImm (a : VIArgs) (s : State) : Result := uni2Imm s a (Nat.land)

/-- `kor` (R282). -/
def execKor (a : VArgs) (s : State) : Result := uni2 s a (Nat.lor)

/-- `kor` with an immediate (R282). -/
def execKorImm (a : VIArgs) (s : State) : Result := uni2Imm s a (Nat.lor)

/-- `kxor` (R282). -/
def execKxor (a : VArgs) (s : State) : Result := uni2 s a (Nat.xor)

/-- `kxor` with an immediate (R282). -/
def execKxorImm (a : VIArgs) (s : State) : Result := uni2Imm s a (Nat.xor)

/-- `kshl` (R282). -/
def execKshl (a : VArgs) (s : State) : Result := uni2 s a (uShl a.ty)

/-- `kshl` with an immediate (R282). -/
def execKshlImm (a : VIArgs) (s : State) : Result := uni2Imm s a (uShl a.ty)

/-- `kshr` (R282). -/
def execKshr (a : VArgs) (s : State) : Result := uni2 s a (uShr a.ty)

/-- `kshr` with an immediate (R282). -/
def execKshrImm (a : VIArgs) (s : State) : Result := uni2Imm s a (uShr a.ty)

/-- `ksar` (R282). -/
def execKsar (a : VArgs) (s : State) : Result := uni2 s a (uSar a.ty)

/-- `ksar` with an immediate (R282). -/
def execKsarImm (a : VIArgs) (s : State) : Result := uni2Imm s a (uSar a.ty)

/-- `kmin` (R282). -/
def execKmin (a : VArgs) (s : State) : Result := uni2 s a (uMin a.ty)

/-- `kmin` with an immediate (R282). -/
def execKminImm (a : VIArgs) (s : State) : Result := uni2Imm s a (uMin a.ty)

/-- `kmax` (R282). -/
def execKmax (a : VArgs) (s : State) : Result := uni2 s a (uMax a.ty)

/-- `kmax` with an immediate (R282). -/
def execKmaxImm (a : VIArgs) (s : State) : Result := uni2Imm s a (uMax a.ty)

/-- `kbfe` (R282). -/
def execKbfe (a : VArgs) (s : State) : Result := uni2 s a (bitField a.ty)

/-- `kbfe` with an immediate (R282). -/
def execKbfeImm (a : VIArgs) (s : State) : Result := uni2Imm s a (bitField a.ty)

/-! ## kcmp (R283) -/

/-- The predicate that a compare names (R238). -/
def predDst (p : PDst) : Except Stop (BitVec 4) :=
  match p with
  | .p i => .ok i
  | .bad _ => raise (badOperand fDst)

/-- The poison that a compare consumes (R78, R117 row 4). -/
def comparePoison (xs : List Src) (field : Nat) : Except Stop Unit :=
  match xs.find? Src.poison with
  | some x => raise { code := 0x0E, detail := 4, operand := field, observed := x.poisoned }
  | none => .ok ()

/-- `kcmp`: one bit for every active fibre, or for the stream. -/
def kcmpStep (s : State) (ty : Ty) (cc : CmpCode) (pd : PDst) (imm : Option (BitVec 16))
    (srcs : List (Opnd × Nat)) : Result :=
  let test := fun (xs : List Src) =>
    let v := xs.map fun x => intOf ty x.value.toNat
    compareInt cc (v.getD 0 0) (v.getD 1 0)
  if s.stokerIssues then
    streamStep s
      (fun c => do
        let i ← predDst pd
        let xs ← srcs.mapM fun (o, f) => c.read o ty f (imm.map (expandImm ty))
        comparePoison xs fS1
        return (i, test xs))
      (fun c r s => s.setStreamPred c.core r.1 r.2)
  else
    groupStep s .plain
      (fun c l => do
        let i ← predDst pd
        srcs.forM fun (o, f) =>
          require (uniSource o && c.inBounds l o ty.regs && (o != .imm || imm.isSome)) (badOperand f)
        c.predSurvivor l i
        let xs ← srcs.mapM fun (o, f) => c.read l o ty.regs f (imm.elim 0 (expandImm ty))
        comparePoison xs fS1
        return (i, test xs))
      (fun c rs s => match rs with
        | (_, i, _) :: _ => s.setPreds c.gid i (rs.map fun (l, _, b) => (l, b))
        | [] => s)

/-- `kcmp` (R283). -/
def execKcmp (a : CmpArgs) (s : State) : Result :=
  kcmpStep s a.ty a.cc a.pd none [(a.s1, fS1), (a.s2, fS2)]

/-- `kcmp` with an immediate (R283). -/
def execKcmpImm (a : CmpIArgs) (s : State) : Result :=
  kcmpStep s a.ty a.cc a.pd (some a.imm) [(a.s1, fS1), (.imm, fImm)]

/-! ## ksel (R284) -/

/-- `ksel`: s1 where the predicate holds, else s2, with the poison of the selected source only. The
predicate is the lowest active fibre's, or the stream's. -/
def kselStep (s : State) (ty : Ty) (dst s1 s2 : Opnd) (p : BitVec 4) (imm : Option (BitVec 16)) : Result :=
  let srcs := [(s1, fS1), (s2, fS2)]
  let pick := fun (b : Bool) (xs : List Src) =>
    let x := if b then xs.getD 0 default_ else xs.getD 1 default_
    ((x.value, x.poison) : UniRes)
  if s.stokerIssues then
    streamStep s (fun c => return pick (predBit c.st.pred p) (← c.uniSources ty dst imm srcs))
      (fun c r s => c.writeUni ty dst r s)
  else
    groupStep s .plain
      (fun c l => return pick (c.pred (c.is.eff.headD l) p) (← c.uniSources l ty dst imm srcs))
      (fun c rs s => c.writeUni ty dst rs s)
where
  /-- A source of zeros. -/
  default_ : Src := { elems := [Elem.zero], tags := [], kind := .zero }

/-- `ksel` (R284). -/
def execKsel (a : VArgs) (s : State) : Result := kselStep s a.ty a.dst a.s1 a.s2 a.func none

/-- `ksel` with an immediate (R284). -/
def execKselImm (a : VFArgs) (s : State) : Result := kselStep s a.ty a.dst a.s1 .imm a.fn (some a.imm)

/-! ## kli (R285) -/

/-- `kli` (R285): the expanded immediate, poison clear. -/
def execKli (a : DImmArgs) (s : State) : Result :=
  let v := expandImm a.ty a.imm
  if s.stokerIssues then
    streamStep s
      (fun _ => do
        SCtx.dstOk a.dst
        require (immOk a.ty a.imm) (badOperand fImm))
      (fun c _ s => c.writeUni a.ty a.dst (v, false) s)
  else
    groupStep s .plain
      (fun c l => do
        require (match a.dst with | .u _ => c.inBounds l a.dst a.ty.regs | _ => false) (badOperand fDst)
        require (immOk a.ty a.imm) (badOperand fImm)
        c.survivor l a.dst a.ty.regs)
      (fun c rs s => c.writeUni a.ty a.dst (rs.map fun (l, _) => (l, v, false)) s)

/-! ## kld and kst (R286) -/

/-- An index of `kld` and `kst`. -/
def uniIndex : Opnd → Bool
  | .u _ | .zero | .width | .core | .groupix => true
  | _ => false

/-- Bytes of an access of a type. -/
def accessSize (t : Ty) : Nat := 4 * t.regs

/-- `kld` (R286): one load for the batch; its result lands later in group code. In Stoker code a Folio read that meets
its bank group's refresh window stalls until the window closes (R112). -/
def execKld (a : MArgs) (s : State) : Result :=
  let n := accessSize a.ty
  if s.stokerIssues then
    streamStep s
      (fun c => do
        SCtx.dstOk a.data
        let x ← c.read a.index .n32 fIndex
        let k := c.g.cap a.cap
        let acc : Access :=
          { cap := k, idx := x.low, addr := memAddr k x.index a.shift a.imm, size := n, align := n,
            perm := k.ld, need := { rd := true } }
        let p ← c.s.access c.accessor acc
        requireBank (c.s.readLost p) acc
        requireBank (c.s.secondLost [p] p) acc
        return p)
      (fun c p s =>
        if c.s.gatesClosed (c.s.gates [p]) then
          let ((v, q), s) := s.load c.core p n a.cache c.is.pc
          c.writeUni a.ty a.data (BitVec.ofNat 64 v, q) s
        else c.stay (.window (c.s.gates [p])))
  else
    groupStep s .plain
      (fun c l => do
        require (match a.data with | .u _ => c.inBounds l a.data a.ty.regs | _ => false)
          (badOperand fDst)
        require (uniIndex a.index && c.inBounds l a.index 1) (badOperand fIndex)
        c.survivor l a.data a.ty.regs
        let x ← c.read l a.index 1 fIndex 0
        let acc := c.laneAccess a.cap x a.shift a.imm n Cap.ld { rd := true }
        let p ← c.s.access c.accessor acc
        requireBank (c.s.readLost p) acc
        requireBank (c.s.secondLost [p] p) acc
        return p)
      (fun c rs s => match rs with
        | (l, p) :: _ =>
          let (id, s) := s.fresh
          let ((v, q), s) := s.load c.g.core p n a.cache c.is.pc id
          let r := c.reg l a.data
          let regs := (List.range a.ty.regs).map r.succ
          s.modGroup c.gid fun g =>
            let g := g.landRegs regs
            { g with flights := g.flights ++
                [{ id, lanes := c.is.lanes
                   writes := regs.zipIdx.map fun (r, j) =>
                     { reg := r, lane := l,
                       elem := { bits := BitVec.ofNat 32 (v / 2 ^ (32 * j)), poison := q }
                       port := p.port, word := (s.wordAt p).map fun x => (x.1, x.2.1, x.2.2 + j) }
                   regs := regs, tag := Tag.of a.ty, quad := [], quads := [], unit := false
                   gates := s.gates [p] }] }
        | [] => s)

/-- `kst` (R286): one store for the batch. -/
def execKst (a : MArgs) (s : State) : Result :=
  let n := accessSize a.ty
  if s.stokerIssues then
    streamStep s
      (fun c => do
        let d ← c.read a.data a.ty fDst
        require (a.data != .zero) (badOperand fDst)
        let x ← c.read a.index .n32 fIndex
        let k := c.g.cap a.cap
        let acc : Access :=
          { cap := k, idx := x.low, addr := memAddr k x.index a.shift a.imm, size := n, align := n,
            perm := k.st, need := { w := true } }
        let p ← c.s.access c.accessor acc
        require (!(d.poison && p.isOutside))
          { acc.fault 0x0E fDst with detail := 7, observed := d.poisoned }
        requireBank (c.s.writeLost p) acc
        return (p, d))
      (fun c (p, d) s => s.store c.core p n d.value.toNat d.poison a.cache c.is.pc)
  else
    groupStep s .plain
      (fun c l => do
        require (match a.data with | .u _ => c.inBounds l a.data a.ty.regs | _ => false)
          (badOperand fDst)
        require (uniIndex a.index && c.inBounds l a.index 1) (badOperand fIndex)
        let d ← c.read l a.data a.ty.regs fDst 0
        let x ← c.read l a.index 1 fIndex 0
        let acc := c.laneAccess a.cap x a.shift a.imm n Cap.st { w := true }
        let p ← c.s.access c.accessor acc
        require (!(d.poison && p.isOutside))
          { acc.fault 0x0E fDst with detail := 7, observed := d.poisoned }
        requireBank (c.s.writeLost p) acc
        return (p, d))
      (fun c rs s => match rs with
        | (_, p, d) :: _ =>
          (s.modGroup c.gid Group.fixReads).store c.g.core p n d.value.toNat d.poison a.cache c.is.pc
        | [] => s)

end Sys2Proof.Machine
end

