-- ==== Sys2Proof/Machine/Dispatch.lean ====
section
/-! DEFINITION. What each instruction and event of the opcode table does: one direct call of its meaning. -/

namespace Sys2Proof.Machine

/-- The effect of an instruction or event. -/
def exec (i : Instr) (s : State) : Host.Outcome State Fault Refusal :=
  match i with
  | .pb a => Sys2Proof.Machine.execPb a s
  | .bra a => Sys2Proof.Machine.execBra a s
  | .brx target => Sys2Proof.Machine.execBrx target s
  | .call a => Sys2Proof.Machine.execCall a s
  | .ret link => Sys2Proof.Machine.execRet link s
  | .strand a => Sys2Proof.Machine.execStrand a s
  | .activeSetEntry g => Sys2Proof.Machine.execActiveSetEntry g s
  | .rcvTimeout g lanes => Sys2Proof.Machine.execRcvTimeout g lanes s
  | .yieldExpiry g lanes => Sys2Proof.Machine.execYieldExpiry g lanes s
  | .pause n => Sys2Proof.Machine.execPause n s
  | .pauseExpiry g lanes => Sys2Proof.Machine.execPauseExpiry g lanes s
  | .fspawn a => Sys2Proof.Machine.execFspawn a s
  | .trap n => Sys2Proof.Machine.execTrap n s
  | .kmov a => Sys2Proof.Machine.execKmov a s
  | .kadd a => Sys2Proof.Machine.execKadd a s
  | .kaddImm a => Sys2Proof.Machine.execKaddImm a s
  | .ksub a => Sys2Proof.Machine.execKsub a s
  | .ksubImm a => Sys2Proof.Machine.execKsubImm a s
  | .kmul a => Sys2Proof.Machine.execKmul a s
  | .kmulImm a => Sys2Proof.Machine.execKmulImm a s
  | .kmulh a => Sys2Proof.Machine.execKmulh a s
  | .kmulhImm a => Sys2Proof.Machine.execKmulhImm a s
  | .kand a => Sys2Proof.Machine.execKand a s
  | .kandImm a => Sys2Proof.Machine.execKandImm a s
  | .kor a => Sys2Proof.Machine.execKor a s
  | .korImm a => Sys2Proof.Machine.execKorImm a s
  | .kxor a => Sys2Proof.Machine.execKxor a s
  | .kxorImm a => Sys2Proof.Machine.execKxorImm a s
  | .kshl a => Sys2Proof.Machine.execKshl a s
  | .kshlImm a => Sys2Proof.Machine.execKshlImm a s
  | .kshr a => Sys2Proof.Machine.execKshr a s
  | .kshrImm a => Sys2Proof.Machine.execKshrImm a s
  | .ksar a => Sys2Proof.Machine.execKsar a s
  | .ksarImm a => Sys2Proof.Machine.execKsarImm a s
  | .kmin a => Sys2Proof.Machine.execKmin a s
  | .kminImm a => Sys2Proof.Machine.execKminImm a s
  | .kmax a => Sys2Proof.Machine.execKmax a s
  | .kmaxImm a => Sys2Proof.Machine.execKmaxImm a s
  | .kcmp a => Sys2Proof.Machine.execKcmp a s
  | .kcmpImm a => Sys2Proof.Machine.execKcmpImm a s
  | .ksel a => Sys2Proof.Machine.execKsel a s
  | .kselImm a => Sys2Proof.Machine.execKselImm a s
  | .kbfe a => Sys2Proof.Machine.execKbfe a s
  | .kbfeImm a => Sys2Proof.Machine.execKbfeImm a s
  | .kpopc a => Sys2Proof.Machine.execKpopc a s
  | .kclz a => Sys2Proof.Machine.execKclz a s
  | .kld a => Sys2Proof.Machine.execKld a s
  | .kst a => Sys2Proof.Machine.execKst a s
  | .kli a => Sys2Proof.Machine.execKli a s
  | .pand a => Sys2Proof.Machine.execPand a s
  | .por a => Sys2Proof.Machine.execPor a s
  | .pxor a => Sys2Proof.Machine.execPxor a s
  | .pnot a => Sys2Proof.Machine.execPnot a s
  | .pmov a => Sys2Proof.Machine.execPmov a s
  | .pvote a => Sys2Proof.Machine.execPvote a s
  | .pfirst a => Sys2Proof.Machine.execPfirst a s
  | .pmask a => Sys2Proof.Machine.execPmask a s
  | .mov a => Sys2Proof.Machine.execMov a s
  | .movImm a => Sys2Proof.Machine.execMovImm a s
  | .add a => Sys2Proof.Machine.execAdd a s
  | .addImm a => Sys2Proof.Machine.execAddImm a s
  | .sub a => Sys2Proof.Machine.execSub a s
  | .subImm a => Sys2Proof.Machine.execSubImm a s
  | .mul a => Sys2Proof.Machine.execMul a s
  | .mulImm a => Sys2Proof.Machine.execMulImm a s
  | .mulh a => Sys2Proof.Machine.execMulh a s
  | .mulhImm a => Sys2Proof.Machine.execMulhImm a s
  | .mad a => Sys2Proof.Machine.execMad a s
  | .madImm a => Sys2Proof.Machine.execMadImm a s
  | .min a => Sys2Proof.Machine.execMin a s
  | .minImm a => Sys2Proof.Machine.execMinImm a s
  | .max a => Sys2Proof.Machine.execMax a s
  | .maxImm a => Sys2Proof.Machine.execMaxImm a s
  | .abs a => Sys2Proof.Machine.execAbs a s
  | .neg a => Sys2Proof.Machine.execNeg a s
  | .and a => Sys2Proof.Machine.execAnd a s
  | .andImm a => Sys2Proof.Machine.execAndImm a s
  | .or a => Sys2Proof.Machine.execOr a s
  | .orImm a => Sys2Proof.Machine.execOrImm a s
  | .xor a => Sys2Proof.Machine.execXor a s
  | .xorImm a => Sys2Proof.Machine.execXorImm a s
  | .not a => Sys2Proof.Machine.execNot a s
  | .shl a => Sys2Proof.Machine.execShl a s
  | .shlImm a => Sys2Proof.Machine.execShlImm a s
  | .shr a => Sys2Proof.Machine.execShr a s
  | .shrImm a => Sys2Proof.Machine.execShrImm a s
  | .sar a => Sys2Proof.Machine.execSar a s
  | .sarImm a => Sys2Proof.Machine.execSarImm a s
  | .bfe a => Sys2Proof.Machine.execBfe a s
  | .bfeImm a => Sys2Proof.Machine.execBfeImm a s
  | .bfi a => Sys2Proof.Machine.execBfi a s
  | .bfiImm a => Sys2Proof.Machine.execBfiImm a s
  | .popc a => Sys2Proof.Machine.execPopc a s
  | .clz a => Sys2Proof.Machine.execClz a s
  | .brev a => Sys2Proof.Machine.execBrev a s
  | .cmp a => Sys2Proof.Machine.execCmp a s
  | .cmpImm a => Sys2Proof.Machine.execCmpImm a s
  | .sel a => Sys2Proof.Machine.execSel a s
  | .selImm a => Sys2Proof.Machine.execSelImm a s
  | .addc a => Sys2Proof.Machine.execAddc a s
  | .addcImm a => Sys2Proof.Machine.execAddcImm a s
  | .dot4 a => Sys2Proof.Machine.execDot4 a s
  | .dot4Imm a => Sys2Proof.Machine.execDot4Imm a s
  | .cmul a => Sys2Proof.Machine.execCmul a s
  | .cmac a => Sys2Proof.Machine.execCmac a s
  | .fadd a => Sys2Proof.Machine.execFadd a s
  | .faddImm a => Sys2Proof.Machine.execFaddImm a s
  | .fsub a => Sys2Proof.Machine.execFsub a s
  | .fsubImm a => Sys2Proof.Machine.execFsubImm a s
  | .fmul a => Sys2Proof.Machine.execFmul a s
  | .fmulImm a => Sys2Proof.Machine.execFmulImm a s
  | .fma a => Sys2Proof.Machine.execFma a s
  | .fmaImm a => Sys2Proof.Machine.execFmaImm a s
  | .fmin a => Sys2Proof.Machine.execFmin a s
  | .fminImm a => Sys2Proof.Machine.execFminImm a s
  | .fmax a => Sys2Proof.Machine.execFmax a s
  | .fmaxImm a => Sys2Proof.Machine.execFmaxImm a s
  | .fcmp a => Sys2Proof.Machine.execFcmp a s
  | .fcmpImm a => Sys2Proof.Machine.execFcmpImm a s
  | .frcp a => Sys2Proof.Machine.execFrcp a s
  | .frsq a => Sys2Proof.Machine.execFrsq a s
  | .fsqrt a => Sys2Proof.Machine.execFsqrt a s
  | .fexp2 a => Sys2Proof.Machine.execFexp2 a s
  | .flog2 a => Sys2Proof.Machine.execFlog2 a s
  | .fsin a => Sys2Proof.Machine.execFsin a s
  | .fcos a => Sys2Proof.Machine.execFcos a s
  | .frnd a => Sys2Proof.Machine.execFrnd a s
  | .fclass a => Sys2Proof.Machine.execFclass a s
  | .fscale a => Sys2Proof.Machine.execFscale a s
  | .fscaleImm a => Sys2Proof.Machine.execFscaleImm a s
  | .fdot2 a => Sys2Proof.Machine.execFdot2 a s
  | .fdot2Imm a => Sys2Proof.Machine.execFdot2Imm a s
  | .fcmul a => Sys2Proof.Machine.execFcmul a s
  | .cvt a => Sys2Proof.Machine.execCvt a s
  | .cvtpk a => Sys2Proof.Machine.execCvtpk a s
  | .unpk a => Sys2Proof.Machine.execUnpk a s
  | .tagset a => Sys2Proof.Machine.execTagset a s
  | .tagget a => Sys2Proof.Machine.execTagget a s
  | .shfl a => Sys2Proof.Machine.execShfl a s
  | .bcast a => Sys2Proof.Machine.execBcast a s
  | .vred a => Sys2Proof.Machine.execVred a s
  | .vscan a => Sys2Proof.Machine.execVscan a s
  | .ld a => Sys2Proof.Machine.execLd a s
  | .st a => Sys2Proof.Machine.execSt a s
  | .ldc a => Sys2Proof.Machine.execLdc a s
  | .stc a => Sys2Proof.Machine.execStc a s
  | .pf a => Sys2Proof.Machine.execPf a s
  | .cwb a => Sys2Proof.Machine.execCwb a s
  | .cinv a => Sys2Proof.Machine.execCinv a s
  | .accrd a => Sys2Proof.Machine.execAccrd a s
  | .accwr a => Sys2Proof.Machine.execAccwr a s
  | .cbnd a => Sys2Proof.Machine.execCbnd a s
  | .cadr a => Sys2Proof.Machine.execCadr a s
  | .cinc a => Sys2Proof.Machine.execCinc a s
  | .cprm a => Sys2Proof.Machine.execCprm a s
  | .cget a => Sys2Proof.Machine.execCget a s
  | .cmov f => Sys2Proof.Machine.execCmov f s
  | .ctst a => Sys2Proof.Machine.execCtst a s
  | .atom a => Sys2Proof.Machine.execAtom a s
  | .red a => Sys2Proof.Machine.execRed a s
  | .cas a => Sys2Proof.Machine.execCas a s
  | .fence scope => Sys2Proof.Machine.execFence scope s
  | .bar a => Sys2Proof.Machine.execBar a s
  | .barv a => Sys2Proof.Machine.execBarv a s
  | .barw id => Sys2Proof.Machine.execBarw id s
  | .qenq a => Sys2Proof.Machine.execQenq a s
  | .qdeq a => Sys2Proof.Machine.execQdeq a s
  | .qrsv a => Sys2Proof.Machine.execQrsv a s
  | .qcmt a => Sys2Proof.Machine.execQcmt a s
  | .qtake a => Sys2Proof.Machine.execQtake a s
  | .qdone a => Sys2Proof.Machine.execQdone a s
  | .qinit a => Sys2Proof.Machine.execQinit a s
  | .qstat a => Sys2Proof.Machine.execQstat a s
  | .qclose a => Sys2Proof.Machine.execQclose a s
  | .queueRetry p lanes => Sys2Proof.Machine.execQueueRetry p lanes s
  | .cp a => Sys2Proof.Machine.execCp a s
  | .cpt a => Sys2Proof.Machine.execCpt a s
  | .wait a => Sys2Proof.Machine.execWait a s
  | .stoke off => Sys2Proof.Machine.execStoke off s
  | .loop a => Sys2Proof.Machine.execLoop a s
  | .shpld a => Sys2Proof.Machine.execShpld a s
  | .mma a => Sys2Proof.Machine.execMma a s
  | .mconv a => Sys2Proof.Machine.execMconv a s
  | .tstamp ty dst => Sys2Proof.Machine.execTstamp ty dst s
  | .ctrrd a => Sys2Proof.Machine.execCtrrd a s
  | .srd a => Sys2Proof.Machine.execSrd a s
  | .swr a => Sys2Proof.Machine.execSwr a s
  | .tlbinv a => Sys2Proof.Machine.execTlbinv a s
  | .sleep n => Sys2Proof.Machine.execSleep n s
  | .sleepExpiry g lanes => Sys2Proof.Machine.execSleepExpiry g lanes s
  | .errinj a => Sys2Proof.Machine.execErrinj a s
  | .eviction g => Sys2Proof.Machine.execEviction g s
  | .loadComplete g id => Sys2Proof.Machine.execLoadComplete g id s
  | .fifoDrain core => Sys2Proof.Machine.execFifoDrain core s
  | .l1Eviction core block => Sys2Proof.Machine.execL1Eviction core block s
  | .copyComplete p id => Sys2Proof.Machine.execCopyComplete p id s
  | .matrixCommandComplete core => Sys2Proof.Machine.execMatrixCommandComplete core s
  | .parityUpdate core pgroup => Sys2Proof.Machine.execParityUpdate core pgroup s
  | .bankRetire core bank => Sys2Proof.Machine.execBankRetire core bank s
  | .folioRefreshWindow die bank => Sys2Proof.Machine.execFolioRefreshWindow die bank s
  | .groupEnd g => Sys2Proof.Machine.execGroupEnd g s
  | .gridComplete grid => Sys2Proof.Machine.execGridComplete grid s
  | .teamKill team => Sys2Proof.Machine.execTeamKill team s
  | .invreq part value => Sys2Proof.Machine.execInvreq part value s
  | .invalidationComplete part => Sys2Proof.Machine.execInvalidationComplete part s
  | .pgresume part value => Sys2Proof.Machine.execPgresume part value s
  | .feedtail part value => Sys2Proof.Machine.execFeedtail part value s
  | .launch part => Sys2Proof.Machine.execLaunch part s
  | .feed part => Sys2Proof.Machine.execFeed part s
  | .folio part => Sys2Proof.Machine.execFolio part s
  | .folioWriteComplete part id => Sys2Proof.Machine.execFolioWriteComplete part id s
  | .marker part => Sys2Proof.Machine.execMarker part s
  | .markerComplete part id => Sys2Proof.Machine.execMarkerComplete part id s
  | .launchTake part => Sys2Proof.Machine.execLaunchTake part s
  | .teamPlacement grid cores => Sys2Proof.Machine.execTeamPlacement grid cores s
  | .sliceExpiry grid => Sys2Proof.Machine.execSliceExpiry grid s
  | .preemptRequest grid => Sys2Proof.Machine.execPreemptRequest grid s
  | .preemptCut grid => Sys2Proof.Machine.execPreemptCut grid s
  | .saveImage grid => Sys2Proof.Machine.execSaveImage grid s
  | .watchdogEscalation grid => Sys2Proof.Machine.execWatchdogEscalation grid s
  | .contextRestore grid cores => Sys2Proof.Machine.execContextRestore grid cores s
  | .queueRung part queue => Sys2Proof.Machine.execQueueRung part queue s
  | .contextRung part ctx => Sys2Proof.Machine.execContextRung part ctx s
  | .engineRung part core => Sys2Proof.Machine.execEngineRung part core s
  | .partitionRung part => Sys2Proof.Machine.execPartitionRung part s
  | .rungTimeout part => Sys2Proof.Machine.execRungTimeout part s
  | .resetreqQueue part value => Sys2Proof.Machine.execResetreqQueue part value s
  | .resetreqContext part value => Sys2Proof.Machine.execResetreqContext part value s
  | .resetreqEngine part value => Sys2Proof.Machine.execResetreqEngine part value s
  | .resetreqPartition part value => Sys2Proof.Machine.execResetreqPartition part value s
  | .energyLoRead part => Sys2Proof.Machine.execEnergyLoRead part s
  | .registerWrite part offset value => Sys2Proof.Machine.execRegisterWrite part offset value s
  | .hostMemoryRead part start size => Sys2Proof.Machine.execHostMemoryRead part start size s
  | .hostMemoryWrite pa bytes => Sys2Proof.Machine.execHostMemoryWrite pa bytes s
  | .hostAtomicOp op pa wide operand new => Sys2Proof.Machine.execHostAtomicOp op pa wide operand new s
  | .damperInterval codes r => Sys2Proof.Machine.execDamperInterval codes r s
  | .laneRatioStallEnd cluster => Sys2Proof.Machine.execLaneRatioStallEnd cluster s
  | .droopAlarm cluster => Sys2Proof.Machine.execDroopAlarm cluster s
  | .stretchEnd cluster => Sys2Proof.Machine.execStretchEnd cluster s
  | .halvedEnd cluster => Sys2Proof.Machine.execHalvedEnd cluster s
  | .slackRound part => Sys2Proof.Machine.execSlackRound part s
  | .pageWalkComplete die id => Sys2Proof.Machine.execPageWalkComplete die id s
  | .accessPerformed g id => Sys2Proof.Machine.execAccessPerformed g id s
  | .unallocatedOpcode word => Sys2Proof.Machine.execUnallocatedOpcode word s
  | .reset rung part target => Sys2Proof.Machine.execReset rung part target s
  | .peerRequest port r => Sys2Proof.Machine.execPeerRequest port r s
  | .portDown port => Sys2Proof.Machine.execPortDown port s
  | .portUp port => Sys2Proof.Machine.execPortUp port s
  | .slackReport part member report => Sys2Proof.Machine.execSlackReport part member report s
  | .ptmMeasurement offset => Sys2Proof.Machine.execPtmMeasurement offset s
  | .timeOfDayMessage secs => Sys2Proof.Machine.execTimeOfDayMessage secs s
  | .patrolScrub sector r => Sys2Proof.Machine.execPatrolScrub sector r s
  | .clerkRestart clerk => Sys2Proof.Machine.execClerkRestart clerk s
  | .map c => Sys2Proof.Machine.execMap c s
  | .update image => Sys2Proof.Machine.execUpdate image s
  | .spdmCertificates slot => Sys2Proof.Machine.execSpdmCertificates slot s
  | .spdmChallenge nonce => Sys2Proof.Machine.execSpdmChallenge nonce s
  | .spdmMeasurements index => Sys2Proof.Machine.execSpdmMeasurements index s
  | .partitionConfiguration part cfg => Sys2Proof.Machine.execPartitionConfiguration part cfg s
  | .nop => Sys2Proof.Machine.execNop s
  | .rcv => Sys2Proof.Machine.execRcv s
  | .yield => Sys2Proof.Machine.execYield s
  | .fend => Sys2Proof.Machine.execFend s
  | .exit => Sys2Proof.Machine.execExit s
  | .brk => Sys2Proof.Machine.execBrk s
  | .rte => Sys2Proof.Machine.execRte s
  | .gbar => Sys2Proof.Machine.execGbar s
  | .seal => Sys2Proof.Machine.execSeal s
  | .sfin => Sys2Proof.Machine.execSfin s
  | .deviceRung => Sys2Proof.Machine.execDeviceRung s
  | .ppsPulse => Sys2Proof.Machine.execPpsPulse s
  | .status => Sys2Proof.Machine.execStatus s
  | .log => Sys2Proof.Machine.execLog s
  | .spdmVersion => Sys2Proof.Machine.execSpdmVersion s
  | .spdmCapabilities => Sys2Proof.Machine.execSpdmCapabilities s
  | .spdmAlgorithms => Sys2Proof.Machine.execSpdmAlgorithms s
  | .timeSourceLoss => Sys2Proof.Machine.execTimeSourceLoss s

end Sys2Proof.Machine
end

