-- ==== Sys2Proof/Machine/Issue.lean ====
section
/-! DEFINITION. Issuing one instruction of a batch or of a stream (R16, R22 to R28, R38, R42, R44, R212,
R218, R248). -/

namespace Sys2Proof.Machine

/-! ## Slots (R22 to R24) -/

/-- The slot is held for a replayed strand of the lanes, which may have merged with others since (R17, R23). -/
def Slot.heldFor (x : Slot) (gid : Nat) (ls : List Nat) : Bool :=
  x.hold.isSome && match x.owner with
    | some (g, ls') => g == gid && ls'.all ls.contains
    | none => false

/-- The slot as the batch takes it: another batch's latches become invalid. -/
def Slot.take (x : Slot) (gid : Nat) (ls : List Nat) : Slot :=
  if x.validFor gid ls then x
  else { owner := some (gid, ls), latch := [], chain := 0, hold := if x.heldFor gid ls then x.hold else none }

/-- An issue on another slot ends what the slot keeps for the lanes: their latches are valid only while they issue back
to back on it (R23). -/
def Slot.forsake (x : Slot) (gid : Nat) (ls : List Nat) : Slot :=
  match x.owner with
  | some (g, ls') => if g == gid && ls'.any ls.contains then Slot.reset else x
  | none => x

/-- The slot while an instruction issues on it: a read of a latch opens a chain of three more instructions; a
chain ends at a closing instruction or header, a hold at the instruction that it was made for. -/
def Slot.step (x : Slot) (i : Instr) (pc strand : Addr) : Slot :=
  { x with
    chain := if i.closes || i.isHeader then 0 else if i.readsLatch then 3 else x.chain - 1
    hold := if i.closes || (i.isHeader && pc != strand) || x.hold == some pc then none else x.hold }

/-! ## Accounting (R42, R212, R234) -/

/-- Reads of each register bank by an instruction (R42) (log 15, DEDUCED). -/
def bankReads (g : Group) (f : Fibre) (i : Instr) : List Nat :=
  let rows := i.reads.flatMap fun x => match x.1 with
    | .v r => (List.range x.2).map fun j => (g.row0 + f.wbase.toNat + r + j) % 4
    | _ => []
  (List.range 4).map fun b => (rows.filter (· == b)).length

/-- What an issue is entered as among those of its cycle. -/
def Batch.entry (b : Batch) (slot : Nat) (i : Option Instr) : Nat × List Nat × List Nat × List Nat :=
  (slot, b.lanes.map fun l => b.gid * 64 + l, (i.map fun i => bankReads b.g b.f i).getD [],
   (i.map fun i => i.ports).getD [])

/-- The grid of a group has issued or completed something (R234). -/
def State.live (s : State) (team : Nat) : State :=
  match s.teams.find? team with
  | some t => s.modGrid t.grid fun g => { g with lastLive := s.time }
  | none => s

/-- Every fibre of the batch has waited in its instruction: the batch issues it again. -/
def Batch.again (b : Batch) : Bool :=
  b.lanes.all fun l => (b.g.fibres.find? l).elim false fun f => f.wait.isSome

/-- The slots of a core as a batch issues on one of them. -/
def Core.takeSlot (k : Core) (b : Batch) (slot : Nat) : Core :=
  (k.setSlot (1 - slot) ((k.slot (1 - slot)).forsake b.gid b.lanes)).setSlot slot
    ((k.slot slot).take b.gid b.lanes)

/-- A batch issues on a slot: the counts of its core and cluster, its age, and the slots. -/
def State.account (s : State) (b : Batch) (slot : Nat) (i : Option Instr) : State :=
  let again := b.again
  let now := (s.cluster (clusterOf b.g.core)).cycles.toNat
  let s := s.modCore b.g.core fun k =>
    { k.takeSlot b slot with
      issued := k.issued ++ [b.entry slot i]
      cIssued := if again then k.cIssued else k.cIssued + 1 }
  let s := s.modCluster (clusterOf b.g.core) fun k =>
    { k with rate := k.rate + 1, vector := if i.elim false Instr.isVector then k.vector + 1 else k.vector }
  let s := s.modGroup b.gid fun g => g.modFibres b.lanes fun _ f => { f with age := now + 1 }
  ({ s with seq := s.seq + 1 } : State).live b.g.team

/-- Cycles until a float result is ready for a source read (R44), by the LANECLK code (log 13, DEDUCED). -/
def floatWait : Nat → Nat
  | 0 => 6
  | 1 => 4
  | _ => 3

/-- Front-end cycles that the operand collector takes beyond the first, at so many reads of a bank in each (R42, R403).
Below the full 4 the two slots of a core share what a bank grants, so that two reads of a bank take longer at 2 (R419)
(log 13, DEDUCED). -/
def collectionWait (grant : Nat) (reads : List Nat) : Nat :=
  let share := if grant < 4 then 2 else 1
  reads.foldl (fun n r => max n ((share * r + grant - 1) / grant - 1)) 0

/-- The registers that an instruction writes in the lanes of a batch. -/
def Batch.writes (b : Batch) (i : Instr) : List (Nat × Reg) :=
  b.lanes.flatMap fun l => match b.g.fibres.find? l with
    | some f => (i.writes.flatMap (regsOf f)).map fun r => (l, r)
    | none => []

/-- The results of a float instruction are not ready at once, and those of one whose operands take longer to collect
come as much later (R44, R403) (log 13, DEDUCED). -/
def State.noteBusy (s : State) (b : Batch) (i : Instr) : State :=
  let k := s.cluster (clusterOf b.g.core)
  let now := k.cycles.toNat
  let late := collectionWait (s.core b.g.core).grant (bankReads b.g b.f i) +
    if i.floatDst.isSome then floatWait k.ratio else 1
  if late ≤ 1 then s
  else
    let new := (b.writes i).map fun x => ({ reg := x.2, lanes := [x.1], ready := now + late } : Busy)
    s.modGroup b.gid fun g => { g with busy := g.busy.filter (fun x => now < x.ready) ++ new }

/-- The v and n registers, with their lanes, in which two states of a group differ; a tag by the first lane of its
column. -/
def Group.changed (g h : Group) : List (Reg × Nat) :=
  (g.rows.changed h.rows).map (fun k => (.v (k / 64), k % 64)) ++
  (g.tags.changed h.tags).map (fun k => (.v (k / 8), k % 8 * 8)) ++
  (g.near.changed h.near).map (fun k => (.n (k / 64), k % 64)) ++
  (g.nearTags.changed h.nearTags).map (fun k => (.n (k / 8), k % 8 * 8)) ++
  ((g.nearValid ++ h.nearValid).filter fun k => g.nearValid.contains k != h.nearValid.contains k).map
    fun k => (.n (k / 64), k % 64)

/-- A group with those of its loads landed that an instruction has landed before it wrote (R72). -/
def Group.landedBy (g h : Group) : Group :=
  (g.flights.filter fun f => !f.regs.isEmpty && h.flights.any fun x => x.id == f.id && x.regs.isEmpty).foldl
    (fun g f => g.land f.id) g

/-- What the first slot has overwritten, kept for a lane exchange on the other slot in the same cycle: the elements, tags
and valid bits that an instruction's writes have changed, as they stood once the loads that it landed had landed (R72,
R316, R319). -/
def State.noteOld (t : State) (b : Batch) (slot : Nat) : State :=
  if slot != 0 then t
  else
    let now := (t.cluster (clusterOf b.g.core)).cycles.toNat
    t.modGroup b.gid fun h =>
      let g := b.g.landedBy h
      { h with old := h.old.filter (fun x => x.cycle == now) ++ (g.changed h).map fun x =>
          { cycle := now, reg := x.1, lane := x.2, elem := g.elem x.1 x.2, tag := g.tag x.1 x.2
            valid := g.nearOk x.1 x.2 } }

/-- The batch goes on together to an instruction that is neither closing nor a header. -/
def State.chainGoesOn (s : State) (b : Batch) (gr : Grid) : Bool :=
  match s.groups.find? b.gid with
  | none => false
  | some g =>
    match b.lanes.filterMap g.fibres.find? with
    | [] => false
    | f :: fs =>
      fs.length + 1 == b.lanes.length && f.parked.isNone &&
      fs.all (fun x => x.parked.isNone && x.pc == f.pc && x.strand == f.strand && x.handler == f.handler) &&
      (s.peek b.g.core gr f.pc).all fun w => match decode w with
        | .ok i => !i.closes && !i.isHeader
        | .error _ => true

/-- A chain ends where its batch splits, or reaches a closing instruction or a header (R24). -/
def State.endAtReach (s : State) (b : Batch) (gr : Grid) (slot : Nat) : State :=
  let x := (s.core b.g.core).slot slot
  if 0 < x.chain && !s.chainGoesOn b gr then
    s.modCore b.g.core fun k => k.setSlot slot { x with chain := 0 }
  else s

/-! ## The issue -/

/-- The instruction is executed, and is no longer being executed afterwards. -/
def State.perform (s : State) (is : Issue) (i : Instr) : Result :=
  match exec i { s with issue := some is } with
  | .next t => .next { t with issue := none }
  | r => r

/-- Which fault of its encoding a word raises in a group or stream (R218) (log 12, DEDUCED). -/
def encodingFault (stoker : Bool) (w : Dword) : Option LaneFault :=
  let op := opcodeOf w
  let known : Bool := match decode w with
    | .ok (.unallocatedOpcode _) => false
    | _ => true
  if known && (if stoker then !stokerOpcode op else stokerOnlyOpcode op) then some (wrongStream w)
  else match decode w with
    | .ok _ => none
    | .error _ => some (illegal w)

/-- A form that writes a c register, and so closes its strand, by the field that tells it from the other forms of its
opcode: `ldc` with TYPE 1, and `cmov` without QD (R27, R323, R329). -/
def closingForm (w : Dword) : Bool :=
  (opcodeOf w == 0x182 && w.toNat / 2 ^ 50 % 16 == 1) || (opcodeOf w == 0x18E && !w.getLsbD 49)

/-- A word that may not stand in a predicate block, whatever its other fields: of class 0 but for `nop`, or closing
(R248) (log 12, DEDUCED). -/
def barredWord (w : Dword) : Bool := barredOpcode (opcodeOf w) || closingForm w

/-- The lanes in which a word of a bad encoding faults: all of them, but within a predicate block those alone in which
it takes effect, unless it is one that may not stand there at all (R237, R248) (log 12, DEDUCED). -/
def refusedLanes (g : Group) (is : Issue) : List Nat :=
  is.lanes.filter fun l => is.eff.contains l ||
    (barredWord is.word && (g.fibres.find? l).elim false fun f => f.block.isSome)

/-- An instruction that no field admits: its lanes fault, those that a predicate block leaves out go on. -/
def State.refuseWord (s : State) (is : Issue) (gid : Nat) (f : LaneFault) : State :=
  match s.groups.find? gid with
  | none => s
  | some g =>
    let bad := refusedLanes g is
    let s := s.setGroup gid
      (g.modFibres (is.lanes.filter fun l => !bad.contains l) fun _ x => x.advance is.pc false)
    s.takeFaults gid is.pc (bad.map fun l => (l, f))

/-- The strand structure fault (R28). -/
def notHeader : LaneFault := { code := 0x06 }

/-- Lanes that must stand at a header and do not. -/
def Group.unheaded (g : Group) (ls : List Nat) (w : Dword) : List Nat :=
  if isHeaderWord w then []
  else ls.filter fun l => (g.fibres.find? l).elim false fun f => f.needHdr

/-- Issue a batch on a slot of its core. -/
def State.issueBatch (s : State) (b : Batch) (gr : Grid) (slot : Nat) : Result :=
  let pc := b.f.pc
  let wait := fun (s : State) (page : Nat) =>
    (s.startWalk b.g.core gr.part page).modGroup b.gid fun g =>
      g.modFibres b.lanes fun _ f => { f with wait := some (.walk [page]) }
  match s.fetch b.g.core gr (b.g.walksFor b.lanes) pc with
  | .error (.walk page) => .next (wait (s.account b slot none) page)
  | .error (.dead pa) => .fault (.noSuchMemory pa)
  | .error (.fault f) => .next ((s.account b slot none).takeFaults b.gid pc (b.lanes.map fun l => (l, f)))
  | .error .replay => .next s
  | .ok w =>
    let bad := b.g.unheaded b.lanes w
    if !bad.isEmpty then
      .next ((s.account b slot none).takeFaults b.gid pc (bad.map fun l => (l, notHeader)))
    else
      let is : Issue :=
        { party := .group b.gid, lanes := b.lanes, eff := b.g.effective b.lanes, slot, pc, word := w }
      match encodingFault false w, decode w with
      | some f, _ => .next ((s.account b slot none).refuseWord is b.gid f)
      | none, .ok i =>
        let s := s.account b slot (some i)
        let s := s.modCore b.g.core fun k => k.setSlot slot ((k.slot slot).step i pc b.f.strand)
        match s.perform is i with
        | .next t => .next (((t.noteBusy b i).noteOld b slot).endAtReach b gr slot)
        | r => r
      | none, .error _ => .next s

/-- Issue the stream of a core. -/
def State.issueStream (s : State) (core : Nat) (st : Stream) (gr : Grid) : Result :=
  let pc := st.pc
  let now := (s.cluster (clusterOf core)).cycles.toNat
  let counted := fun (s : State) (ports : List Nat) =>
    let s := s.modCore core fun k =>
      { k with issued := k.issued ++ [(2, [], [], ports)]
               stream := some { st with age := now + 1 } }
    match s.groups.find? st.owner with
    | some g => ({ s with seq := s.seq + 1 } : State).live g.team
    | none => s
  let is := fun (w : Dword) =>
    ({ party := .stoker core, lanes := [0], eff := [0], slot := 2, pc, word := w } : Issue)
  let fault := fun (s : State) (w : Dword) (f : LaneFault) =>
    match ({ s with issue := some (is w) } : State).sctx? with
    | some c => ({ c.fault f with issue := none } : State)
    | none => s
  match s.fetch core gr st.walks pc with
  | .error (.walk page) =>
    .next (((counted s []).startWalk core gr.part page).modStream core fun st =>
      { st with wait := some (.walk [page]) })
  | .error (.dead pa) => .fault (.noSuchMemory pa)
  | .error (.fault f) => .next (fault (counted s []) 0 f)
  | .error .replay => .next s
  | .ok w =>
    match encodingFault true w, decode w with
    | some f, _ => .next (fault (counted s []) w f)
    | none, .ok i => (counted s i.copyPort).perform (is w) i
    | none, .error _ => .next s

end Sys2Proof.Machine
end

