-- ==== Sys2Proof/Machine/Ready.lean ====
section
/-! DEFINITION. Which batches are ready (R41, R44, R208), and which of them a core may issue next (R19, R24,
R42). -/

namespace Sys2Proof.Machine

/-! ## The batches of a core -/

/-- A batch of some lanes. -/
def Runner.is (r : Runner) (gid : Nat) (ls : List Nat) : Bool := r.b.gid == gid && r.b.lanes == ls

/-- A lane of the batch has issued in this cycle. -/
def Core.hasIssued (k : Core) (b : Batch) : Bool :=
  k.issued.any fun x => b.lanes.any fun l => x.2.1.contains (b.gid * 64 + l)

/-- Something has issued on a slot in this cycle. -/
def Core.slotUsed (k : Core) (slot : Nat) : Bool := k.issued.any fun x => x.1 == slot

/-- What a batch needs conflicts with what has issued on a slot in this cycle (R42): more than 4 reads of a
register bank, or a port twice (log 15, DEDUCED). The Stoker reads no register bank, and shares the copy-engine port
alone (R346). -/
def Core.conflicts (k : Core) (e : Nat × List Nat × List Nat × List Nat) : Bool :=
  k.issued.any fun x =>
    ((x.2.2.1.zip e.2.2.1).any (fun p => 4 < p.1 + p.2) || e.2.2.2.any x.2.2.2.contains)

/-- A batch conflicts with what has issued in this cycle. -/
def State.conflict (s : State) (slot : Nat) (r : Runner) : Bool :=
  (s.core r.b.g.core).conflicts (r.b.entry slot (s.instrOf r.gr r.b))

/-- The batch that a slot is kept for: it is in a chain, or the slot is held for its strand (R23, R24). -/
def State.keptFor (s : State) (core slot : Nat) (rs : List Runner) : Option Runner :=
  let x := (s.core core).slot slot
  match x.owner with
  | some (gid, ls) =>
    rs.find? fun r => ((0 < x.chain && r.is gid ls) || x.heldFor r.b.gid r.b.lanes) && s.mayRun r.t r.gr r.b
  | none => none

/-- One candidate goes before another (R42). -/
def Runner.before (a b : Runner) : Bool :=
  (a.b.f.handler && !b.b.f.handler) || (a.b.f.handler == b.b.f.handler && a.b.age < b.b.age)

/-- The oldest candidates: those of equal age come in an order that the core chooses. -/
def oldest (rs : List Runner) : List Runner := rs.filter fun r => !rs.any fun x => x.before r

/-- The ready batches that have not issued in this cycle, that no slot is kept for, and that conflict with
nothing. -/
def State.candidates (s : State) (core slot : Nat) (rs : List Runner) : List Runner :=
  let kept := [0, 1].filterMap fun i => s.keptFor core i rs
  rs.filter fun r => !kept.contains r && !(s.core core).hasIssued r.b && s.ready r.t r.gr r.b &&
    !s.conflict slot r

/-! ## Packing (R19) -/

/-- Columns of a core that a batch takes. -/
def Batch.columns (b : Batch) : List Nat := dedup (b.lanes.map fun l => b.g.col0 + l / 8)

/-- A batch may be packed with others: it is narrow, no trap-handler batch, reads no latch and closes no
strand. -/
def State.packs (s : State) (r : Runner) : Bool :=
  !r.b.f.handler && r.b.columns.length < 8 && match s.instrOf r.gr r.b with
    | some i => !i.readsLatch && !i.closes
    | none => false

/-- Two batches may be packed together. -/
def packsWith (a b : Runner) : Bool :=
  a.gr.part == b.gr.part && a.gr.kernel == b.gr.kernel && a.b.f.pc == b.b.f.pc

/-- Add to a pack, in order of age, each batch whose columns are free (log 15, DEDUCED). -/
def State.addMates (s : State) (lead : Runner) (cs : List Runner) : List Runner :=
  (cs.foldl (fun (acc : List Runner × List Nat) r =>
    let cols := r.b.columns
    if packsWith lead r && s.packs r && !cols.any acc.2.contains then (acc.1 ++ [r], acc.2 ++ cols) else acc)
    ([], lead.b.columns)).1

/-- Insert a batch in order of age. -/
def ageInsert (r : Runner) : List Runner → List Runner
  | [] => [r]
  | x :: l => if r.before x then r :: x :: l else x :: ageInsert r l

/-- The batches packed with the oldest candidate. -/
def State.mates (s : State) (lead : Runner) (cs : List Runner) : List Runner :=
  let others := cs.filter fun r => r != lead
  if others.isEmpty || !s.packs lead then []
  else s.addMates lead (others.foldl (fun l r => ageInsert r l) [])

/-! ## What a core may issue -/

/-- One issue of a core: a batch and what is packed with it, or the Stoker's next instruction. -/
inductive Pick where
  | batch (slot : Nat) (r : Runner) (mates : List Runner)
  | stream (core : Nat)
deriving DecidableEq, Repr

/-- The free choice of a slot. -/
def State.freePicks (s : State) (core slot : Nat) (rs : List Runner) : List Pick :=
  let cs := s.candidates core slot rs
  (oldest cs).map fun r => .batch slot r (s.mates r cs)

/-- What a slot may issue: the batch that it is kept for, or the oldest candidate. A batch in a chain that stalls on an
operand leaves the slot, and no other wait of it does; nor does a stall end the hold of a replayed strand (R23, R24). A batch that the slot is kept for and that conflicts
with the other slot's issue of this cycle waits, and its slot issues nothing (log 65, DESIGN CHOICE). -/
def State.slotPicks (s : State) (core slot : Nat) (rs : List Runner) : List Pick :=
  match s.keptFor core slot rs with
  | some r =>
    if s.ready r.t r.gr r.b then
      if (s.core core).hasIssued r.b || s.conflict slot r then [] else [.batch slot r []]
    else if ((s.core core).slot slot).hold.isSome || !s.stallsOnOperand r.gr r.b then []
    else s.freePicks core slot rs
  | none => s.freePicks core slot rs

/-- A ratio change stalls the cluster, once no droop sequence runs (R402, R407) (log 45, DEDUCED). -/
def Cluster.stalled (k : Cluster) : Bool := k.stall.isSome && k.stretchLeft = 0 && k.halvedLeft = 0

/-- The slots issue in this cycle: no ratio change stalls them, and of the halved cycles only every second
one issues (R402, R404). -/
def Cluster.issues (k : Cluster) : Bool := !k.stalled && (k.halvedLeft ≤ 1 || k.halvedLeft % 2 == 1)

/-- What the slots of a core may issue now: the first slot chooses before the second (R42) (log 15, DEDUCED). -/
def State.slotsPick (s : State) (core : Nat) : List Pick :=
  let k := s.core core
  if !(s.cluster (clusterOf core)).issues || k.slotUsed 1 then []
  else
    let rs := s.runners core
    let first := if k.slotUsed 0 then [] else s.slotPicks core 0 rs
    if first.isEmpty then s.slotPicks core 1 rs else first

/-! ## The Stoker (R37 to R39) -/

/-- The stream's command finds a permit (R39). -/
def State.permitFree (s : State) (core : Nat) (gr : Grid) (st : Stream) : Bool :=
  match s.fetch core gr st.walks st.pc with
  | .ok w => match decode w with
    | .ok (.cpt a) => match a.dir with
      | .into => st.permits .ci < 16
      | .out => st.permits .co < 16
    | .ok (.mma _) | .ok (.mconv _) => (s.core core).matq.length < 8
    | _ => true
  | .error _ => true

/-- What a stream waits for has come. -/
def State.streamWaitOver (s : State) (core : Nat) (gr : Grid) (st : Stream) : Bool :=
  let k := s.core core
  match st.wait with
  | none => true
  | some (.walk pages) => !s.walking core gr.part pages
  | some (.engine .ci n) => st.ci.length ≤ n
  | some (.engine .co n) => st.co.length ≤ n
  | some (.engine _ n) => k.matq.length ≤ n
  | some (.queue q) => s.servedAt q (.stoker core) 0
  | some .sfin => st.ci.isEmpty && st.co.isEmpty && k.matq.isEmpty
  | some .permit => s.permitFree core gr st
  | some (.window gates) => s.gatesClosed gates
  | some _ => false

/-- The stream of a core may issue: it has not been stopped, and a polite request has not stopped it outside
every loop (R231). -/
def State.streamMayIssue (s : State) (core : Nat) (st : Stream) : Bool :=
  match (s.groups.find? st.owner).bind s.owners with
  | some (t, gr) =>
    !st.stopped && t.kill.isNone && !t.killed && !(gr.polite t && st.loops.isEmpty) &&
    s.streamWaitOver core gr st
  | none => false

/-- The copy-engine port that a stream's next instruction needs is taken in this cycle (R346). -/
def State.streamConflict (s : State) (core : Nat) (st : Stream) : Bool :=
  match (s.groups.find? st.owner).bind s.owners with
  | some (_, gr) => match s.fetch core gr st.walks st.pc with
    | .ok w => match decode w with
      | .ok i => (s.core core).conflicts (2, [], [], i.copyPort)
      | .error _ => false
    | .error _ => false
  | none => false

/-- The Stoker's issue in this cycle. -/
def State.streamPick (s : State) (core : Nat) : List Pick :=
  let k := s.core core
  match k.stream with
  | some st =>
    if !(s.cluster (clusterOf core)).stalled && !k.slotUsed 2 && s.streamMayIssue core st &&
        !s.streamConflict core st then
      [.stream core]
    else []
  | none => []

/-- Cores that may have something to issue. -/
def State.liveCores (s : State) : List Nat := dedup (s.groups.cells.map fun x => x.2.core)

/-- Everything that can issue now. -/
def State.picks (s : State) : List Pick :=
  s.liveCores.flatMap fun c => s.slotsPick c ++ s.streamPick c

/-! ## Making an issue -/

/-- The batches of a pack that are still to issue. -/
def Runner.pending (slot : Nat) (r : Runner) : Nat × List Nat × Nat := (r.b.gid, r.b.lanes, slot)

/-- A packed issue leaves no latches (R23). -/
def State.endPack (s : State) (core slot : Nat) : State :=
  s.modCore core fun k =>
    if k.packing.isEmpty then k.setSlot slot (k.slot slot).invalidate else k

/-- The outcome of an issue that belongs to a pack. -/
def Result.packed (r : Result) (core slot : Nat) : Result :=
  match r with
  | .next s => .next (s.endPack core slot)
  | r => r

/-- Make an issue (R19) (log 52, DEDUCED). -/
def State.make (s : State) : Pick → Result
  | .stream core => match (s.core core).stream with
    | some st => match (s.groups.find? st.owner).bind s.owners with
      | some (_, gr) => s.issueStream core st gr
      | none => .next s
    | none => .next s
  | .batch slot r [] => s.issueBatch r.b r.gr slot
  | .batch slot r mates =>
    let s := s.modCore r.b.g.core fun k =>
      { k with packing := mates.map (Runner.pending slot) }
    s.issueBatch r.b r.gr slot

/-- A core with a packed issue under way. -/
def State.packingCore (s : State) : Option Nat :=
  (s.cores.cells.find? fun x => !x.2.packing.isEmpty).map (·.1)

/-- The second batch of a packed issue issues: PACKED advances (R212). -/
def Core.countPack (k : Core) (slot : Nat) : Core :=
  if (k.issued.filter (·.1 == slot)).length = 1 then { k with packed := k.packed + 1 } else k

/-- The next batch of a packed issue; one that has changed since, or that the batches before it have left no room in
its group's counters, is left out (R208) (log 52, DEDUCED). -/
def State.packNext (s : State) (core : Nat) : Result :=
  match (s.core core).packing with
  | [] => .next s
  | (gid, ls, slot) :: rest =>
    let s := s.modCore core fun k => { k with packing := rest }
    match (s.runners core).find? fun r => r.is gid ls && s.instrReady r.gr r.b with
    | some r => ((s.modCore core fun k => k.countPack slot).issueBatch r.b r.gr slot).packed core slot
    | none => .next (s.endPack core slot)

end Sys2Proof.Machine
end

