-- ==== Sys2Proof/Machine/Schedule.lean ====
section
/-! DEFINITION. What can take place next, and the course of time (log 1): an outside event, an issue, an event
of the machine itself, or a nominal front-end cycle (R3, R41, R43, R397, R402, R404). -/

namespace Sys2Proof.Machine

/-! ## Events of the machine itself -/

/-- An event can take place now (log 51, DESIGN CHOICE). -/
def State.can (s : State) (e : Instr) : Bool :=
  match exec e s with
  | .refused _ => false
  | _ => true

/-- The event that ends a wait of a batch. -/
def Batch.expiry (b : Batch) : Option Instr :=
  match b.f.wait with
  | some (.rcv _) => some (.rcvTimeout b.gid b.lanes)
  | some (.yielded _) => some (.yieldExpiry b.gid b.lanes)
  | some (.paused _) => some (.pauseExpiry b.gid b.lanes)
  | some (.sleeping _) => some (.sleepExpiry b.gid b.lanes)
  | _ => none

/-- Ends of waits, for every batch that waits for a time. -/
def State.expiries (s : State) : List Instr :=
  (s.groups.cells.flatMap fun (i, g) => (s.owners g).elim [] fun o =>
    (s.gather o.2 i g).filterMap Batch.expiry) ++
  s.queues.cells.flatMap fun (_, h) => h.held.map fun w => .queueRetry w.party w.active

/-- Events that take place as soon as they are due (log 39, DESIGN CHOICE). -/
def State.dueEvents (s : State) : List Instr :=
  (s.teams.cells.map fun x => .teamKill x.1) ++ s.expiries ++
  (s.groups.cells.map fun x => .eviction x.1) ++
  ((List.range 2).flatMap fun d => (List.range 8).map fun b => .folioRefreshWindow d b) ++
  (s.clusters.cells.flatMap fun x => [.stretchEnd x.1, .halvedEnd x.1, .laneRatioStallEnd x.1]) ++
  (s.grids.cells.flatMap fun x => [.preemptCut x.1, .sliceExpiry x.1, .watchdogEscalation x.1]) ++
  (s.parts.cells.flatMap fun x => [.rungTimeout x.1, .slackRound x.1]) ++ [.rungTimeout 8] ++
  s.cores.cells.flatMap fun x => x.2.pad.errors.cells.map fun e => .bankRetire x.1 e.1

/-- What a rung in progress does. -/
def Rung.event (r : Rung) (part : Nat) : Instr :=
  match r.level with
  | 1 => .queueRung part r.target
  | 2 => .contextRung part r.target
  | 3 => .engineRung part r.target
  | _ => .partitionRung part

/-- Rungs of the reset ladder that are in progress, and contexts that have long been idle (R234). -/
def State.rungEvents (s : State) : List Instr :=
  .deviceRung :: s.parts.cells.flatMap fun (i, p) =>
    p.rungs.map (fun r => r.event i) ++ (s.gridsOf i fun _ _ => true).map fun k => .contextRung i (k % 65536)

/-- The queue rung for a home with operations waiting: by its index in the partition's table, or by its key. -/
def State.homeRung (s : State) (k : Nat) (h : QHome) : Option Instr :=
  (h.producers ++ h.consumers ++ h.held).head?.map fun w =>
    let part := w.holder.ctx.toNat % 8
    let base := (s.part part).qtable
    .queueRung part (if base ≤ k ∧ k < base + 4096 then (k - base) / 64 else k)

/-- The list that begins at an index and goes round. -/
def rotate {α : Type} (l : List α) (i : Nat) : List α := l.drop i ++ l.take i

/-- The sets of cores of a partition for a team, from the r-th on and round. -/
def Part.setsFrom (p : Part) (n r : Nat) : List (List Nat) :=
  let sets := p.coreSets n
  rotate sets (r % max sets.length 1)

/-- The cores that the curator chooses for what a grid places next, by the set of cores that it tries first: one
team, or all the teams of a co-resident grid (log 40, DESIGN CHOICE). -/
def State.placement (s : State) (g : Grid) (r : Nat) : Option (List Nat) :=
  let n := g.kernel.need
  let sets := (s.part g.part).setsFrom n.items.length r
  let rooms := s.rooms g.part false
  if g.coresident then (rooms.assign (fun _ => sets) (g.unplaced.map fun _ => n)).map List.flatten
  else sets.find? fun cs => (rooms.hold ⟨[]⟩ n cs).isSome

/-- Places for the teams of an image, by the set of cores that is tried first (log 40, DESIGN CHOICE). -/
def State.imagePlaces (s : State) (part r : Nat) (ms : List TeamImage) (rooms : Rooms) : Option (List (List Nat)) :=
  rooms.assign (fun n => (s.part part).setsFrom n.items.length r) (ms.map (·.need))

/-- What the curator does with a grid that waits for room (R388, R389). -/
def State.roomEvent (s : State) (r key : Nat) (g : Grid) : Option Instr :=
  if !s.placeNext key g then none
  else if g.status = .saved then
    (s.imagePlaces g.part r g.image (s.rooms g.part false)).map fun cs => .contextRestore key cs
  else if g.unplaced.isEmpty then none
  else (s.placement g r).map fun cs => .teamPlacement key cs

/-- Events of the clerks and the scheduler. -/
def State.clerkEvents (s : State) (r : Nat) : List Instr :=
  (s.parts.cells.flatMap fun (i, p) =>
    [.launch i, .feed i, .folio i, .marker i] ++ (p.markers.map fun m => .markerComplete i m.id) ++
    (p.folios.map fun w => .folioWriteComplete i w.id) ++ [.launchTake i, .invalidationComplete i]) ++
  (s.grids.cells.filterMap fun (k, g) => s.roomEvent r k g) ++
  (s.groups.cells.map fun x => .groupEnd x.1) ++
  (s.grids.cells.flatMap fun x => [.gridComplete x.1, .preemptRequest x.1, .saveImage x.1]) ++
  (s.liveCores.filterMap s.firstToEnter).map .activeSetEntry

/-- Completions of what is in flight, and the drains of the dirty-line FIFOs, which take place in finite time (R368). -/
def State.completions (s : State) : List Instr :=
  (s.groups.cells.flatMap fun (i, g) =>
    (g.flights.map fun f => .loadComplete i f.id) ++ g.vm.map fun u => .accessPerformed i u.id) ++
  (s.cores.cells.flatMap fun (i, k) =>
    (k.copies.map fun c => .copyComplete c.party c.id) ++ [.matrixCommandComplete i]) ++
  (s.dies.cells.flatMap fun (i, d) => d.walks.map fun w => .pageWalkComplete i w.id) ++
  s.cores.cells.map fun x => .fifoDrain x.1

/-- Events that may take place at any time, or never: a block leaves L1 (log 50), and the rung for a home that has failed
(R234) (log 43, DEDUCED). -/
def State.idleEvents (s : State) : List Instr :=
  (s.cores.cells.flatMap fun (i, k) => k.l1.cells.map fun b => .l1Eviction i b.1) ++
  s.queues.cells.filterMap fun (k, h) => s.homeRung k h

/-- Sectors of HBM of which one word alone is poisoned: written back and fetched again, they are poisoned whole (R103,
R113, R116). -/
def State.halfSectors (s : State) : List Nat :=
  (s.poison.filter fun w => isDevice (16 * w) && !s.poison.contains (w / 2 * 2 + 1 - w % 2)).map (· / 2)

/-- A line leaves its L2 slice for HBM: a sector with a poisoned word is poisoned (R103, R116) (log 9, DEDUCED). -/
def State.writeBack (s : State) (sector : Nat) : State :=
  { s with poison := ninsert (2 * sector + 1) (ninsert (2 * sector) s.poison) }

/-- The number of lines that some sectors, in ascending order, lie in. -/
def linesOf (sectors : List Nat) : Nat := (sectors.foldl (fun (n, last) x =>
  if last = some (x / 4) then (n, last) else (n + 1, some (x / 4))) (0, none)).1

/-- A sector of which L2 alone knows that one word is poisoned, on a die whose slices cannot hold all such lines: one of
them must leave (R1, R103) (log 9, DEDUCED). -/
def State.l2Overflow (s : State) : Option Nat :=
  (List.range 2).findSome? fun d =>
    let mine := s.halfSectors.filter fun x => dieOfAddr (32 * x) == d
    if 32 * Config.sliceBytes / 128 < linesOf mine then mine.head? else none

/-! ## Liveness (R234) -/

/-- The team that a completion belongs to. -/
def State.completes (s : State) : Instr → Option Nat
  | .loadComplete i _ | .accessPerformed i _ => (s.groups.find? i).map (·.team)
  | .copyComplete (.group i) _ => (s.groups.find? i).map (·.team)
  | .copyComplete (.stoker c) _ | .matrixCommandComplete c =>
    ((s.core c).stream.bind fun st => s.groups.find? st.owner).map (·.team)
  | _ => none

/-- An event takes place; a completion shows that its context is alive. -/
def State.perform_ (s : State) (e : Instr) : Result :=
  exec e (match s.completes e with
    | some t => s.live t
    | none => s)

/-! ## Time -/

/-- TIME goes on by one nominal cycle of 20/21 ns, at the rate that the time source sets (R213, R398) (log 46,
DEDUCED). -/
def Clock.tick (c : Clock) : Clock :=
  let rest := c.rest + (20 * (10 ^ 6 + c.rate)).toNat
  { c with time := c.time + rest / 21000000, rest := rest % 21000000 }

/-- The cycle runs at double period. -/
def Cluster.stretched (k : Cluster) : Bool := 1 < k.stretchLeft && k.stretchLeft < 8

/-- Lane cycles of a front-end cycle: one in two of them at ratio 0.5 (R3, R402). -/
def Cluster.laneStep (k : Cluster) : Nat :=
  match k.ratio with
  | 0 => if k.cycles.getLsbD 0 then 0 else 1
  | 1 => 1
  | _ => 2

/-- One front-end cycle of a cluster: CYCLES, the lane cycles, and the counts of a droop and of a ratio change (R404,
R402). -/
def Cluster.cycle (k : Cluster) : Cluster :=
  let halved := 1 < k.halvedLeft
  { k with
    cycles := k.cycles + 1
    laneCycles := k.laneCycles + k.laneStep
    stretch := if k.stretched then k.stretch + 1 else k.stretch
    stretchLeft := if 1 < k.stretchLeft then k.stretchLeft - 1 else k.stretchLeft
    halved := if halved then k.halved + 1 else k.halved
    halvedLeft := if k.stretchLeft = 8 then 0 else if halved then k.halvedLeft - 1 else k.halvedLeft
    stall := if k.stalled then k.stall.map fun x => (x.1 - 1, x.2) else k.stall }

/-- Fifteenths of a nominal cycle that a front-end cycle takes: twice as many at double period. -/
def Cluster.period (k : Cluster) : Nat := if k.stretched then 30 else 15

/-- One nominal cycle for a cluster, and whether a front-end cycle of it has ended: its clock runs at 15 - bin
fifteenths of the top bin (R397) (log 46, DEDUCED). -/
def Cluster.tick (k : Cluster) : Cluster × Bool :=
  let phase := k.phase + (15 - k.bin)
  if k.period ≤ phase then ({ k.cycle with phase := phase - k.period }, true)
  else ({ k with phase }, false)

/-- At the end of a cycle a chain ends whose batch has stalled on an operand in it, or is no longer there: it has not
issued in this cycle, and has an operand outstanding (R24). -/
def State.endChain (s : State) (core slot : Nat) : State :=
  let k := s.core core
  let x := k.slot slot
  let stalled := match s.keptFor core slot (s.runners core) with
    | some r => !k.hasIssued r.b && s.stallsOnOperand r.gr r.b
    | none => true
  if 0 < x.chain && stalled then
    s.modCore core fun k => k.setSlot slot { x with chain := 0 }
  else s

/-- The end of a front-end cycle of the cores of a cluster: the chains whose batches have stalled in it end. -/
def State.endChains (s : State) (cluster : Nat) : State :=
  let cs := (s.cores.cells.filter fun x => clusterOf x.1 == cluster).map (·.1)
  cs.foldl (fun s c => (s.endChain c 0).endChain c 1) s

/-- A new front-end cycle of a core: nothing has issued in it. -/
def Core.begin (k : Core) : Core := { k with issued := [] }

/-- A new front-end cycle of the cores of a cluster that the state lists: their counters are sampled (R44), and the
groups that begin to wait for the active set are noted (R34). -/
def State.beginCores (s : State) (cluster : Nat) : State :=
  let cs := (s.cores.cells.filter fun x => clusterOf x.1 == cluster).map (·.1)
  let now := (s.cluster cluster).cycles.toNat
  let s := cs.foldl (fun s c => (s.modCore c Core.begin).sample c) s
  { s with groups := ⟨s.groups.cells.map fun x =>
      (x.1, if cs.contains x.2.core then s.stampWait now x.2 else x.2)⟩ }

/-- The error records that a core's scratchpad has to send (R129, R132 to R134, R227). -/
def State.sendNotes (s : State) (core : Nat) : State :=
  let notes := (s.core core).pad.notes
  if notes.isEmpty then s
  else
    let s := s.modCore core fun k => { k with pad := { k.pad with notes := [] } }
    notes.foldl (fun s n =>
      let part := n.grid / 65536
      s.errorRecord part 0 n.detail (gridCtxid n.grid) (BitVec.ofNat 64 (2 * 2 ^ 60 + n.off)) n.pc n.word
        ((s.part part).logical core) 0) s

/-- The lane cycles of a front-end cycle at the banks of a cluster's cores (R125 to R128). -/
def State.laneCycles (s : State) (cluster n : Nat) : State :=
  let cs := (s.cores.cells.filter fun x => clusterOf x.1 == cluster).map (·.1)
  cs.foldl (fun s c => ((List.range n).foldl (fun s _ => s.laneCycle c) s).sendNotes c) s

/-- A nominal cycle of every cluster. -/
def State.tickClusters (s : State) : State :=
  (List.range 32).foldl (fun s i =>
    let old := s.cluster i
    let (k, ended) := old.tick
    if ended then (((s.endChains i).laneCycles i old.laneStep).setCluster i k).beginCores i else s.setCluster i k) s

/-- SLICE of the resident contexts goes down (R217). -/
def State.spend (s : State) (ns : Nat) : State :=
  { s with grids := ⟨s.grids.cells.map fun (k, g) =>
      if g.cls != 0 && s.resident k then (k, { g with slice := g.slice - ns }) else (k, g)⟩ }

/-- Every batch of a partition is not ready, and one waits in `wait fx` (R397). -/
def State.slackNow (s : State) (part : Nat) : Bool :=
  let mine := s.groups.cells.filter fun (_, g) => s.partOf g == part
  (mine.any fun (_, g) => g.fibres.cells.any fun (_, f) => match f.wait with
    | some (.engine .fx _) => true
    | _ => false) &&
  mine.all fun (i, g) => (s.core g.core).issued.isEmpty &&
    (s.runnersOf i g).all fun r => !s.ready r.t r.gr r.b

/-- The slack of a round grows (R397). -/
def State.addSlack (s : State) (ns : Nat) : State :=
  { s with parts := ⟨s.parts.cells.map fun (i, p) => match p.group with
      | some c => if s.slackNow i then (i, { p with group := some { c with slack := c.slack + ns } }) else (i, p)
      | none => (i, p)⟩ }

/-- A nominal front-end cycle passes. -/
def State.tick (s : State) : State :=
  let clock := s.clock.tick
  let ns := clock.time - s.clock.time
  let s := (s.addSlack ns).spend ns
  ({ s with clock, nominal := s.nominal + 1 } : State).tickClusters

/-! ## What takes place next -/

/-- One thing that takes place. -/
inductive Happening where
  /-- The oldest outside event. -/
  | input
  /-- The next batch of a packed issue under way on a core. -/
  | pack (core : Nat)
  | issue (p : Pick)
  | event (e : Instr)
  /-- A sector goes from L2 to HBM. -/
  | writeBack (sector : Nat)
  | tick
deriving DecidableEq, Repr

/-- What has to take place before anything else (log 1, DESIGN CHOICE) (log 39, DESIGN CHOICE). -/
def State.forced (s : State) : Option Happening :=
  match s.packingCore with
  | some c => some (.pack c)
  | none => match s.dueEvents.find? s.can with
    | some e => some (.event e)
    | none => s.l2Overflow.map .writeBack

/-- Events of the machine itself that can take place now, by the set of cores that placements try first. -/
def State.ownEvents (s : State) (r : Nat) : List Instr := s.rungEvents ++ s.clerkEvents r ++ s.completions

/-- Everything that can take place now: a cycle passes only when no core has anything left to issue in this one
(log 1, DESIGN CHOICE). -/
def State.choices (s : State) (r : Nat) : List Happening :=
  (if s.inputs.isEmpty then [] else [.input]) ++ s.picks.map .issue ++
  ((s.ownEvents r).filter s.can).map .event ++
  (if s.picks.isEmpty then [.tick] else []) ++ (s.idleEvents.filter s.can).map .event ++
  s.halfSectors.map .writeBack

/-- The first of the choices (log 1, DESIGN CHOICE). -/
def State.firstChoice (s : State) (r : Nat) : Happening :=
  if !s.inputs.isEmpty then .input
  else match s.picks with
    | p :: _ => .issue p
    | [] => match (s.ownEvents r).find? s.can with
      | some e => .event e
      | none => .tick

/-- What takes place next: what has to, or else what a number of the schedule chooses, with the cores that
placements try first (log 1, DESIGN CHOICE). -/
def State.next (s : State) : Happening :=
  match s.forced with
  | some h => h
  | none =>
    let n := s.schedule.headD 0
    let r := n / 2 ^ 32
    match n % 2 ^ 32 with
    | 0 => s.firstChoice r
    | i => ((s.choices r)[i % (s.choices r).length]?).getD (s.firstChoice r)

/-- An outside event takes place; one that cannot take place is lost (log 1, DESIGN CHOICE) (log 51, DESIGN
CHOICE). -/
def State.takeInput (s : State) : Result :=
  match s.inputs with
  | [] => .next s
  | e :: rest =>
    let s := { s with inputs := rest }
    match exec e s with
    | .refused _ => .next s
    | r => r

/-- Something takes place. -/
def State.happen (s : State) : Happening → Result
  | .input => s.takeInput
  | .pack core => s.packNext core
  | .issue p => s.make p
  | .event e => s.perform_ e
  | .writeBack sector => .next (s.writeBack sector)
  | .tick => .next s.tick

/-- An event that reaches a module held in reset: Yilup alone does (R234) (log 44, DEDUCED). -/
def reachesHeld : Instr → Bool
  | .reset _ _ _ | .status => true
  | _ => false

/-- A module held in reset: nothing takes place but what Yilup asks for (log 44, DEDUCED). -/
def State.heldStep (s : State) : Result :=
  match s.inputs with
  | [] => .next s
  | e :: rest => if reachesHeld e then s.takeInput else .next { s with inputs := rest }

/-- A choice has been made. -/
def State.popSchedule (s : State) : State :=
  if s.forced.isSome then s else { s with schedule := s.schedule.tail }

/-- One step of the machine (log 1, DESIGN CHOICE). -/
def State.act (s : State) : Result :=
  if s.held then s.heldStep else s.popSchedule.happen s.next

end Sys2Proof.Machine
end

