-- ==== Sys2Proof/Machine/Load.lean ====
section
/-! DEFINITION. A machine with one word loaded as the next instruction (log 22). -/

namespace Sys2Proof.Machine

/-- Where the loaded word stands: virtual and physical address. -/
def loadPc : Addr := 0x4000

/-- The kernel of the loaded context: one matrix team of one group of 8 lanes on one core. -/
def loadKernel : Kernel :=
  { entry := loadPc, trapBase := 0x8000, code := Cap.spanning 5 0x20 0 0x10000
    roles := [{ width := 8, count := 1, vregs := 4096, kregs := 96 }], scratch := 1024, isMatrix := true
    cores := 1, acc := 0, ttime := 0, folio := [] }

/-- The grid of the loaded context, context 1 of partition 0. -/
def loadGrid : Grid :=
  { part := 0, kernel := loadKernel, tag := 0, cls := 0, doneAddr := 0, teams := 1, unplaced := []
    coresident := false, restartable := false, afterTag := none, notBefore := none, admitted := 0
    scalars := List.replicate 12 0, caps := List.replicate 7 Cap.null, status := .running, order := 0
    slice := 0, debt := 0, wdog := 0, preemptCut := 10000, kills := ⟨[]⟩, parent := none
    gbar := Barrier.fresh, preempt := none, image := [], lastLive := 0 }

def loadTeam : Team :=
  { grid := gridKey 0 1, index := 0, cores := [0], segs := [0], z := 1024, isMatrix := true, groups := [1]
    bars := ⟨[]⟩, started := 0, kill := none, killed := false, drain := false, unlinked := [] }

/-- The group, in the active set; the header of its strand has been executed. -/
def loadGroup : Group :=
  let spec : GroupSpec := { role := 0, index := 0, width := 8, vregs := 4096, kregs := 96, tlane0 := 0 }
  ({ startGroup loadGrid 1 0 0 1024 spec (0, 0) with active := true }).mapFibres fun f =>
    { f with needHdr := false, strand := loadPc - 8 }

/-- The page of the word, as the core has it cached: readable and executable. -/
def loadPage : TlbEntry := { part := 0, base := 0, size := 65536, entry := 0x2B }

/-- The core with its page, and with a stream where the word is one that only a Stoker executes. -/
def loadCore (stoker : Bool) : Core :=
  { Core.reset with
    tlb := [loadPage]
    stream := if stoker then some (Stream.start 1 loadGroup loadPc 0) else none }

/-- A group without fibres, whose stream runs. -/
def Group.streaming (g : Group) (stoker : Bool) : Group := if stoker then { g with fibres := ⟨[]⟩ } else g

/-- A fresh context with one word stands on core 0, and nothing else is under way (log 22, DESIGN CHOICE). -/
def State.loadWord (s : State) (w : Dword) : State :=
  let stoker := stokerOnlyOpcode (opcodeOf w)
  { (s.homeWrite loadPc.toNat (bytesOfWord w)) with
    inputs := [], schedule := [], issue := none, nextId := max s.nextId 2, nominal := 0, held := false
    deviceRung := none, cores := ⟨[(0, loadCore stoker)]⟩, clusters := ⟨[]⟩, dies := ⟨[]⟩
    parts := ⟨[(0, Part.first)]⟩, grids := ⟨[(gridKey 0 1, loadGrid)]⟩, teams := ⟨[(1, loadTeam)]⟩
    groups := ⟨[(1, loadGroup.streaming stoker)]⟩, queues := ⟨[]⟩ }

end Sys2Proof.Machine
end

