-- ==== Sys2Proof/Machine/Step.lean ====
section
/-! DEFINITION. One step of the machine, and the machine with a word where it fetches its next instruction. -/

namespace Sys2Proof.Machine

/-- One step: what has to take place, or one of the things that can (log 1). -/
def step (s : State) : Host.Outcome State Fault Refusal := s.act

/-- The machine with the instruction of some bits, numbered as the opcode table numbers them, as the next one to
be issued (log 22, DESIGN CHOICE). -/
def State.withFetchWord (s : State) (nbits w : Nat) : State :=
  s.loadWord (BitVec.ofNat 64 (w % 2 ^ nbits))

end Sys2Proof.Machine
end

