-- ==== Sys2Proof/Safety.lean ====
section
/-! DEFINITION. The terms that claims are stated in: the invariant of the machine, the context of an instruction
under execution, when its operands can be read and written, and what reads of registers, predicates and memory
give. Nothing of the machine uses this file. -/

namespace Sys2Proof.Machine

/-! ## The invariant -/

/-- Memory and Folio are in their canonical form. -/
def State.Inv (s : State) : Prop := s.mem.wf = true ∧ s.folio.wf = true

/-! ## Contexts -/

/-- A group executes an instruction that takes effect in some lane, in a context. -/
def State.RunsIn (s : State) (c : Ctx) : Prop := s.ctx? = some c ∧ c.is.eff ≠ []


/-- The issue of the context is one that a batch makes (R11, R16, R248): its lanes are different lanes of the 64,
each has a fibre at the instruction that is not parked, and it takes effect where a predicate block lets it. -/
def Ctx.Proper (c : Ctx) : Prop :=
  c.is.lanes.Nodup ∧ c.is.eff = c.g.effective c.is.lanes ∧
  ∀ l ∈ c.is.lanes, l < 64 ∧ (c.fibre? l).elim false (fun f => f.pc == c.is.pc && f.parked.isNone) = true

/-- The same outside every predicate block, where the instruction takes effect in every lane (R248): the course of
an instruction that may not stand in a block. -/
def State.RunsOutside (s : State) (c : Ctx) : Prop :=
  s.RunsIn c ∧ c.Proper ∧ c.covered = false ∧ c.is.eff = c.is.lanes

/-- A Stoker executes an instruction, in a context. -/
def State.Streams (s : State) (c : SCtx) : Prop := s.sctx? = some c

/-- A fibre of a group in a state. -/
def State.fibre? (s : State) (gid l : Nat) : Option Fibre := (s.groups.find? gid).bind fun g => g.fibres.find? l

/-- A byte of memory at its home. -/
def State.byteAt (s : State) (pa : Nat) : Byte := s.mem.read pa

/-! ## A step -/

/-- The state in which an instruction of a batch is executed: its issue has been counted on the slot, and the slot's
chain has gone on (R22 to R24, R42, R212). -/
def State.issuing (s : State) (r : Runner) (slot : Nat) (i : Instr) (w : Dword) : State :=
  let u := s.account r.b slot (some i)
  let u := u.modCore r.b.g.core fun k => k.setSlot slot ((k.slot slot).step i r.b.f.pc r.b.f.strand)
  { u with issue := some (r.b.issue slot w) }

/-- The same for the instruction of a stream, which takes some ports. -/
def State.streaming (s : State) (core : Nat) (st : Stream) (team : Nat) (w : Dword) (ports : List Nat) : State :=
  let now := (s.cluster (clusterOf core)).cycles.toNat
  let u := s.modCore core fun k =>
    { k with issued := k.issued ++ [(2, [], [], ports)], stream := some { st with age := now + 1 } }
  let u := ({ u with seq := u.seq + 1 } : State).live team
  { u with issue := some { party := .stoker core, lanes := [0], eff := [0], slot := 2, pc := st.pc, word := w } }

/-- The bytes at a program counter, where the code capability and the page admit the fetch (R102, R218), are those of
a word. -/
def State.Fetches (s : State) (core : Nat) (gr : Grid) (walks : List WalkResult) (pc : Addr) (w : Dword) : Prop :=
  gr.kernel.code.base ≤ pc.toNat ∧ pc.toNat + 8 ≤ gr.kernel.code.limit ∧
  ∃ pa, s.translate core gr.part walks pc.toNat { x := true } (fetchFault pc 0x0B 0) = .ok pa ∧
    wordOfBytes (s.homeBytes pa 8) = w

/-! ## What stays -/

/-- Two states differ at most in what memory, caches, scratchpads, queue homes, scope records, error records and
messages hold; memory stays in its canonical form. -/
structure State.Calm (s t : State) : Prop where
  inputs   : t.inputs = s.inputs
  schedule : t.schedule = s.schedule
  issue    : t.issue = s.issue
  seq      : t.seq = s.seq
  nextId   : t.nextId = s.nextId
  nominal  : t.nominal = s.nominal
  clock    : t.clock = s.clock
  fuses    : t.fuses = s.fuses
  held     : t.held = s.held
  deviceRung : t.deviceRung = s.deviceRung
  update   : t.update = s.update
  firmware : t.firmware = s.firmware
  rollback : t.rollback = s.rollback
  rails    : t.rails = s.rails
  folio    : t.folio = s.folio
  folioPoison : t.folioPoison = s.folioPoison
  clusters : t.clusters = s.clusters
  dies     : t.dies = s.dies
  ports    : t.ports = s.ports
  grids    : t.grids = s.grids
  teams    : t.teams = s.teams
  groups   : t.groups = s.groups
  stream   : ∀ k, (t.core k).stream = (s.core k).stream
  slots    : ∀ k, (t.core k).slots = (s.core k).slots
  map      : ∀ k, { t.part k with hpdrop := (s.part k).hpdrop } = s.part k
  wf       : s.mem.wf = true → t.mem.wf = true

/-- The batch of the context has gone on to the next instruction, and no other fibre of its group has moved. -/
def Ctx.Moved (c : Ctx) (t : State) : Prop :=
  ∀ l, t.fibre? c.gid l =
    if l ∈ c.is.lanes then (c.fibre? l).map fun f => f.advance c.is.pc false else c.fibre? l

/-- Nothing of other groups, and no team or grid, has changed. -/
def Ctx.Alone (c : Ctx) (t : State) : Prop :=
  (∀ j, j ≠ c.gid → t.groups.find? j = c.s.groups.find? j) ∧ t.teams = c.s.teams ∧ t.grids = c.s.grids

/-- Bytes, tags and poison of memory and of the Folio, the scratchpads but for the accesses that wait at their banks, and
the L1 caches are the same. -/
def State.SameMemory (s t : State) : Prop :=
  t.mem = s.mem ∧ t.memTags = s.memTags ∧ t.poison = s.poison ∧ t.folio = s.folio ∧
  t.folioPoison = s.folioPoison ∧ (∀ k, { (t.core k).pad with reqs := (s.core k).pad.reqs } = (s.core k).pad) ∧
  (∀ k, (t.core k).l1 = (s.core k).l1)

/-- An instruction has changed the fibres of its batch, and no other fibre, group, team, grid or byte. -/
def Ctx.Leaves (c : Ctx) (t : State) (f' : Nat → Fibre → Fibre) : Prop :=
  (∀ l f, l ∈ c.is.lanes → c.fibre? l = some f → t.fibre? c.gid l = some (f' l f)) ∧
  (∀ l, l ∉ c.is.lanes → t.fibre? c.gid l = c.fibre? l) ∧ c.Alone t ∧ c.s.SameMemory t

/-! ## Operands -/

/-- What a source reads as in a lane, low register first (R13, R15, R20, R60); `imm` is what IMM reads as. -/
def Ctx.operand (c : Ctx) (l : Nat) (o : Opnd) (n : Nat) (imm : Dword) : Src :=
  match o with
  | .v _ | .n _ =>
    { elems := (List.range n).map fun j => c.g.elem ((c.reg l o).succ j) l
      tags := (List.range n).map fun j => c.g.tag ((c.reg l o).succ j) l, kind := .stored }
  | .u i => { elems := (List.range n).map fun j => c.g.elem (.k (i + j)) l, tags := [], kind := .uniform }
  | .b i =>
    let ls := (List.range n).map fun j => ((c.s.core c.g.core).slot c.is.slot).latch.getD (i + j) Latch.empty
    { elems := ls.map fun x => x.elems.get Elem.zero (c.g.position l)
      tags := ls.map fun x => x.tags.get Tag.start (c.g.position l / 8), kind := .stored }
  | .imm =>
    { elems := (List.range n).map fun j => { bits := (imm >>> (32 * j)).setWidth 32, poison := false }
      tags := [], kind := .immediate }
  | .zero => { elems := List.replicate n Elem.zero, tags := [], kind := .zero }
  | o =>
    { elems := { bits := BitVec.ofNat 32 (c.special l o), poison := false } :: List.replicate (n - 1) Elem.zero
      tags := [], kind := .special }

/-- A read finds a value: a near register is valid in the lane (R25), a latch belongs to the batch and has been
written (R23). -/
def Ctx.readable (c : Ctx) (l : Nat) (o : Opnd) (n : Nat) : Bool :=
  match o with
  | .n i => (List.range n).all fun j => c.g.nearValid.contains ((i + j) * 64 + l)
  | .b i =>
    let x := (c.s.core c.g.core).slot c.is.slot
    x.owner == some (c.gid, c.is.lanes) && i + n ≤ x.latch.length
  | _ => true

/-- A source of a vector instruction can be taken in a lane: it is within its bounds, an immediate stands in an
immediate form and its type admits it (R57), the read finds a value, and type and scale are accepted (R60,
R61). -/
def Ctx.sourceReady (c : Ctx) (imm : Option (BitVec 16)) (l : Nat) (q : SrcReq) : Bool :=
  let x := c.operand l q.o q.ty.regs (expandImm q.ty (imm.getD 0))
  c.inBounds l q.o q.ty.regs && (q.o != .imm || (imm.isSome && immOk q.ty (imm.getD 0))) &&
  c.readable l q.o q.ty.regs && x.accepted q.ty q.loose &&
  (!q.scaled || x.tags.all fun t => t.scale == 127 || t.scale == 255)

/-- A run of registers is no survivor of the lane's strand (R29). -/
def Ctx.mayWrite (c : Ctx) (l : Nat) (o : Opnd) (n : Nat) : Bool :=
  (c.fibre? l).elim true fun f => !f.surviving o n

/-- A predicate is no survivor of the lane's strand (R29). -/
def Ctx.mayWritePred (c : Ctx) (l : Nat) (i : BitVec 4) : Bool :=
  (c.fibre? l).elim true fun f => !f.predSurvives i

/-- A destination of classes 3 to 5 can be written in a lane (R238, R29). -/
def Ctx.dstReady (c : Ctx) (l : Nat) (dst : Opnd) (n : Nat) : Bool :=
  dst.isDst && c.inBounds l dst n && c.mayWrite l dst n

/-- A register destination of some kinds can be written in a lane. -/
def Ctx.regReady (c : Ctx) (l : Nat) (o : Opnd) (n : Nat) : Bool :=
  o.isReg && c.inBounds l o n && c.mayWrite l o n

/-- The sources and the destination of a vector instruction are ready in every lane of its effect. -/
def Ctx.vecReady (c : Ctx) (dst : Opnd) (dn : Nat) (imm : Option (BitVec 16)) (qs : List SrcReq) : Bool :=
  c.is.eff.all fun l => c.dstReady l dst dn && qs.all fun q => c.sourceReady imm l q

/-- The values of the sources in a lane. -/
def Ctx.values (c : Ctx) (imm : Option (BitVec 16)) (qs : List SrcReq) (l : Nat) : List Src :=
  qs.map fun q => c.operand l q.o q.ty.regs (expandImm q.ty (imm.getD 0))

/-- The results of a vector instruction stand in its destination and in the latches, and the batch has gone
on. -/
def Ctx.vecDone (c : Ctx) (dst : Opnd) (r : Nat → VRes) : State :=
  c.writeVec dst (c.is.eff.map fun l => (l, r l)) (c.advance false c.is.lanes)

/-- The results stand in a register destination and reach no latch, and the batch has gone on. -/
def Ctx.regDone (c : Ctx) (dst : Opnd) (r : Nat → VRes) : State :=
  c.writeOnly dst (c.is.eff.map fun l => (l, r l)) (c.advance false c.is.lanes)

/-- No lane's result is found to diverge from its shadow (R310). -/
def Ctx.unshadowed (c : Ctx) : Bool :=
  c.is.eff.all fun l => !c.s.upsets.shadow.any fun u => u.unit == c.s.seq && u.lane == l

/-- A source of a class 1 instruction can be taken in group code (R281); IMM where the form has it. -/
def Ctx.uniSourceReady (c : Ctx) (l : Nat) (ty : Ty) (imm : Bool) (o : Opnd) : Bool :=
  uniSource o && c.inBounds l o ty.regs && (o != .imm || imm)

/-- A k destination can be written. -/
def Ctx.uniDstReady (c : Ctx) (l : Nat) (ty : Ty) (dst : Opnd) : Bool :=
  dst.isUniform && dst != .zero && c.inBounds l dst ty.regs && c.mayWrite l dst ty.regs

/-- Sources of a class 1 instruction in Stoker code (R84, R281): s0 to s31, ZERO, and IMM where the form has
it. -/
def sReady (srcs : List Opnd) (imm : Bool) : Bool :=
  srcs.all fun o => match o with
    | .u i => i < 32
    | .zero => true
    | .imm => imm
    | _ => false

/-- A destination in Stoker code. -/
def sDst (o : Opnd) : Bool :=
  match o with
  | .u i => i < 32
  | _ => false

/-- What a source reads as in Stoker code: value and poison (R84, R281). -/
def SCtx.operand (c : SCtx) (o : Opnd) (ty : Ty) (imm : Dword) : Dword × Bool :=
  let cut := fun (x : Dword) => if ty.regs = 2 then x else (x.setWidth 32).setWidth 64
  match o with
  | .u i => let r := c.st.s.get SReg.zero i
    (cut r.bits, r.plo || (ty.regs == 2 && r.phi))
  | .imm => (cut imm, false)
  | _ => (0, false)

/-! ## Vector instructions -/

/-- The number that a source holds. -/
def numAt (xs : List Src) (j : Nat) : Nat := ((xs[j]?).map fun x => x.value.toNat).getD 0

/-- Element `i` of source `j` under a type, and its integer and float values (R55, R294). -/
def elemAt (ty : Ty) (xs : List Src) (j i : Nat) : Nat :=
  (elems ty (((xs[j]?).map Src.value).getD 0)).getD i 0

def intAt (ty : Ty) (xs : List Src) (j i : Nat) : Int := intOf ty (elemAt ty xs j i)

def fltAt (ty : Ty) (xs : List Src) (neg : Bool) (j i : Nat) : ExactNum :=
  if neg then (floatOf ty (elemAt ty xs j i)).neg else floatOf ty (elemAt ty xs j i)

/-- The result of an operation on integer elements: one value for each element position, poisoned where a source
is, under the NaN scale where a source is (R61, R116, R294). -/
def intRes (ty : Ty) (xs : List Src) (f : Nat → Nat) : VRes :=
  VRes.of ty (packElems ty ((List.range ty.count).map f)) (xs.any Src.poison) (intTag ty xs)

/-- A whole number as the result of an integer instruction. -/
def wholeRes (ty : Ty) (xs : List Src) (n : Nat) : VRes :=
  VRes.of ty (BitVec.ofNat 64 n) (xs.any Src.poison) (intTag ty xs)

/-- The result of an operation on float elements: canonical NaN where a source is under the NaN scale (R61). -/
def fltRes (ty : Ty) (xs : List Src) (f : Nat → Nat) : VRes :=
  VRes.of ty (packElems ty ((List.range ty.count).map fun i => if xs.any Src.nanScale then canonNan ty else f i))
    (xs.any Src.poison) (Tag.of ty)

/-- A vector instruction with the form of its operands and its result. -/
structure VForm where
  i   : Instr
  dst : Opnd
  dn  : Nat
  imm : Option (BitVec 16)
  qs  : List SrcReq
  res : List Src → VRes

/-- The instruction completes with its result wherever its operands are ready. -/
def Ctx.Performs (c : Ctx) (s : State) (v : VForm) : Prop :=
  c.vecReady v.dst v.dn v.imm v.qs = true →
    exec v.i s = .next (c.vecDone v.dst fun l => v.res (c.values v.imm v.qs l))

/-- What class 3 and class 4 ask of their sources. -/
def i1 (o : Opnd) (ty : Ty) : SrcReq := intSrc o ty fS1
def i2 (o : Opnd) (ty : Ty) : SrcReq := intSrc o ty fS2
def i3 (o : Opnd) (ty : Ty) : SrcReq := intSrc o ty fS3
def iImm (ty : Ty) : SrcReq := intSrc .imm ty fImm
def f1 (o : Opnd) (ty : Ty) : SrcReq := fltSrc o ty fS1
def f2 (o : Opnd) (ty : Ty) : SrcReq := fltSrc o ty fS2
def f3 (o : Opnd) (ty : Ty) : SrcReq := fltSrc o ty fS3
def fltImm (ty : Ty) : SrcReq := fltSrc .imm ty fImm

/-- Forms of a vector instruction with sources and with an immediate. -/
def vForm (a : VArgs) (i : Instr) (dn : Nat) (qs : List SrcReq) (res : List Src → VRes) : VForm :=
  { i, dst := a.dst, dn, imm := none, qs, res }

def viForm (a : VIArgs) (i : Instr) (dn : Nat) (qs : List SrcReq) (res : List Src → VRes) : VForm :=
  { i, dst := a.dst, dn, imm := some a.imm, qs, res }

/-- Forms of class 3: two sources, a source and an immediate, one source. -/
def vTwo (a : VArgs) (i : Instr) (f : Nat → Nat → Nat) : VForm :=
  vForm a i a.ty.regs [i1 a.s1 a.ty, i2 a.s2 a.ty]
    fun xs => intRes a.ty xs fun k => f (elemAt a.ty xs 0 k) (elemAt a.ty xs 1 k)

def viTwo (a : VIArgs) (i : Instr) (f : Nat → Nat → Nat) : VForm :=
  viForm a i a.ty.regs [i1 a.s1 a.ty, iImm a.ty]
    fun xs => intRes a.ty xs fun k => f (elemAt a.ty xs 0 k) (elemAt a.ty xs 1 k)

def vOne (a : VArgs) (i : Instr) (f : Nat → Nat) : VForm :=
  vForm a i a.ty.regs [i1 a.s1 a.ty] fun xs => intRes a.ty xs fun k => f (elemAt a.ty xs 0 k)

/-! ## Values and rounding (R50 to R54) -/

/-- Formats of class 4 and of conversions. -/
def floatTys : List Ty := [.f32, .f16, .bf16, .e4m3, .e5m2]

/-- A finite value over 2^k, for a `k` that is not above its exponent: a whole number. -/
def ExactNum.over (k : Int) : ExactNum → Int
  | .fin m e => m * 2 ^ (e - k).toNat
  | _ => 0

/-- A code of a float format that stands for a finite value, zeros among them. -/
def finiteCode (t : Ty) (z : Nat) : Prop :=
  z < 2 ^ elemBits t ∧ match floatOf t z with
    | .nan | .inf _ => False
    | .zero _ | .fin _ _ => True

/-- Among the finite values of a format, `y` is the one that a mode chooses for the value `v` over 2^k (R53). -/
def Chosen (t : Ty) (mode : Rnd) (k v : Int) (y : Nat) : Prop :=
  let val := fun z => (floatOf t z).over k
  finiteCode t y ∧
  match mode with
  | .rne => ∀ z, finiteCode t z → (v - val y).natAbs ≤ (v - val z).natAbs ∧
      ((v - val y).natAbs = (v - val z).natAbs → val y = val z ∨ y % 2 = 0)
  | .rz => (val y).natAbs ≤ v.natAbs ∧ 0 ≤ val y * v ∧
      ∀ z, finiteCode t z → (val z).natAbs ≤ v.natAbs → 0 ≤ val z * v → (val z).natAbs ≤ (val y).natAbs
  | .ru => v ≤ val y ∧ ∀ z, finiteCode t z → v ≤ val z → val y ≤ val z
  | .rd => val y ≤ v ∧ ∀ z, finiteCode t z → val z ≤ v → val z ≤ val y

/-- The value `v` over 2^k overflows the format under a mode (R54): to nearest, from the midpoint above the largest
finite value on, that midpoint itself only where the largest finite code is odd. -/
def Overflows (t : Ty) (mode : Rnd) (k v : Int) : Prop :=
  let top := (floatOf t (maxFinite t)).over k
  let twice := 3 * top - (floatOf t (maxFinite t - 1)).over k
  match mode with
  | .rne => twice < 2 * v.natAbs ∨ (twice = 2 * v.natAbs ∧ maxFinite t % 2 = 1)
  | .rz => False
  | .ru => top < v
  | .rd => v < -top

/-- The whole number `q` is m / d rounded by a mode (R53). -/
def RoundsTo (mode : Rnd) (m d q : Int) : Prop :=
  match mode with
  | .rne => 2 * (m - q * d).natAbs ≤ d ∧ (2 * (m - q * d).natAbs = d → q % 2 = 0)
  | .rz => if 0 ≤ m then q * d ≤ m ∧ m < (q + 1) * d else (q - 1) * d < m ∧ m ≤ q * d
  | .ru => (q - 1) * d < m ∧ m ≤ q * d
  | .rd => q * d ≤ m ∧ m < (q + 1) * d

/-! ## Operands of conversions and of lane movements -/

/-- A scale operand can be taken in a lane (R311). -/
def Ctx.scaleReady (c : Ctx) (l : Nat) (o : Opnd) : Bool := o.isUniform && c.inBounds l o 1

/-- A scale operand: its value, 127 where it is ZERO, and its poison (R311). -/
def Ctx.scaleValue (c : Ctx) (l : Nat) (o : Opnd) : Byte × Bool :=
  match o with
  | .u _ => ((c.operand l o 1 0).low.bits.setWidth 8, (c.operand l o 1 0).poison)
  | _ => (127, false)

/-- The operands of a lane movement can be taken in a lane (R316): destination, moved source, lane operand. -/
def Ctx.moveReady (c : Ctx) (l : Nat) (a : VArgs) : Bool :=
  c.dstReady l a.dst a.ty.regs && c.inBounds l a.s1 a.ty.regs && a.s1 != .imm && a.s2 != .imm &&
  c.sourceReady none l { o := a.s2, ty := .n32, field := fS2, loose := true }

/-- The value of the lane operand of a lane movement. -/
def Ctx.laneOperand (c : Ctx) (l : Nat) (a : VArgs) : Src := c.operand l a.s2 1 0

/-- What a lane movement brings: the moved source's elements, poisoned where the lane operand is, and its tags. -/
def moved (ty : Ty) (x b : Src) : VRes :=
  { elems := x.elems.map fun e => { e with poison := e.poison || b.poison }, tag := x.tagAs ty, hiTag := x.hiTag }

/-- The registers of a destination in a lane. -/
def Ctx.regsAt (c : Ctx) (l : Nat) (o : Opnd) (n : Nat) : List Reg := (List.range n).map (c.reg l o).succ

/-- `tagset` can be performed in a lane: a v or n destination that is no survivor, whose near registers are valid once
loads in flight to them have landed, and a scale operand (R25, R29, R72, R311, R315). -/
def Ctx.retagReady (c : Ctx) (l : Nat) (a : VArgs) : Bool :=
  a.dst.isReg && !a.dst.isUniform && c.inBounds l a.dst a.ty.regs && c.mayWrite l a.dst a.ty.regs &&
  c.scaleReady l a.s1 &&
  (c.regsAt l a.dst a.ty.regs).all fun r => (c.g.landRegs (c.regsAt l a.dst a.ty.regs)).nearOk r l

/-! ## Results of classes 3 to 5 -/

/-- A source of which only the format is judged, untyped data admitted. -/
def looseSrc (o : Opnd) (ty : Ty) (field : Nat) : SrcReq := { o, ty, field, loose := true }

/-- `mad` (R295). -/
def madRes (ty : Ty) (sat : Bool) (xs : List Src) : VRes :=
  intRes ty xs fun k => vMad ty sat (elemAt ty xs 0 k) (elemAt ty xs 1 k) (elemAt ty xs 2 k)

/-- `bfe` and `bfi` (R296). -/
def bfeRes (ty : Ty) (xs : List Src) : VRes := wholeRes ty xs (bitField ty (numAt xs 0) (numAt xs 1))
def bfiRes (ty : Ty) (xs : List Src) : VRes := wholeRes ty xs (bitInsert ty (numAt xs 0) (numAt xs 1) (numAt xs 2))

/-- `addc` (R299): the sum, and the carry in the odd register. -/
def addcRes (xs : List Src) : VRes :=
  let n := numAt xs 0 + numAt xs 1 + numAt xs 2 % 2
  { elems := [{ bits := BitVec.ofNat 32 n, poison := xs.any Src.poison },
              { bits := BitVec.ofNat 32 (n / 2 ^ 32), poison := xs.any Src.poison }]
    tag := intTag .n32 xs }

/-- `dot4` (R300). -/
def dotRes (ty : Ty) (sat : Bool) (xs : List Src) : VRes :=
  VRes.one (intResult (dotType ty) sat (intOf (dotType ty) (numAt xs 2 % 2 ^ 32) +
      intAt ty xs 0 0 * intAt ty xs 1 0 + intAt ty xs 0 1 * intAt ty xs 1 1 +
      intAt ty xs 0 2 * intAt ty xs 1 2 + intAt ty xs 0 3 * intAt ty xs 1 3))
    (xs.any Src.poison) (intTag (dotType ty) xs)

/-- `cmul` and `cmac` (R301): the product of two complex numbers, the second conjugated where asked, each part
shifted right with rounding, and for `cmac` the third source added. -/
def complexRes (sat conj : Bool) (h : Nat) (xs : List Src) : VRes :=
  let ar := intAt .s16 xs 0 0
  let ai := intAt .s16 xs 0 1
  let br := intAt .s16 xs 1 0
  let bi := if conj then -intAt .s16 xs 1 1 else intAt .s16 xs 1 1
  let part := fun (v : Int) => if h = 0 then v else (v + 2 ^ (h - 1)) / 2 ^ h
  intRes .s16 xs fun k => intResult .s16 sat
    (if k = 0 then part (ar * br - ai * bi) + intAt .s16 xs 2 0
     else part (ar * bi + ai * br) + intAt .s16 xs 2 1)

/-- The tag of the upper register of a pair, where it has one of its own. -/
def Src.upperTag (x : Src) (ty : Ty) : Tag := x.hiTag.getD (x.tagAs ty)

/-- `mov`: the source's elements under their tags (R295). -/
def copyRes (ty : Ty) (xs : List Src) : VRes :=
  { elems := ((xs[0]?).map Src.elems).getD [], tag := ((xs[0]?).map fun x => x.tagAs ty).getD Tag.start
    hiTag := (xs[0]?).bind Src.hiTag }

/-- The scales of two sources agree, register by register (R298). -/
def sameScale (ty : Ty) (xs : List Src) : Prop :=
  ∀ x ∈ xs, ∀ y ∈ xs, (x.tagAs ty).scale = (y.tagAs ty).scale ∧ (x.upperTag ty).scale = (y.upperTag ty).scale

/-- The tag of a selected register: the common format, or the type (R298). -/
def selectedTag (ty : Ty) (t u : Tag) : Tag :=
  { fmt := if t.fmt = u.fmt then t.fmt else ty, valid := true, scale := t.scale }

/-- `sel`: the first source where the predicate holds, else the second. -/
def selRes (ty : Ty) (p : Bool) (xs : List Src) : VRes :=
  let tag := fun (j : Nat) => ((xs[j]?).map fun x => x.tagAs ty).getD Tag.start
  let upper := fun (j : Nat) => ((xs[j]?).map fun x => x.upperTag ty).getD Tag.start
  { elems := ((xs[if p then 0 else 1]?).map Src.elems).getD []
    tag := selectedTag ty (tag 0) (tag 1)
    hiTag := if xs.all fun x => x.hiTag.isNone then none else some (selectedTag ty (upper 0) (upper 1)) }

/-- A compare of integers and of floats (R255, R297, R303). -/
def intHolds (ty : Ty) (cc : CmpCode) (xs : List Src) : Bool :=
  compareInt cc (intOf ty (numAt xs 0)) (intOf ty (numAt xs 1))

def fltHolds (cc : CmpCode) (neg1 neg2 : Bool) (xs : List Src) : Bool :=
  if xs.any Src.nanScale then compareNum cc .nan .nan
  else compareNum cc (fltAt .f32 xs neg1 0 0) (fltAt .f32 xs neg2 1 0)

/-- Float results of two sources, of a fused product and sum, of one source. -/
def flt2Res (a : VArgs) (f : ExactNum → ExactNum → ExactNum) (xs : List Src) : VRes :=
  fltRes a.ty xs fun i => roundFloat a.ty a.rnd a.sat (f (fltAt a.ty xs a.neg1 0 i) (fltAt a.ty xs a.neg2 1 i))

def flt2ImmRes (a : VIArgs) (f : ExactNum → ExactNum → ExactNum) (xs : List Src) : VRes :=
  fltRes a.ty xs fun i => roundFloat a.ty a.rnd a.sat (f (fltAt a.ty xs false 0 i) (fltAt a.ty xs false 1 i))

def fmaRes (ty : Ty) (rnd : Rnd) (sat n1 n2 : Bool) (xs : List Src) : VRes :=
  fltRes ty xs fun i => roundFloat ty rnd sat
    (ExactNum.add (rnd == .rd) (ExactNum.mul (fltAt ty xs n1 0 i) (fltAt ty xs n2 1 i)) (fltAt ty xs false 2 i))

def fnRes (a : VArgs) (f : Nat → Nat) (xs : List Src) : VRes := fltRes a.ty xs fun i => f (elemAt a.ty xs 0 i)

/-- `fscale` (R307). -/
def scaleRes (ty : Ty) (rnd : Rnd) (sat : Bool) (xs : List Src) : VRes :=
  fltRes ty xs fun i => roundFloat ty rnd sat
    (ExactNum.scale (max (-1024) (min 1024 (intAt (scaleType ty) xs 1 i))) (fltAt ty xs false 0 i))

/-- `fdot2` (R308): c + a0 × b0 + a1 × b1, rounded once into f32. -/
def fdot2Res (ty : Ty) (rnd : Rnd) (sat n1 n2 : Bool) (xs : List Src) : VRes :=
  let term := fun i => ExactNum.mul (fltAt ty xs n1 0 i) (fltAt ty xs n2 1 i)
  fltRes .f32 xs fun _ => roundFloat .f32 rnd sat
    (ExactNum.add (rnd == .rd) (ExactNum.add (rnd == .rd) (fltAt .f32 xs false 2 0) (term 0)) (term 1))

/-- `fcmul` (R309). -/
def fcmulRes (a : VArgs) (xs : List Src) : VRes :=
  let ar := fltAt a.ty xs false 0 0
  let ai := fltAt a.ty xs false 0 1
  let br := fltAt a.ty xs false 1 0
  let bi := fltAt a.ty xs a.neg2 1 1
  fltRes a.ty xs fun i => roundFloat a.ty a.rnd a.sat
    (if i = 0 then ExactNum.add (a.rnd == .rd) (ExactNum.mul ar br) (ExactNum.mul ai bi).neg
     else ExactNum.add (a.rnd == .rd) (ExactNum.mul ar bi) (ExactNum.mul ai br))

/-- `fclass` (R306). -/
def classRes (ty : Ty) (xs : List Src) : VRes :=
  let t := maskType ty
  VRes.of t (packElems t ((List.range ty.count).map fun i =>
    if xs.any Src.nanScale then 2 ^ 8 else classMask ty (elemAt ty xs 0 i))) (xs.any Src.poison) (Tag.of t)

/-- `cvt` (R312): every element of the source, converted under the source's scale and the scale operand. -/
def cvtRes (st dt : Ty) (rnd : Rnd) (sat : Bool) (sd : Byte × Bool) (xs : List Src) : VRes :=
  VRes.of dt (packElems dt ((List.range (min st.count dt.count)).map fun i =>
      convertElem st dt rnd sat (((xs[0]?).map Src.scale).getD 127) sd.1 (elemAt st xs 0 i)))
    (xs.any Src.poison || sd.2) (Tag.scaled dt sd.1)

/-- Registers that `unpk` writes (R314). -/
def unpkRegs (st dt : Ty) : Nat := (st.count + dt.count - 1) / dt.count

/-- `unpk` (R314): the elements in order, as many in each register as it holds. -/
def unpkRes (st dt : Ty) (rnd : Rnd) (sat : Bool) (sd : Byte × Bool) (xs : List Src) : VRes :=
  { elems := (List.range (unpkRegs st dt)).map fun j =>
      { bits := (packElems dt ((List.range (min dt.count (st.count - j * dt.count))).map fun i =>
          convertElem st dt rnd sat (((xs[0]?).map Src.scale).getD 127) sd.1
            (elemAt st xs 0 (j * dt.count + i)))).setWidth 32
        poison := xs.any Src.poison || sd.2 }
    tag := Tag.scaled dt sd.1 }

/-- `cvtpk` (R313): the first elements of two sources in positions 0 and 1; an 8-bit or 6-bit type takes its other
positions from the third source, moved up by two. -/
def cvtpkRes (st dt : Ty) (rnd : Rnd) (sat : Bool) (xs : List Src) : VRes :=
  let one := fun (j : Nat) =>
    convertElem st dt rnd sat (((xs[j]?).map Src.scale).getD 127) 127 (elemAt st xs j 0)
  VRes.of dt (packElems dt ((List.range dt.count).map fun i =>
    if i < 2 then one i else elemAt dt xs 2 (i - 2))) (xs.any Src.poison) (Tag.of dt)

/-- The lane operand of `bcast`: the same in every lane (R316). -/
def batchOperand : Opnd → Bool
  | .u _ | .zero | .width | .core | .groupix => true
  | _ => false

/-- `vred` and `vscan` (R317): one value for each element position, over the sources of some lanes. -/
def reduceRes (a : VArgs) (nan : Bool) (xs : List Src) : VRes :=
  let col := fun (i : Nat) => xs.map fun x => (elems a.ty x.value).getD i 0
  VRes.of a.ty (packElems a.ty ((List.range a.ty.count).map fun i =>
      if !a.ty.isFlt then reduceInt a.ty a.sat (a.func.toNat % 8) (col i)
      else if nan then canonNan a.ty
      else reduceFlt a.ty a.rnd (a.func.toNat % 8) (col i)))
    (xs.any Src.poison) { Tag.of a.ty with scale := if nan && !a.ty.isFlt then 255 else 127 }

/-! ## Uniform instructions (R281, R282) -/

/-- A class 1 instruction that computes one number: its operands and the number. -/
structure UForm where
  i    : Instr
  ty   : Ty
  dst  : Opnd
  imm  : Option (BitVec 16)
  srcs : List Opnd
  f    : List Nat → Nat

/-- Forms of two sources, of a source and an immediate, of one source. -/
def uTwo (a : VArgs) (i : Instr) (f : Nat → Nat → Nat) : UForm :=
  { i, ty := a.ty, dst := a.dst, imm := none, srcs := [a.s1, a.s2], f := fun v => f (v.getD 0 0) (v.getD 1 0) }

def uImm (a : VIArgs) (i : Instr) (f : Nat → Nat → Nat) : UForm :=
  { i, ty := a.ty, dst := a.dst, imm := some a.imm, srcs := [a.s1, .imm]
    f := fun v => f (v.getD 0 0) (v.getD 1 0) }

def uOne (a : VArgs) (i : Instr) (f : Nat → Nat) : UForm :=
  { i, ty := a.ty, dst := a.dst, imm := none, srcs := [a.s1], f := fun v => f (v.getD 0 0) }

/-- What a source of a class 1 instruction reads as in a lane. -/
def Ctx.uniValue (c : Ctx) (l : Nat) (ty : Ty) (imm : Option (BitVec 16)) (o : Opnd) : Src :=
  c.operand l o ty.regs (imm.elim 0 (expandImm ty))

/-- In group code the instruction writes its result for the group, with the poison of its sources. -/
def Ctx.PerformsUni (c : Ctx) (s : State) (u : UForm) : Prop :=
  (∀ l ∈ c.is.eff, c.uniDstReady l u.ty u.dst = true ∧
    u.srcs.all (c.uniSourceReady l u.ty u.imm.isSome) = true) →
  exec u.i s = .next (c.regDone u.dst fun l =>
    let xs := u.srcs.map (c.uniValue l u.ty u.imm)
    VRes.of u.ty (BitVec.ofNat 64 (u.f (xs.map fun x => x.value.toNat))) (xs.any Src.poison) (Tag.of u.ty))

/-- In Stoker code it writes a scalar register of the stream. -/
def SCtx.PerformsUni (c : SCtx) (s : State) (u : UForm) : Prop :=
  sDst u.dst = true → sReady u.srcs u.imm.isSome = true →
  let xs := u.srcs.map fun o => c.operand o u.ty (u.imm.elim 0 (expandImm u.ty))
  exec u.i s = .next (c.writeUni u.ty u.dst
    (BitVec.ofNat 64 (u.f (xs.map fun x => x.1.toNat)), xs.any (·.2)) c.advance)

/-- All the class 1 instructions that compute one number. -/
def uniForms (a : VArgs) (b : VIArgs) : List UForm :=
  [uOne a (.kmov a) id, uOne a (.kpopc a) (popCount (elemBits a.ty)),
   uOne a (.kclz a) (leadingZeros (elemBits a.ty)),
   uTwo a (.kadd a) (vAdd a.ty a.sat), uTwo a (.ksub a) (vSub a.ty a.sat),
   uTwo a (.kmul a) (vMul a.ty a.sat), uTwo a (.kmulh a) (vMulh a.ty), uTwo a (.kand a) Nat.land,
   uTwo a (.kor a) Nat.lor, uTwo a (.kxor a) Nat.xor, uTwo a (.kshl a) (vShl a.ty),
   uTwo a (.kshr a) (vShr a.ty), uTwo a (.ksar a) (vSar a.ty), uTwo a (.kmin a) (vMin a.ty),
   uTwo a (.kmax a) (vMax a.ty), uTwo a (.kbfe a) (bitField a.ty),
   uImm b (.kaddImm b) (vAdd b.ty b.sat), uImm b (.ksubImm b) (vSub b.ty b.sat),
   uImm b (.kmulImm b) (vMul b.ty b.sat), uImm b (.kmulhImm b) (vMulh b.ty), uImm b (.kandImm b) Nat.land,
   uImm b (.korImm b) Nat.lor, uImm b (.kxorImm b) Nat.xor, uImm b (.kshlImm b) (vShl b.ty),
   uImm b (.kshrImm b) (vShr b.ty), uImm b (.ksarImm b) (vSar b.ty), uImm b (.kminImm b) (vMin b.ty),
   uImm b (.kmaxImm b) (vMax b.ty), uImm b (.kbfeImm b) (bitField b.ty)]

/-! ## Targets and addresses (R263, R266) -/

/-- A target is aligned and lies within the code. -/
def targetOk (gr : Grid) (t : Int) : Bool := t % 8 == 0 && inCode gr t

/-- An address operand can be taken in a lane: an even register of a 64-bit type, not poisoned. -/
def Ctx.addressReady (c : Ctx) (l : Nat) (o : Opnd) : Bool :=
  o.isReg && c.inBounds l o 2 && c.readable l o 2 &&
  ((c.operand l o 2 0).tags.all fun t => t.valid && (t.fmt == .b64 || t.fmt == .n64 || t.fmt == .s64)) &&
  !(c.operand l o 2 0).poison

/-- The address. -/
def Ctx.address (c : Ctx) (l : Nat) (o : Opnd) : Nat := (c.operand l o 2 0).value.toNat

/-- The register window of a lane's fibre. -/
def Ctx.window (c : Ctx) (l : Nat) : Nat := (c.fibre? l).elim 0 fun f => f.wbase.toNat

/-- The lowest lane of the group without a fibre that has not issued in this cycle (R14, R280). -/
def Ctx.idleLane (c : Ctx) : Option Nat :=
  (List.range c.g.width).find? fun l => (c.fibre? l).isNone && !c.s.issuedNow c.g.core c.gid l

/-- An index operand in a lane can be taken (R99, R238). -/
def Ctx.indexReady (c : Ctx) (l : Nat) (o : Opnd) : Bool :=
  (match o with | .b _ | .imm | .res _ => false | _ => true) && c.inBounds l o 1 && c.readable l o 1 &&
  (c.operand l o 1 0).tags.all fun t => t.valid && (t.fmt == .s32 || t.fmt == .n32 || t.fmt == .b32)

/-- The access of a lane through a memory operand. -/
def Ctx.accessOf (c : Ctx) (cap : BitVec 4) (index : Opnd) (shift : BitVec 3) (imm : BitVec 16) (size : Nat)
    (perm : Cap → Bool) (need : Need) (l : Nat) : Access :=
  c.laneAccess cap (c.operand l index 1 0) shift imm size perm need

/-- Checks 1 to 5 of R100 pass: the capability is tagged and permits the access, the index is not poisoned, and
the address lies within the region, within the team's allocation in space 2, and is aligned. -/
def Access.permitted (a : Access) (z : Nat) : Bool :=
  a.cap.tag && !a.idx.poison && a.perm && (a.cap.base : Int) ≤ a.addr && a.addr + a.size ≤ a.cap.limit &&
  (a.cap.space != 2 || a.addr.toNat + a.size ≤ z) && a.addr.toNat % a.align == 0

/-- An access passes every check of R100 and leads to a place. -/
def State.Leads (s : State) (by_ : Accessor) (a : Access) (p : Place) : Prop :=
  a.permitted by_.z = true ∧ s.locate by_ a a.addr.toNat = .ok p

/-! ## What memory operations keep -/

/-- The registers of a group, their tags and its capabilities are the same. -/
def Group.SameFile (g h : Group) : Prop :=
  h.rows = g.rows ∧ h.tags = g.tags ∧ h.quads = g.quads ∧ h.near = g.near ∧ h.nearTags = g.nearTags ∧
  h.nearValid = g.nearValid ∧ h.k = g.k ∧ h.c = g.c

/-- The group of the context has kept its registers. -/
def Ctx.KeepsFile (c : Ctx) (t : State) : Prop := ∃ g, t.groups.find? c.gid = some g ∧ c.g.SameFile g

/-- A core's L1 has a block over a granule. -/
def Core.covers (k : Core) (w : Nat) : Bool := k.l1.cells.any fun (b, x) => b ≤ w && w < b + x.words.length

/-- A core's L1 has written a byte that its home has not been given. -/
def Core.owes (k : Core) (pa : Nat) : Bool :=
  k.l1.cells.any fun (b, x) =>
    b ≤ pa / 16 && (x.words[pa / 16 - b]?).elim false fun w => w.mine.getLsbD (pa % 16)

/-- Bytes of memory are as they were at their homes, but for bytes that a core's L1 had to give them. -/
def State.BytesKept (s t : State) (core : Nat) (but : Nat → Prop) : Prop :=
  ∀ pa, ¬ but pa → (s.core core).owes pa = false → t.byteAt pa = s.byteAt pa

/-- The data words of the scratchpads, by core, bank and row, are the same. -/
def State.PadsKept (s t : State) (but : Nat → Nat → Nat → Prop) : Prop :=
  ∀ k bank row, bank < 64 → row < 1536 → ¬ but k bank row →
    (t.core k).pad.words.get 0 (padKey bank row) = (s.core k).pad.words.get 0 (padKey bank row)

/-- The word of a scratchpad place. -/
def State.padWord (s : State) (t : Team) (off : Nat) : Granule :=
  (s.core (s.padLoc t off).core).pad.words.get 0 (padKey (s.padLoc t off).bank (s.padLoc t off).row)

/-- No error and no retirement concerns the core of a scratchpad place, and its row exists. -/
def State.padSound (s : State) (t : Team) (off : Nat) : Bool :=
  let p := (s.core (s.padLoc t off).core).pad
  p.retired.isEmpty && p.lost.isEmpty && p.ue.isEmpty && decide ((s.padLoc t off).row < 1536)

/-- The home alone holds the bytes of a place: no block of the core's L1 stands over it, and its scratchpad has met
no error. -/
def State.homeHolds (s : State) (core : Nat) (p : Place) (n : Nat) : Bool :=
  match p with
  | .mem pa => !(s.core core).covers (pa / 16) && pa % n == 0
  | .pad team off => (s.teams.find? team).elim false fun t => s.padSound t off
  | .folio _ _ => true
  | .const _ => false

/-- The number that the bytes of a place make, low byte first. -/
def State.numberAt (s : State) (p : Place) (n : Nat) : Nat :=
  match p with
  | .pad team off => (s.teams.find? team).elim 0 fun t => (s.padWord t off).toNat / 2 ^ (8 * (off % 16)) % 2 ^ (8 * n)
  | p => leNat (s.placeBytes p n)

/-- A byte as a core sees it: in its L1, where that has it, else at its home. -/
def State.seenAt (s : State) (core pa : Nat) : Byte :=
  match (s.core core).blockOf (pa / 16) with
  | some (b, x) => match x.words[pa / 16 - b]? with
    | some w => if w.full || w.mine.getLsbD (pa % 16) then (w.data >>> (8 * (pa % 16))).setWidth 8 else s.byteAt pa
    | none => s.byteAt pa
  | none => s.byteAt pa

/-- Every lane of the effect forms its address from a ready index, passes every check of R100, and leads to a
place. -/
def Ctx.Reaches (c : Ctx) (cap : BitVec 4) (index : Opnd) (shift : BitVec 3) (imm : BitVec 16) (size : Nat)
    (perm : Nat → Cap → Bool) (need : Need) (p : Nat → Place) : Prop :=
  ∀ l ∈ c.is.eff, c.indexReady l index = true ∧
    c.s.Leads c.accessor (c.accessOf cap index shift imm size (perm l) need l) (p l)

/-- A byte of memory that the lanes of a store write. -/
def Ctx.stores (c : Ctx) (p : Nat → Place) (n pa : Nat) : Prop :=
  ∃ l ∈ c.is.eff, ∃ q, p l = .mem q ∧ q ≤ pa ∧ pa < q + n

/-- A word of a scratchpad that the lanes of a store write to. -/
def Ctx.storesWord (c : Ctx) (p : Nat → Place) (k bank row : Nat) : Prop :=
  ∃ l ∈ c.is.eff, ∃ team t off, p l = .pad team off ∧ c.s.teams.find? team = some t ∧
    (c.s.padLoc t off).core = k ∧ (c.s.padLoc t off).bank = bank ∧ (c.s.padLoc t off).row = row

/-- What a store leaves unchanged: the registers, unless loads in flight land for it, and every byte and every
scratchpad word that it does not write. -/
def Ctx.StoreFrame (c : Ctx) (t : State) (p : Nat → Place) (n : Nat) : Prop :=
  c.Moved t ∧ c.Alone t ∧ (c.g.flights = [] → c.KeepsFile t) ∧
  c.s.BytesKept t c.g.core (c.stores p n) ∧ c.s.PadsKept t (c.storesWord p)

/-- What a load leaves unchanged: every byte and every scratchpad word, and the registers, unless loads in flight land
for it. -/
def Ctx.LoadFrame (c : Ctx) (t : State) : Prop :=
  c.Moved t ∧ c.Alone t ∧ (c.g.flights = [] → c.KeepsFile t) ∧
  c.s.BytesKept t c.g.core (fun _ => False) ∧ c.s.PadsKept t (fun _ _ _ => False)

/-- The access of a stream. -/
def SCtx.accessOf (c : SCtx) (a : MArgs) (perm : Cap → Bool) (need : Need) : Access :=
  let k := c.g.cap a.cap
  let x : SReg := match a.index with
    | .u i => c.st.s.get SReg.zero i
    | _ => SReg.zero
  { cap := k, idx := { bits := x.bits.setWidth 32, poison := x.plo }
    addr := memAddr k (x.bits.setWidth 32).toNat a.shift a.imm, size := 4 * a.ty.regs, align := 4 * a.ty.regs
    perm := perm k, need }

/-- A length operand of `cwb` and `cinv` (R324). -/
def Ctx.lengthReady (c : Ctx) (l : Nat) (o : Opnd) : Bool :=
  (match o with | .v _ | .n _ | .u _ | .zero => true | _ => false) && c.inBounds l o 1 && c.readable l o 1 &&
  (c.operand l o 1 0).tags.all fun t => t.valid && (t.fmt == .n32 || t.fmt == .b32)

/-- The range of `cwb` and `cinv` in a lane: its length, and the access that is checked for it. -/
def Ctx.rangeLength (c : Ctx) (a : MArgs) (l : Nat) : Nat := (c.operand l a.data 1 0).low.bits.toNat

def Ctx.rangeAccess (c : Ctx) (a : MArgs) (l : Nat) : Access :=
  { c.accessOf a.cap a.index a.shift a.imm (c.rangeLength a l) (fun k => k.ld || k.st) {} l with
    align := 1
    idx := if (c.operand l a.index 1 0).low.poison then (c.operand l a.index 1 0).low
      else (c.operand l a.data 1 0).low }

/-- The range of a lane is empty, or passes checks 1 to 5 of R100. -/
def Ctx.rangeReady (c : Ctx) (a : MArgs) (l : Nat) : Bool :=
  c.lengthReady l a.data && c.indexReady l a.index &&
  ((c.rangeLength a l == 0 && !(c.operand l a.data 1 0).poison) || (c.rangeAccess a l).permitted c.t.z)

/-- Every written block of a core's L1 stands in its FIFO (R106). -/
def Core.fifoSound (k : Core) : Prop :=
  sortedKeys k.l1.cells = true ∧ ∀ b x, (b, x) ∈ k.l1.cells → x.dirty = true → .block b ∈ k.fifo

/-! ## Closing instructions, capabilities and atomics -/

/-- The batch has gone on to the next instruction, where a header must stand (R28), and no other fibre of its
group has moved. -/
def Ctx.Closed (c : Ctx) (t : State) : Prop :=
  ∀ l, t.fibre? c.gid l =
    if l ∈ c.is.lanes then (c.fibre? l).map fun f => f.advance c.is.pc true else c.fibre? l

/-- Elements and tags of the group are the same but for a destination of the instruction, and so are its
capabilities. -/
def Ctx.FileBut (c : Ctx) (t : State) (dst : Opnd) (n : Nat) : Prop :=
  ∃ g, t.groups.find? c.gid = some g ∧ g.c = c.g.c ∧
    ∀ r l, l < 64 → (∀ k ∈ c.is.eff, ∀ j < n, r ≠ (c.reg k dst).succ j) →
      g.elem r l = c.g.elem r l ∧ g.tag r l = c.g.tag r l ∧ g.nearOk r l = c.g.nearOk r l

/-- A uniform value operand of a capability instruction can be taken (R326). -/
def Ctx.capOpReady (c : Ctx) (l : Nat) (o : Opnd) (n : Nat) : Bool :=
  o.isUniform && c.inBounds l o n && !(c.operand l o n 0).poison

/-- Its value in the lowest active lane. -/
def Ctx.capOpValue (c : Ctx) (o : Opnd) (n : Nat) : Dword := (c.operand (c.is.eff.headD 0) o n 0).value

/-- A capability instruction has written one c register and nothing else (R326). -/
def Ctx.WritesCap (c : Ctx) (t : State) (cd : BitVec 4) (k : Cap) : Prop :=
  c.Closed t ∧ c.Alone t ∧ c.s.SameMemory t ∧
  ∃ g, t.groups.find? c.gid = some g ∧ g.cap cd = k ∧ (∀ i, i ≠ cd → g.cap i = c.g.cap i) ∧
    g.rows = c.g.rows ∧ g.tags = c.g.tags ∧ g.quads = c.g.quads ∧ g.near = c.g.near ∧
    g.nearTags = c.g.nearTags ∧ g.nearValid = c.g.nearValid ∧ g.k = c.g.k

/-- The alignment that an exponent asks of a base, and the region of `cbnd` at that exponent (R327). -/
def boundLow (base e : Nat) : Nat := base / 2 ^ max e 2 * 2 ^ max e 2
def boundHigh (base len e : Nat) : Nat := (base + len + 2 ^ e - 1) / 2 ^ e * 2 ^ e
def boundFits (base len e : Nat) : Prop := boundHigh base len e - boundLow base e ≤ 256 * 2 ^ e

/-- What `cbnd` makes of a capability (R327). -/
def Cap.BoundTo (k d : Cap) (base len : Nat) : Prop :=
  (len = 0 ∨ 2 ^ 52 < base + len → d.tag = false ∧ d.w1 = k.w1 ∧ d.w0.toNat / 2 ^ 52 = k.w0.toNat / 2 ^ 52 ∧
    d.cursor = base % 2 ^ 52) ∧
  (0 < len → base + len ≤ 2 ^ 52 → ∃ e ≤ 44, boundFits base len e ∧ (∀ i < e, ¬ boundFits base len i) ∧
    d.exp = e ∧ d.base = boundLow base e ∧ d.limit = boundHigh base len e ∧ d.cursor = base ∧
    d.perms = k.perms ∧ d.space = k.space ∧
    (d.tag = true ↔ k.tag = true ∧ k.base ≤ d.base ∧ d.limit ≤ k.limit))

/-- What `cadr` and `cinc` make of a capability: the cursor, and the tag where it stays within 52 bits (R328). -/
def Cap.MovedTo (k d : Cap) (v : Int) : Prop :=
  d.w1 = k.w1 ∧ d.w0.toNat / 2 ^ 52 = k.w0.toNat / 2 ^ 52 ∧ (d.cursor : Int) = v % 2 ^ 52 ∧
  (d.tag = true ↔ k.tag = true ∧ 0 ≤ v ∧ v < 2 ^ 52)

/-- The access of an atomic in a lane (R332). -/
def Ctx.atomAccess (c : Ctx) (cap : BitVec 4) (index : Opnd) (imm : BitVec 7) (ty : Ty) (l : Nat) : Access :=
  let k := c.g.cap cap
  let n := 4 * ty.regs
  { cap := k, idx := (c.operand l index 1 0).low
    addr := (k.cursor : Int) + (c.operand l index 1 0).index * n + imm.toNat * n, size := n, align := n
    perm := k.atomic, need := { rd := true, w := true } }

/-- The data of an atomic can be taken in a lane: registers of its type, none poisoned (R332, R333). -/
def Ctx.atomDataReady (c : Ctx) (l : Nat) (o : Opnd) (ty : Ty) (n align : Nat) (float : Bool) : Bool :=
  o.isReg && aligned (regIndex o) align && c.within l o n && c.readable l o n &&
  (c.operand l o n 0).accepted ty false && !(c.operand l o n 0).poison &&
  !(float && (c.operand l o n 0).nanScale)

/-- An atomic form is ready in every lane of its effect, at the places given: address and data can be taken, the
checks pass, the place holds no poison, host memory performs the form, and an acquire is admitted. -/
def Ctx.AtomReady (c : Ctx) (a : AtomForm) (p : Nat → Place) : Prop :=
  ∀ l ∈ c.is.eff,
    (∀ d, a.dst = some d → c.regReady l d a.ty.regs = true) ∧
    c.atomDataReady l a.data a.ty a.regs a.align a.float = true ∧ c.indexReady l a.index = true ∧
    c.s.Leads c.accessor (c.atomAccess a.cap a.index a.imm7 a.ty l) (p l) ∧
    c.s.readLost (p l) = none ∧ (c.s.atomRead c.g.core (p l) (4 * a.ty.regs)).1.2 = false ∧
    (a.host = true ∨ ∀ pa, p l = .mem pa → isHost pa = false) ∧
    (Order.acquires a.order = true → (c.s.drainPlace c.g.core (p l)).acquireOk c.gr.part c.g.core a.scope (p l) = true)

/-- The forms of the three instructions. -/
def atomForm (a : AtomArgs) : AtomForm :=
  { ty := a.ty, scope := a.scope, cap := a.cap, index := a.index, data := a.data, order := a.order
    imm7 := a.imm7, regs := a.ty.regs, align := a.ty.regs, dst := some a.dst, host := AtomOp.onHost a.op
    float := AtomOp.isFloat a.op }

def redForm (a : RedArgs) : AtomForm :=
  { ty := a.ty, scope := a.scope, cap := a.cap, index := a.index, data := a.data, order := a.order
    imm7 := a.imm7, regs := a.ty.regs, align := a.ty.regs, dst := none, host := false, float := AtomOp.isFloat a.op }

def casForm (a : CasArgs) : AtomForm :=
  { ty := a.ty, scope := a.scope, cap := a.cap, index := a.index, data := a.data, order := a.order
    imm7 := a.imm7, regs := 2 * a.ty.regs, align := if a.ty.regs = 2 then 4 else 1, dst := some a.dst
    host := true, float := false }

/-- An atomic has completed (R332): no byte but those at its places has changed, its destination holds the old value
where one lane takes part, and the place the new one. -/
def Ctx.AtomDone (c : Ctx) (t : State) (a : AtomForm) (p : Nat → Place) (new : Nat → Src → Nat) : Prop :=
  let n := 4 * a.ty.regs
  c.Closed t ∧ c.Alone t ∧
  c.s.BytesKept t c.g.core (c.stores p n) ∧ c.s.PadsKept t (c.storesWord p) ∧
  (c.g.flights = [] → match a.dst with
    | some d => c.FileBut t d a.ty.regs
    | none => c.KeepsFile t) ∧
  ∀ l, c.is.eff = [l] → c.s.homeHolds c.g.core (p l) n = true →
    (∀ pa, p l = .mem pa → c.s.reachable pa = true) → (∀ q off, p l ≠ .folio q off) →
    let old := c.s.numberAt (p l) n
    t.numberAt (p l) n = new old (c.operand l a.data a.regs 0) ∧
    ∀ d g, a.dst = some d → t.groups.find? c.gid = some g → ∀ j < a.ty.regs,
      g.elem ((c.reg l d).succ j) l = { bits := BitVec.ofNat 32 (old / 2 ^ (32 * j)), poison := false }

/-- The value of some elements, low register first. -/
def elemsNat (es : List Elem) : Nat := es.foldr (fun e n => e.bits.toNat + 2 ^ 32 * n) 0

/-- The count operand of an arrival: what it gives, and whether it is ZERO (R337). -/
def Ctx.CountIs (c : Ctx) (o : Opnd) (n : Nat) (z : Bool) : Prop :=
  (o = .zero ∧ z = true ∧ n = (c.s.liveGroups (.named c.g.team 0)).length) ∨
  (z = false ∧ 1 ≤ n ∧ n ≤ c.t.groups.length ∧ ∃ i, o = .u i ∧ ∀ l ∈ c.is.eff, c.inBounds l o 1 = true ∧
    (c.operand l o 1 0).low.bits.toNat = n)

/-- With the batch every fibre of the group that is not parked has arrived at a barrier, and the group has not
arrived before (R338). -/
def Ctx.completesGroup (c : Ctx) (r : BarRef) : Prop :=
  (∀ p ∈ c.g.fibres.cells, p.1 ∈ c.is.lanes ∨ p.2.parked ≠ none ∨ p.2.arrived.getLsbD r.bit = true) ∧
  c.gid ∉ (c.s.bar r).arrived

/-- The batch has passed a barrier, has arrived and gone on, or waits at it. -/
def Ctx.passed (c : Ctx) (t : State) (bit : Nat) : Prop :=
  ∀ l ∈ c.is.lanes, ∃ f, t.fibre? c.gid l = some f ∧ f.pc = c.is.pc + 8 ∧ f.needHdr = true ∧ f.wait = none ∧
    f.arrived.getLsbD bit = false

def Ctx.arrivedOn (c : Ctx) (t : State) (bit : Nat) : Prop :=
  ∀ l ∈ c.is.lanes, ∃ f, t.fibre? c.gid l = some f ∧ f.pc = c.is.pc + 8 ∧ f.needHdr = true ∧ f.wait = none ∧
    f.arrived.getLsbD bit = true

def Ctx.waitsAt (c : Ctx) (t : State) (bit : Nat) : Prop :=
  ∀ l ∈ c.is.lanes, ∃ f, t.fibre? c.gid l = some f ∧ f.pc = c.is.pc ∧ f.wait = some (.barrier bit) ∧
    f.arrived.getLsbD bit = true

/-! ## Queue operations (R171 to R180) -/

/-- The control block at an address of memory (R165). -/
def State.blockAt (s : State) (pa : Nat) : Qcb := Qcb.ofWords (wordsOf 16 (s.homeBytes pa 64))

/-- Nothing of a core's L1 waits for its home, and no block stands over the bytes. -/
def State.apart (s : State) (core pa n : Nat) : Prop :=
  (s.core core).fifo = [] ∧ ∀ i < n, (s.core core).covers ((pa + i) / 16) = false

/-- Checks 3 to 6 of R173 admit the operation. -/
def State.QueueAdmits (s : State) (r : QReq) : Prop :=
  r.place.isOutside = false ∧
  let q := (s.qSee r).q
  (q.md = true → 4 ≤ r.scope.rank) ∧
  (r.act.acquires = true → (s.qSee r).s.acquireOk r.part r.core r.scope r.place = true) ∧
  (r.act ≠ .stat → q.state ≠ 2 ∧ q.corrupt = none) ∧
  ¬ (q.kind = 2 ∧ r.act = .enq ∧ r.blk = true) ∧ kindAdmits q.kind r.act = true ∧
  (r.blk = true → q.blk = true) ∧ (q.md = true ∨ r.otherDie = false) ∧
  q.sp = (r.acc.cap.space == 2) ∧
  (r.act = .enq ∨ r.act = .deq ∨ r.act = .rsv ∨ r.act = .take → r.esize = q.esz) ∧
  (q.state = 1 → r.act ≠ .enq ∧ r.act ≠ .rsv ∧ r.act ≠ .close)

/-- The checks of `qinit` admit a configuration (R178). -/
def State.InitAdmits (s : State) (r : QReq) (i : QInit) : Prop :=
  r.place.isOutside = false ∧
  let old := (s.qSee r).q
  let q := Qcb.ofWords (qcbWords i.config i.slotBase i.sibling 0 0)
  (q.md = true → 4 ≤ r.scope.rank) ∧ ¬ (old.state = 0 ∧ old.check = old.checkWord) ∧
  q.state = 0 ∧ configOk i.config = true ∧ ¬ (q.sp = true ∧ q.md = true) ∧ q.kind ≠ 1 ∧ q.kind ≠ 2 ∧
  r.acc.cap.space ≠ 4 ∧ q.sp = (r.acc.cap.space == 2) ∧ (q.kind = 3 → q.esz = 5) ∧
  i.slotBase.toNat % 2 ^ q.esz = 0 ∧ r.acc.cap.base ≤ i.slotBase.toNat ∧
  i.slotBase.toNat + 2 ^ (q.caplog + q.esz) ≤ r.acc.cap.limit

/-- `qinit` has written a block: its counts stand at 0, and the empty wait lists read as 0xFFFF_FFFF (R165, R178). The
batches whose operations wait at the home stay there (log 56). -/
def State.Opened (s t : State) (part : Nat) (ctx : Word) (pa : Nat) (i : QInit) : Prop :=
  (∃ pw cw, t.blockAt pa = { Qcb.ofWords (qcbWords i.config i.slotBase i.sibling (s.homeWord part (.mem pa)) ctx) with
      pwait := pw, cwait := cw } ∧
    ((s.queue pa).producers = [] → pw = 0xFFFFFFFF) ∧ ((s.queue pa).consumers = [] → cw = 0xFFFFFFFF)) ∧
  t.queue pa = { (s.queue pa).renew with answered := s.clock.time }

/-- The request of a batch, whose aux operand is uniform. -/
def Ctx.queueRequest (c : Ctx) (act : QAct) (a : QArgs) (p : Place) : QReq :=
  { act, esize := a.esize.toNat, scope := a.scope, blk := a.blk, core := c.g.core, part := c.gr.part
    party := .group c.gid, holder := { ctx := gridCtxid c.t.grid, team := c.g.team, group := c.gid }
    pc := c.is.pc, acc := qAccess (c.g.cap a.cap) (c.operand (c.is.eff.headD 0) a.aux 1 0).low, place := p, args := a }

/-- The data operand of a lane can be taken (R172, R178). -/
def Ctx.queueDataReady (c : Ctx) (act : QAct) (a : QArgs) (l : Nat) : Prop :=
  let n := act.regs a.esize.toNat
  let x := c.operand l a.data n 0
  match act with
  | .close => True
  | .init => (∃ i, a.data = .u i) ∧ c.within l a.data n = true ∧ x.poison = false
  | _ => a.data.isReg = true ∧ c.inBounds l a.data n = true ∧
    (act.writes = false → c.readable l a.data n = true ∧ (x.tags.all Tag.valid) = true ∧ x.poison = false)

/-- The batch can ask its queue: operands, address, and checks 1 to 6 of R173. -/
def Ctx.QueueReady (c : Ctx) (act : QAct) (a : QArgs) (p : Place) : Prop :=
  c.parkedAt = none ∧
  (∀ l ∈ c.is.eff, c.queueDataReady act a l ∧ a.aux.isUniform = true ∧ c.inBounds l a.aux 1 = true ∧
    (act.writes = true → c.mayWrite l a.data (act.regs a.esize.toNat) = true) ∧
    (act.status = true → c.mayWritePred l a.status = true)) ∧
  c.s.Leads c.accessor (c.queueRequest act a p).acc p ∧
  (act ≠ .init → c.s.QueueAdmits (c.queueRequest act a p))

/-- The lanes of a batch with what each gives to the queue. -/
def Ctx.queueLanes (c : Ctx) (act : QAct) (a : QArgs) : List (Nat × List Word) :=
  let ws := fun (l : Nat) => if act.writes ∨ act = .close then []
    else (c.operand l a.data (act.regs a.esize.toNat) 0).elems.map (·.bits)
  if uniformData a.data then [(c.is.eff.headD 0, ws (c.is.eff.headD 0))] else c.is.eff.map fun l => (l, ws l)

/-- What the home makes of the request, after the release that goes before it (R155). -/
def Ctx.queueRun (c : Ctx) (act : QAct) (a : QArgs) (p : Place) : State × QEnd :=
  let s := c.advance true c.is.lanes
  (if act.releases then c.release a.scope s else s).qPerform (c.queueRequest act a p) c.is.eff
    (c.queueLanes act a)

/-- The results of an operation have reached the batch: it stands at the next instruction, where a header must stand,
and each lane has its status and its words (R172, R176); a uniform operation gives all lanes the same. -/
def Ctx.QueueDone (c : Ctx) (t : State) (act : QAct) (a : QArgs) (w : QWait) : Prop :=
  ∃ g, t.groups.find? c.gid = some g ∧
    (∀ l ∈ c.is.lanes, ∃ f, g.fibres.find? l = some f ∧ f.pc = c.is.pc + 8 ∧ f.needHdr = true ∧ f.wait = none) ∧
    (∀ r ∈ w.results, ∀ l ∈ c.is.lanes,
      (uniformData a.data = false ∧ r.lane = l) ∨ (uniformData a.data = true ∧ w.results.head? = some r) →
      (act.status = true → ∃ f, g.fibres.find? l = some f ∧ predBit f.pred a.status = r.ok) ∧
      (act.writes = true → r.words ≠ [] → c.g.flights = [] → ∀ j < act.regs a.esize.toNat,
        g.elem ((c.reg l a.data).succ j) l = { bits := r.words.getD j 0, poison := false }))

/-- The same for a stream. -/
def SCtx.queueRequest (c : SCtx) (act : QAct) (a : QArgs) (p : Place) : QReq :=
  let x : SReg := match a.aux with
    | .u i => c.st.s.get SReg.zero i
    | _ => SReg.zero
  { act, esize := a.esize.toNat, scope := a.scope, blk := a.blk, core := c.core, part := c.gr.part
    party := .stoker c.core, holder := { ctx := gridCtxid c.t.grid, team := c.g.team, group := 0 }
    pc := c.is.pc, acc := qAccess (c.g.cap a.cap) { bits := x.bits.setWidth 32, poison := x.plo }, place := p, args := a }

/-- The scalars of its data operand. -/
def SCtx.queueData (c : SCtx) (act : QAct) (a : QArgs) : List SReg :=
  (List.range (act.sregs a.esize.toNat)).map fun j => c.st.s.get SReg.zero (regIndex a.data + j)

def SCtx.QueueReady (c : SCtx) (act : QAct) (a : QArgs) (p : Place) : Prop :=
  (∀ k, c.st.wait ≠ some (.queue k)) ∧ sReady [a.aux] false = true ∧
  (act ≠ .close → ∃ i, a.data = .u i ∧ i + act.sregs a.esize.toNat ≤ 32 ∧
    (act = .init ∨ i % act.sregs a.esize.toNat = 0)) ∧
  (act.writes = false → ∀ r ∈ c.queueData act a, r.plo = false ∧ r.phi = false) ∧
  c.s.Leads c.accessor (c.queueRequest act a p).acc p ∧
  (act ≠ .init → c.s.QueueAdmits (c.queueRequest act a p))

def SCtx.queueRun (c : SCtx) (act : QAct) (a : QArgs) (p : Place) : State × QEnd :=
  let s := if act.releases then c.advance.releaseAt c.core c.t.cores a.scope else c.advance
  let two : List Word := (c.queueData act a).flatMap fun (r : SReg) =>
    [r.bits.setWidth 32, (r.bits >>> 32).setWidth 32]
  s.qPerform (c.queueRequest act a p) [0]
    [(0, if (if act = .enq then a.esize.toNat else 2) ≤ 2 then two.take 1 else two)]

/-- The results of an operation have reached a stream. -/
def SCtx.QueueDone (c : SCtx) (t : State) (act : QAct) (a : QArgs) (w : QWait) : Prop :=
  ∃ st, (t.core c.core).stream = some st ∧ st.pc = (loopNext c.is.pc c.st.loops).1 ∧ st.wait = none ∧
    ∀ r, w.results.head? = some r →
      (act.status = true → predBit st.pred a.status = r.ok) ∧
      (act.writes = true → r.words ≠ [] →
        (st.s.get SReg.zero (regIndex a.data)).bits = join64 (r.words.getD 0 0) (r.words.getD 1 0) ∧
        (act = .deq → a.esize = 4 →
          (st.s.get SReg.zero (regIndex a.data + 1)).bits = join64 (r.words.getD 2 0) (r.words.getD 3 0)))

/-- Where a slot of a queue in memory lies: in the queue table, or at a translated address (R169). -/
def State.slotAt (s : State) (r : QReq) (q : Qcb) (i : Word) (need : Need) : Option Nat :=
  if r.acc.cap.space = 4 then some ((s.part r.part).qtable + q.slotAddr i)
  else match s.walkPa r.part (q.slotAddr i) need { code := 0 } with
    | .ok pa => some pa
    | .error _ => none

/-! ## Engines (R208 to R210, R344 to R358) -/

/-- A move of `cp` in a lane, between places that its accesses lead to (R344, R345). -/
def Ctx.cpAccess (c : Ctx) (cap : BitVec 4) (index : Opnd) (off : BitVec 10) (size : Nat) (perm : Cap → Bool)
    (need : Need) (l : Nat) : Access :=
  let k := c.g.cap cap
  { cap := k, idx := (c.operand l index 1 0).low
    addr := (k.cursor : Int) + (c.operand l index 1 0).index + 4 * off.toNat, size, align := size
    perm := perm k, need }

def Ctx.cpMove (c : Ctx) (a : CpArgs) (p q : Nat → Place) (l : Nat) : Move :=
  { src := p l, dst := q l, size := CopySize.bytes a.size, l6 := none
    tags := (c.g.cap a.scap).cl && (c.g.cap a.dcap).cs
    va := (c.cpAccess a.dcap a.didx a.doff (CopySize.bytes a.size) Cap.st { w := true } l).addr.toNat }

/-- A copy of the group has been accepted (R209): it stands behind the core's copies, it runs in the open batch of its
class, and the batch of fibres goes on. -/
def Ctx.Accepts (c : Ctx) (t : State) (cls : EngClass) (scope : Scope) (moves : List Move) : Prop :=
  c.Closed t ∧ c.Alone t ∧ c.KeepsFile t ∧
  ∃ id g b, (t.core c.g.core).copies = (c.s.core c.g.core).copies ++
      [{ id, party := .group c.gid, team := c.g.team, cls, scope, moves, lost := none, cut := [] }] ∧
    t.groups.find? c.gid = some g ∧ (g.batches cls).getLast? = some b ∧ b.isOpen = true ∧ id ∈ b.running

/-- The copy of a party with a number, and its core. -/
def State.copyOf (s : State) (p : Party) (id : Nat) : Option (Nat × Core × Copy) :=
  s.cores.cells.findSome? fun (core, k) =>
    (k.copies.find? fun c => c.party == p && c.id == id).map fun c => (core, k, c)

/-- Where a completed copy moved bytes of one granule of memory to another and the core held neither in its L1, they stand
at the destination, with the capability tag where it moves too, and no other byte changed (R345). -/
def Copy.Copied (c : Copy) (s t : State) (core : Nat) : Prop :=
  ∀ (a b n : Nat) (tags : Bool) (va : Nat),
    c.moves = [{ src := .mem a, dst := .mem b, size := n, l6 := none, tags, va }] →
    a % 16 + n ≤ 16 → b % 16 + n ≤ 16 → (s.core core).covers (a / 16) = false →
    (s.core core).covers (b / 16) = false → s.reachable b = true →
    t.homeBytes b n = s.homeBytes a n ∧
    (∀ x, ¬ (b ≤ x ∧ x < b + n) → t.byteAt x = s.byteAt x) ∧
    (n = 16 → tags = true → isDevice b = true → t.memTags.contains (b / 16) = s.memTags.contains (a / 16))

/-- A stream has gone on to its next instruction (R353) with the scalars and predicates that it had. -/
def SCtx.Moved (c : SCtx) (t : State) (st : Stream) : Prop :=
  (t.core c.core).stream = some st ∧ st.pc = (loopNext c.is.pc c.st.loops).1 ∧
  st.loops = (loopNext c.is.pc c.st.loops).2.1 ∧ st.s = c.st.s ∧ st.pred = c.st.pred ∧ st.wait = none

/-- A row operand of a tile access can be taken in a lane (R325). -/
def Ctx.tileReady (c : Ctx) (l : Nat) (a : TArgs) : Bool :=
  uniIndex a.row && c.inBounds l a.row 1 && c.t.isMatrix && !(c.operand l a.row 1 0).poison &&
  decide ((c.operand l a.row 1 0).low.bits.toNat < 64) && decide (a.colblk.toNat * 8 + c.g.width ≤ 64)

/-- The tile element of a lane. -/
def Ctx.tileKeyOf (c : Ctx) (a : TArgs) (l : Nat) : Nat :=
  tileKey a.tile.toNat (c.operand l a.row 1 0).low.bits.toNat (a.colblk.toNat * 8 + l)

end Sys2Proof.Machine
end

