-- ==== Sys2Proof/Certificates/Slice0/Obligations.lean ====
section
/-! DEFINITION. The statements for the provers. -/

open Sys2Proof Sys2Proof.Machine

/-! ## Class 3: vector integers (R293 to R301) -/

/-- Two-source instructions of class 3 and their immediate forms work element by element (R293 to R296); what
the element operations compute is said by `IntegerElementArithmetic` and `ShiftsAndCounts`. -/
def Obligations.IntegerTwoSourceResults : Prop :=
  ∀ (s : State) (c : Ctx) (a : VArgs) (b : VIArgs), s.RunsIn c →
    ∀ v ∈ [vTwo a (.add a) (vAdd a.ty a.sat), vTwo a (.sub a) (vSub a.ty a.sat),
        vTwo a (.mul a) (vMul a.ty a.sat), vTwo a (.mulh a) (vMulh a.ty), vTwo a (.min a) (vMin a.ty),
        vTwo a (.max a) (vMax a.ty), vTwo a (.and a) Nat.land, vTwo a (.or a) Nat.lor,
        vTwo a (.xor a) Nat.xor, vTwo a (.shl a) (vShl a.ty), vTwo a (.shr a) (vShr a.ty),
        vTwo a (.sar a) (vSar a.ty),
        viTwo b (.addImm b) (vAdd b.ty b.sat), viTwo b (.subImm b) (vSub b.ty b.sat),
        viTwo b (.mulImm b) (vMul b.ty b.sat), viTwo b (.mulhImm b) (vMulh b.ty),
        viTwo b (.minImm b) (vMin b.ty), viTwo b (.maxImm b) (vMax b.ty), viTwo b (.andImm b) Nat.land,
        viTwo b (.orImm b) Nat.lor, viTwo b (.xorImm b) Nat.xor, viTwo b (.shlImm b) (vShl b.ty),
        viTwo b (.shrImm b) (vShr b.ty), viTwo b (.sarImm b) (vSar b.ty)],
      c.Performs s v

/-- The other instructions of class 3 (R295, R296, R299 to R301): one source, three sources, sources of types of
their own, sums of products and complex products. -/
def Obligations.IntegerOtherResults : Prop :=
  ∀ (s : State) (c : Ctx) (a : VArgs) (b : VIArgs), s.RunsIn c →
    ∀ v ∈ [vOne a (.abs a) (vAbs a.ty a.sat), vOne a (.neg a) (vNeg a.ty a.sat), vOne a (.not a) (vNot a.ty),
        vOne a (.popc a) (popCount (elemBits a.ty)), vOne a (.clz a) (leadingZeros (elemBits a.ty)),
        vOne a (.brev a) (bitReverse (elemBits a.ty)),
        vForm a (.mad a) a.ty.regs [i1 a.s1 a.ty, i2 a.s2 a.ty, i3 a.s3 a.ty] (madRes a.ty a.sat),
        viForm b (.madImm b) b.ty.regs [i1 b.s1 b.ty, i2 b.s2 b.ty, iImm b.ty] (madRes b.ty b.sat),
        vForm a (.bfe a) a.ty.regs [i1 a.s1 a.ty, intSrc a.s2 .n32 fS2] (bfeRes a.ty),
        viForm b (.bfeImm b) b.ty.regs [i1 b.s1 b.ty, iImm .n32] (bfeRes b.ty),
        vForm a (.bfi a) a.ty.regs [i1 a.s1 a.ty, i2 a.s2 a.ty, i3 a.s3 .n32] (bfiRes a.ty),
        viForm b (.bfiImm b) b.ty.regs [i1 b.s1 b.ty, i2 b.s2 b.ty, iImm .n32] (bfiRes b.ty),
        vForm a (.addc a) 2 [intSrc a.s1 .n32 fS1, intSrc a.s2 .n32 fS2, i3 a.s3 .n32] addcRes,
        viForm b (.addcImm b) 2 [intSrc b.s1 .n32 fS1, intSrc b.s2 .n32 fS2, iImm .n32] addcRes,
        vForm a (.dot4 a) 1 [i1 a.s1 a.ty, i2 a.s2 a.ty, i3 a.s3 (dotType a.ty)] (dotRes a.ty a.sat),
        viForm b (.dot4Imm b) 1 [i1 b.s1 b.ty, i2 b.s2 b.ty, iImm (dotType b.ty)] (dotRes b.ty b.sat),
        vForm a (.cmul a) 1 [intSrc a.s1 .s16 fS1, intSrc a.s2 .s16 fS2] (complexRes a.sat a.neg2 a.func.toNat),
        vForm a (.cmac a) 1 [intSrc a.s1 .s16 fS1, intSrc a.s2 .s16 fS2, i3 a.s3 .s16]
          (complexRes a.sat a.neg2 a.func.toNat)],
      c.Performs s v

/-- `mov` copies bits, poison and tag whole, and `sel` takes the source that the predicate chooses, where the
scales of the two agree (R295, R298). -/
def Obligations.MovesAndSelects : Prop :=
  ∀ (s : State) (c : Ctx) (a : VArgs) (b : VIArgs) (f : VFArgs), s.RunsIn c →
    (∀ v ∈ [vForm a (.mov a) a.ty.regs [looseSrc a.s1 a.ty fS1] (copyRes a.ty),
        viForm b (.movImm b) b.ty.regs [{ o := .imm, ty := b.ty, field := fImm }] (copyRes b.ty)],
      c.Performs s v) ∧
    (let qs := [looseSrc a.s1 a.ty fS1, looseSrc a.s2 a.ty fS2]
     c.vecReady a.dst a.ty.regs none qs = true →
     (∀ l ∈ c.is.eff, sameScale a.ty (c.values none qs l)) →
     exec (.sel a) s = .next (c.vecDone a.dst fun l =>
       selRes a.ty (c.pred l a.func) (c.values none qs l))) ∧
    (let qs := [looseSrc f.s1 f.ty fS1, { o := .imm, ty := f.ty, field := fImm }]
     c.vecReady f.dst f.ty.regs (some f.imm) qs = true →
     (∀ l ∈ c.is.eff, sameScale f.ty (c.values (some f.imm) qs l)) →
     exec (.selImm f) s = .next (c.vecDone f.dst fun l =>
       selRes f.ty (c.pred l f.fn) (c.values (some f.imm) qs l)))

/-- The elements of 8, 16, 32 and 64 bits as integers (R49, R295): sums, differences, products, products with a sum,
magnitudes and negations wrap, or with SAT become the nearest value of the type; `mulh` is the high half; `min` and
`max` compare by the type's sign. -/
def Obligations.IntegerElementArithmetic : Prop :=
  ∀ (t : Ty) (x y z : Nat), t ∈ intTys → x < 2 ^ elemBits t → y < 2 ^ elemBits t → z < 2 ^ elemBits t →
    intOf t x = (if t.signed = true ∧ 2 ^ (elemBits t - 1) ≤ x then (x : Int) - 2 ^ elemBits t else x) ∧
    vAdd t false x y = (x + y) % 2 ^ elemBits t ∧
    vSub t false x y = (x + 2 ^ elemBits t - y) % 2 ^ elemBits t ∧
    vMul t false x y = x * y % 2 ^ elemBits t ∧
    vMad t false x y z = (x * y + z) % 2 ^ elemBits t ∧
    vNeg t false x = (2 ^ elemBits t - x) % 2 ^ elemBits t ∧
    vAbs t false x = (intOf t x).natAbs ∧
    vNot t x = 2 ^ elemBits t - 1 - x ∧
    (let near := fun v : Int => if t.signed = true then max (-(2 ^ (elemBits t - 1))) (min (2 ^ (elemBits t - 1) - 1) v)
       else max 0 (min (2 ^ elemBits t - 1) v)
     intOf t (vAdd t true x y) = near (intOf t x + intOf t y) ∧
     intOf t (vSub t true x y) = near (intOf t x - intOf t y) ∧
     intOf t (vMul t true x y) = near (intOf t x * intOf t y) ∧
     intOf t (vMad t true x y z) = near (intOf t x * intOf t y + intOf t z) ∧
     intOf t (vAbs t true x) = near (intOf t x).natAbs ∧
     intOf t (vNeg t true x) = near (-intOf t x)) ∧
    intOf t (vMulh t x y) = intOf t x * intOf t y / 2 ^ elemBits t ∧
    intOf t (vMin t x y) = min (intOf t x) (intOf t y) ∧
    intOf t (vMax t x y) = max (intOf t x) (intOf t y)

/-- Shifts by the whole count, read as unsigned (R296): a count of the width or more gives 0, or copies of the
sign bit. `popc` counts the set bits, `clz` of 0 is the width, `brev` reverses. A bit field (R282, R296) has its position in
bits 7:0 of the control and its length in bits 15:8: `bfe` and `kbfe` extract it, with zeros or sign bits from above the
width, extended from its top bit for s types, 0 where the length is 0; `bfi` replaces it and drops what lies above the
width. -/
def Obligations.ShiftsAndCounts : Prop :=
  ∀ (t : Ty) (x y : Nat), t ∈ intTys → x < 2 ^ elemBits t →
    (elemBits t ≤ y → vShl t x y = 0 ∧ vShr t x y = 0 ∧
      vSar t x y = if 2 ^ (elemBits t - 1) ≤ x then 2 ^ elemBits t - 1 else 0) ∧
    (y < elemBits t → vShl t x y = x * 2 ^ y % 2 ^ elemBits t ∧ vShr t x y = x / 2 ^ y ∧
      (∀ i, i < elemBits t → (vSar t x y).testBit i = x.testBit (min (i + y) (elemBits t - 1)))) ∧
    popCount (elemBits t) 0 = 0 ∧
    (∀ i, i < elemBits t → x.testBit i = false →
      popCount (elemBits t) (x + 2 ^ i) = popCount (elemBits t) x + 1) ∧
    leadingZeros (elemBits t) 0 = elemBits t ∧
    (0 < x → 2 ^ (elemBits t - 1 - leadingZeros (elemBits t) x) ≤ x ∧
      x < 2 ^ (elemBits t - leadingZeros (elemBits t) x)) ∧
    (∀ i, i < elemBits t → (bitReverse (elemBits t) x).testBit i = x.testBit (elemBits t - 1 - i)) ∧
    (let pos := y % 256
     let len := y / 256 % 256
     (len = 0 → bitField t x y = 0) ∧
     (∀ i, 0 < len → (bitField t x y).testBit i =
       if i < elemBits t ∧ (i < len ∨ t.signed = true) then
         if pos + min i (len - 1) < elemBits t then x.testBit (pos + min i (len - 1))
         else t.signed && x.testBit (elemBits t - 1)
       else false) ∧
     ∀ z i, z < 2 ^ elemBits t → (bitInsert t x z y).testBit i =
       if i < elemBits t then (if pos ≤ i ∧ i < pos + len then z.testBit (i - pos) else x.testBit i) else false)

/-! ## Compares (R297, R303) -/

/-- The compares write one predicate in each lane of their effect, and nothing else but the batch's place; an
operand that is not poisoned is required (R117, R297, R303). -/
def Obligations.ComparesWritePredicates : Prop :=
  ∀ (s : State) (c : Ctx) (a : CmpArgs) (b : CmpIArgs) (p : BitVec 4), s.RunsIn c →
    (∀ l ∈ c.is.eff, c.mayWritePred l p = true) →
    (a.pd = .p p → ∀ v ∈ [(Instr.cmp a, [intSrc a.s1 a.ty fS1, intSrc a.s2 a.ty fS2], intHolds a.ty a.cc),
        (.fcmp a, [fltSrc a.s1 a.ty fS1, fltSrc a.s2 a.ty fS2], fltHolds a.cc a.neg1 a.neg2)],
      (∀ l ∈ c.is.eff, v.2.1.all (c.sourceReady none l) = true ∧
        (c.values none v.2.1 l).any Src.poison = false) →
      exec v.1 s = .next ((c.advance false c.is.lanes).setPreds c.gid p
        (c.is.eff.map fun l => (l, v.2.2 (c.values none v.2.1 l))))) ∧
    (b.pd = .p p → ∀ v ∈ [(Instr.cmpImm b, [intSrc b.s1 b.ty fS1, intSrc .imm b.ty fImm], intHolds b.ty b.cc),
        (.fcmpImm b, [fltSrc b.s1 b.ty fS1, fltSrc .imm b.ty fImm], fltHolds b.cc false false)],
      (∀ l ∈ c.is.eff, v.2.1.all (c.sourceReady (some b.imm) l) = true ∧
        (c.values (some b.imm) v.2.1 l).any Src.poison = false) →
      exec v.1 s = .next ((c.advance false c.is.lanes).setPreds c.gid p
        (c.is.eff.map fun l => (l, v.2.2 (c.values (some b.imm) v.2.1 l)))))

/-! ## Class 4: vector floats (R302 to R310) -/

/-- The float instructions round an exact result once (R62, R302, R304 to R309), where no shadow unit reports a
divergence. Values are whole numbers over a power of two that is low enough. A value that does not overflow becomes the one
of the format's finite values that the mode chooses (R53), with its own sign; one that overflows becomes the code of R54, with
SAT and without. Sums and products are exact; an exact sum of zero is -0 under RD alone, NaN, ∞ - ∞ and 0 × ∞ give NaN, and
`fmin` and `fmax` put -0 below +0 and let a NaN give way (R302). The root is rounded as the exact root is (R304), and `frnd`
chooses a whole number by the mode (R305). -/
def Obligations.FloatResults : Prop :=
  (∀ (s : State) (c : Ctx) (a : VArgs) (b : VIArgs), s.RunsIn c → c.unshadowed = true →
    (a.ty.count = 2 → c.Performs s (vForm a (.fcmul a) 1 [f1 a.s1 a.ty, f2 a.s2 a.ty] (fcmulRes a))) ∧
    ∀ v ∈ [vForm a (.fadd a) 1 [f1 a.s1 a.ty, f2 a.s2 a.ty] (flt2Res a (ExactNum.add (a.rnd == .rd))),
        vForm a (.fsub a) 1 [f1 a.s1 a.ty, f2 a.s2 a.ty] (flt2Res a fun x y => ExactNum.add (a.rnd == .rd) x y.neg),
        vForm a (.fmul a) 1 [f1 a.s1 a.ty, f2 a.s2 a.ty] (flt2Res a ExactNum.mul),
        vForm a (.fmin a) 1 [f1 a.s1 a.ty, f2 a.s2 a.ty] (flt2Res a ExactNum.min),
        vForm a (.fmax a) 1 [f1 a.s1 a.ty, f2 a.s2 a.ty] (flt2Res a ExactNum.max),
        viForm b (.faddImm b) 1 [f1 b.s1 b.ty, fltImm b.ty] (flt2ImmRes b (ExactNum.add (b.rnd == .rd))),
        viForm b (.fsubImm b) 1 [f1 b.s1 b.ty, fltImm b.ty] (flt2ImmRes b fun x y => ExactNum.add (b.rnd == .rd) x y.neg),
        viForm b (.fmulImm b) 1 [f1 b.s1 b.ty, fltImm b.ty] (flt2ImmRes b ExactNum.mul),
        viForm b (.fminImm b) 1 [f1 b.s1 b.ty, fltImm b.ty] (flt2ImmRes b ExactNum.min),
        viForm b (.fmaxImm b) 1 [f1 b.s1 b.ty, fltImm b.ty] (flt2ImmRes b ExactNum.max),
        vForm a (.fma a) 1 [f1 a.s1 a.ty, f2 a.s2 a.ty, f3 a.s3 a.ty] (fmaRes a.ty a.rnd a.sat a.neg1 a.neg2),
        viForm b (.fmaImm b) 1 [f1 b.s1 b.ty, f2 b.s2 b.ty, fltImm b.ty] (fmaRes b.ty b.rnd b.sat false false),
        vForm a (.fscale a) 1 [f1 a.s1 a.ty, fltSrc a.s2 (scaleType a.ty) fS2] (scaleRes a.ty a.rnd a.sat),
        viForm b (.fscaleImm b) 1 [f1 b.s1 b.ty, fltImm (scaleType b.ty)] (scaleRes b.ty b.rnd b.sat),
        vForm a (.fdot2 a) 1 [f1 a.s1 a.ty, f2 a.s2 a.ty, f3 a.s3 .f32] (fdot2Res a.ty a.rnd a.sat a.neg1 a.neg2),
        viForm b (.fdot2Imm b) 1 [f1 b.s1 b.ty, f2 b.s2 b.ty, fltImm .f32] (fdot2Res b.ty b.rnd b.sat false false),
        vForm a (.fsqrt a) 1 [f1 a.s1 a.ty] (fnRes a fun x => roundFloat a.ty a.rnd a.sat (fsqrtOf (floatOf a.ty x))),
        vForm a (.frnd a) 1 [f1 a.s1 a.ty]
          (fnRes a fun x => roundFloat a.ty .rne false (integral a.rnd (floatOf a.ty x)))],
      c.Performs s v) ∧
  (∀ t ∈ floatTys, ∀ (mode : Rnd) (sat : Bool),
    (∀ m e k : Int, m ≠ 0 → k ≤ e → k ≤ -149 →
      let v := m * 2 ^ (e - k).toNat
      let y := roundFloat t mode sat (.fin m e)
      (¬ Overflows t mode k v → Chosen t mode k v y ∧ y.testBit (elemBits t - 1) = decide (m < 0)) ∧
      (Overflows t mode k v → y = overflowCode t sat (decide (m < 0)))) ∧
    roundFloat t mode sat .nan = canonNan t ∧ (∀ neg, roundFloat t mode sat (.zero neg) = signBit t neg) ∧
    (∀ neg, t ≠ .e4m3 → roundFloat t mode sat (.inf neg) = infCode t + signBit t neg)) ∧
  (∀ (t : Ty) (neg : Bool),
    overflowCode t true neg = maxFinite t + signBit t neg ∧
    (t = .e4m3 → overflowCode t false neg = 0x7F) ∧
    (t ≠ .e4m3 → overflowCode t false neg = infCode t + signBit t neg)) ∧
  [Ty.f32, .f16, .bf16, .e4m3, .e5m2].map maxFinite = [0x7F7FFFFF, 0x7BFF, 0x7F7F, 0x7E, 0x7B] ∧
  [Ty.f32, .f16, .bf16, .e5m2].map infCode = [0x7F800000, 0x7C00, 0x7F80, 0x7C] ∧
  (∀ (rd : Bool) (m₁ e₁ m₂ e₂ k : Int), m₁ ≠ 0 → m₂ ≠ 0 → k ≤ e₁ → k ≤ e₂ →
    let v := m₁ * 2 ^ (e₁ - k).toNat + m₂ * 2 ^ (e₂ - k).toNat
    (v = 0 → ExactNum.add rd (.fin m₁ e₁) (.fin m₂ e₂) = .zero rd) ∧
    (v ≠ 0 → ∃ m e, ExactNum.add rd (.fin m₁ e₁) (.fin m₂ e₂) = .fin m e ∧ m ≠ 0 ∧ k ≤ e ∧
      m * 2 ^ (e - k).toNat = v) ∧
    ExactNum.mul (.fin m₁ e₁) (.fin m₂ e₂) = .fin (m₁ * m₂) (e₁ + e₂) ∧
    (ExactNum.lt (.fin m₁ e₁) (.fin m₂ e₂) = true ↔ m₁ * 2 ^ (e₁ - k).toNat < m₂ * 2 ^ (e₂ - k).toNat)) ∧
  (∀ (rd a b : Bool) (x : ExactNum),
    ExactNum.add rd .nan x = .nan ∧ ExactNum.add rd x .nan = .nan ∧
    ExactNum.add rd (.inf a) (.inf b) = (if a = b then .inf a else .nan) ∧
    ExactNum.add rd (.zero a) (.zero b) = (if a = b then .zero a else .zero rd) ∧
    ExactNum.mul .nan x = .nan ∧ ExactNum.mul x .nan = .nan ∧
    ExactNum.mul (.inf a) (.zero b) = .nan ∧ ExactNum.mul (.zero b) (.inf a) = .nan ∧
    ExactNum.mul (.inf a) (.inf b) = .inf (a != b) ∧ ExactNum.mul (.zero a) (.zero b) = .zero (a != b)) ∧
  (∀ (rd a b : Bool) (m e : Int), m ≠ 0 →
    ExactNum.add rd (.inf a) (.fin m e) = .inf a ∧ ExactNum.add rd (.fin m e) (.inf a) = .inf a ∧
    ExactNum.add rd (.inf a) (.zero b) = .inf a ∧ ExactNum.add rd (.zero b) (.inf a) = .inf a ∧
    ExactNum.add rd (.zero a) (.fin m e) = .fin m e ∧ ExactNum.add rd (.fin m e) (.zero a) = .fin m e ∧
    ExactNum.mul (.inf a) (.fin m e) = .inf (a != decide (m < 0)) ∧
    ExactNum.mul (.fin m e) (.inf a) = .inf (a != decide (m < 0)) ∧
    ExactNum.mul (.zero a) (.fin m e) = .zero (a != decide (m < 0)) ∧
    ExactNum.mul (.fin m e) (.zero a) = .zero (a != decide (m < 0)) ∧
    ExactNum.neg (.fin m e) = .fin (-m) e ∧ ExactNum.neg (.inf a) = .inf (!a) ∧ ExactNum.neg (.zero a) = .zero (!a)) ∧
  (∀ x : ExactNum, ExactNum.min .nan x = x ∧ ExactNum.min x .nan = x ∧ ExactNum.max .nan x = x ∧
    ExactNum.max x .nan = x) ∧
  (∀ a b : Bool,
    ExactNum.min (.zero a) (.zero b) = .zero (a || b) ∧ ExactNum.max (.zero a) (.zero b) = .zero (a && b) ∧
    ExactNum.min (.inf a) (.inf b) = .inf (a || b) ∧ ExactNum.max (.inf a) (.inf b) = .inf (a && b)) ∧
  (∀ (a b : Bool) (m e : Int), m ≠ 0 →
    (∀ x ∈ [ExactNum.fin m e, .zero b],
      ExactNum.min x (.inf a) = (if a then .inf a else x) ∧ ExactNum.min (.inf a) x = (if a then .inf a else x) ∧
      ExactNum.max x (.inf a) = (if a then x else .inf a) ∧ ExactNum.max (.inf a) x = (if a then x else .inf a)) ∧
    ExactNum.min (.fin m e) (.zero b) = (if m < 0 then .fin m e else .zero b) ∧
    ExactNum.min (.zero b) (.fin m e) = (if m < 0 then .fin m e else .zero b) ∧
    ExactNum.max (.fin m e) (.zero b) = (if m < 0 then .zero b else .fin m e) ∧
    ExactNum.max (.zero b) (.fin m e) = (if m < 0 then .zero b else .fin m e)) ∧
  (∀ (m₁ e₁ m₂ e₂ : Int), m₁ ≠ 0 → m₂ ≠ 0 →
    let x := ExactNum.fin m₁ e₁
    let y := ExactNum.fin m₂ e₂
    (ExactNum.lt x y = true → ExactNum.min x y = x ∧ ExactNum.min y x = x ∧ ExactNum.max x y = y ∧
      ExactNum.max y x = y)) ∧
  (∀ t ∈ [Ty.f32, .f16, .bf16], ∀ (mode : Rnd) (sat : Bool) (x : Nat) (m e k : Int), x < 2 ^ elemBits t →
    floatOf t x = .fin m e → k ≤ -149 →
    let y := roundFloat t mode sat (fsqrtOf (floatOf t x))
    let val := fun z => (floatOf t z).over k
    let v := m * 2 ^ (e - 2 * k).toNat
    (m < 0 → y = canonNan t) ∧
    (0 < m → finiteCode t y ∧ 0 ≤ val y ∧
      (mode = .rd ∨ mode = .rz → val y * val y ≤ v ∧
        ∀ z, finiteCode t z → 0 ≤ val z → val z * val z ≤ v → val z ≤ val y) ∧
      (mode = .ru → v ≤ val y * val y ∧ ∀ z, finiteCode t z → 0 ≤ val z → v ≤ val z * val z → val y ≤ val z) ∧
      (mode = .rne → ∀ z, finiteCode t z → 0 ≤ val z →
        (val z < val y → (val y + val z) * (val y + val z) < 4 * v) ∧
        (val y < val z → 4 * v < (val y + val z) * (val y + val z))))) ∧
  (∀ neg, fsqrtOf (.zero neg) = .zero neg ∧ fsqrtOf (.inf neg) = if neg then .nan else .inf neg) ∧
  fsqrtOf .nan = .nan ∧
  ∀ (mode : Rnd) (m e : Int),
    (0 ≤ e → roundInt mode m e = m * 2 ^ e.toNat) ∧
    (e < 0 → RoundsTo mode m (2 ^ (-e).toNat) (roundInt mode m e)) ∧
    integral mode (.fin m e) =
      (if roundInt mode m e = 0 then .zero (decide (m < 0)) else .fin (roundInt mode m e) 0) ∧
    ∀ neg, integral mode (.zero neg) = .zero neg ∧ integral mode (.inf neg) = .inf neg ∧ integral mode .nan = .nan

/-- The functions whose results R304 bounds and does not fix, and `fclass` (R306), which the shadow unit does not
check: each completes wherever its operands are ready. The results of the functions for NaN, zeros, infinities and
negative arguments, and of `flog2` for 1, are those of R304's table; any other result of `frcp` in f32 is a free value among
the codes that the model computes from the bound (log 2). An f16 or bf16 element takes the result for its value in f32,
rounded to nearest. -/
def Obligations.FloatFunctionsComplete : Prop :=
  (∀ (s : State) (c : Ctx) (a : VArgs), s.RunsIn c →
    (c.unshadowed = true →
      ∀ v ∈ [vForm a (.frcp a) 1 [f1 a.s1 a.ty] (fnRes a (approxElem .rcp a.ty a.sat)),
        vForm a (.frsq a) 1 [f1 a.s1 a.ty] (fnRes a (approxElem .rsq a.ty a.sat)),
        vForm a (.fexp2 a) 1 [f1 a.s1 a.ty] (fnRes a (approxElem .exp2 a.ty a.sat)),
        vForm a (.flog2 a) 1 [f1 a.s1 a.ty] (fnRes a (approxElem .log2 a.ty a.sat)),
        vForm a (.fsin a) 1 [f1 a.s1 a.ty] (fnRes a (approxElem .sin a.ty a.sat)),
        vForm a (.fcos a) 1 [f1 a.s1 a.ty] (fnRes a (approxElem .cos a.ty a.sat))], c.Performs s v) ∧
    c.Performs s (vForm a (.fclass a) 1 [f1 a.s1 a.ty] (classRes a.ty))) ∧
  (∀ (t : Ty) (sat : Bool) (x : Nat), t ∈ [Ty.f32, .f16, .bf16] →
    (floatOf t x = .nan → ∀ f ∈ [Approx.rcp, .rsq, .exp2, .log2, .sin, .cos], approxElem f t sat x = canonNan t) ∧
    (∀ neg, floatOf t x = .zero neg →
      approxElem .rcp t sat x = infCode t + signBit t neg ∧ approxElem .rsq t sat x = infCode t + signBit t neg ∧
      approxElem .log2 t sat x = infCode t + signBit t true ∧ approxElem .sin t sat x = signBit t neg ∧
      approxElem .cos t sat x = roundFloat t .rne sat (.fin 1 0)) ∧
    (∀ neg, floatOf t x = .inf neg →
      approxElem .rcp t sat x = signBit t neg ∧ approxElem .rsq t sat x = (if neg then canonNan t else 0) ∧
      approxElem .exp2 t sat x = (if neg then 0 else infCode t) ∧
      approxElem .log2 t sat x = (if neg then canonNan t else infCode t) ∧
      approxElem .sin t sat x = canonNan t ∧ approxElem .cos t sat x = canonNan t) ∧
    (∀ m e : Int, floatOf t x = .fin m e → m < 0 →
      approxElem .rsq t sat x = canonNan t ∧ approxElem .log2 t sat x = canonNan t) ∧
    (floatOf t x = floatOf t (roundFloat t .rne false (.fin 1 0)) → approxElem .log2 t sat x = 0)) ∧
  [Ty.f32, .f16, .bf16].map (fun t => roundFloat t .rne false (.fin 1 0)) = [0x3F800000, 0x3C00, 0x3F80] ∧
  (∀ (x : Nat) (m e : Int), x < 2 ^ 32 → floatOf .f32 x = .fin m e →
    let v := if m < 0 then (recipOf m.natAbs e).neg else recipOf m.natAbs e
    ∃ k, (resultRange v 1 (ulpExp v)).1 ≤ k ∧
      (k ≤ (resultRange v 1 (ulpExp v)).2 ∨ k = (resultRange v 1 (ulpExp v)).1) ∧
      approxElem .rcp .f32 false x = unrankF32 k) ∧
  (∀ (f : Approx) (t : Ty) (x : Nat) (m e : Int), t ∈ [Ty.f16, .bf16] → x < 2 ^ elemBits t → floatOf t x = .fin m e →
    ∃ w, w < 2 ^ 32 ∧ (floatOf .f32 w).eqv (floatOf t x) = true ∧
      approxElem f t false x = roundFloat t .rne false (floatOf .f32 (approxElem f .f32 false w))) ∧
  ∀ (t : Ty) (x : Nat), t ∈ [Ty.f32, .f16, .bf16] → x < 2 ^ elemBits t → ∀ i,
    (classMask t x).testBit i =
      match floatOf t x with
      | .nan => i == 8
      | .inf neg => i == if neg then 0 else 7
      | .zero neg => i == if neg then 3 else 4
      | .fin m _ => i == if x / 2 ^ (floatFmt t).fbits % 2 ^ (floatFmt t).ebits = 0 then (if m < 0 then 2 else 5)
          else (if m < 0 then 1 else 6)

/-! ## Class 5 (R311 to R317) -/

/-- `cvt`, `cvtpk`, `unpk`, `tagget` (R312 to R315): an element is converted exactly under its scales and rounded
once. Its value is that of R49, R50 or R56 times 2 to the source scale less the destination scale (R58, R62); NaN and the
NaN scale give NaN, or 0 in an integer; an infinity gives R54's code or an end of the range; a finite value is rounded by the
mode, and clamped in an integer, or wrapped there from an integer without SAT (R312); in l6 it becomes the code whose
midpoints lie about it (R63). -/
def Obligations.ConversionsComplete : Prop :=
  (∀ (s : State) (c : Ctx) (a : VArgs), s.RunsIn c → c.unshadowed = true →
    (∀ st, Ty.ofCode a.func.toNat = st →
      let q : SrcReq := { o := a.s1, ty := st, field := fS1 }
      (∀ l ∈ c.is.eff, c.scaleReady l a.s2 = true ∧ (c.scaleValue l a.s2).1 ≠ 255) →
      (c.vecReady a.dst a.ty.regs none [q] = true →
        exec (.cvt a) s = .next (c.vecDone a.dst fun l =>
          cvtRes st a.ty a.rnd a.sat (c.scaleValue l a.s2) (c.values none [q] l))) ∧
      ((∀ l ∈ c.is.eff, a.dst.isReg = true ∧ c.within l a.dst (unpkRegs st a.ty) = true ∧
          regIndex a.dst % (if unpkRegs st a.ty ≤ 3 then 2 else 4) = 0 ∧ a.s1 ≠ .imm ∧
          c.mayWrite l a.dst (unpkRegs st a.ty) = true ∧ c.inBounds l a.s1 1 = true ∧
          c.sourceReady none l q = true ∧ st.regs = 1) →
        exec (.unpk a) s = .next (c.regDone a.dst fun l =>
          unpkRes st a.ty a.rnd a.sat (c.scaleValue l a.s2) (c.values none [q] l)))) ∧
    (∀ st, Ty.ofCode a.func.toNat = st →
      let qs : List SrcReq := [{ o := a.s1, ty := st, field := fS1 }, { o := a.s2, ty := st, field := fS2 }] ++
        (if a.ty.count = 2 then [] else [{ o := a.s3, ty := a.ty, field := fS3 }])
      c.vecReady a.dst 1 none qs = true →
      (∀ l ∈ c.is.eff, ∀ t ∈ (c.operand l a.s3 1 0).tags, a.ty.count = 2 ∨ t.scale = 127) →
      a.ty.regs = 1 →
      exec (.cvtpk a) s = .next (c.vecDone a.dst fun l =>
        cvtpkRes st a.ty a.rnd a.sat (c.values none qs l))) ∧
    ((∀ l ∈ c.is.eff, c.dstReady l a.dst 1 = true ∧ c.inBounds l a.s1 1 = true ∧
        c.readable l a.s1 1 = true ∧ (c.operand l a.s1 1 0).kind = .stored) →
      exec (.tagget a) s = .next (c.vecDone a.dst fun l =>
        VRes.of .n32 (tagWord ((c.operand l a.s1 1 0).tags.headD Tag.start)) false (Tag.of .n32)))) ∧
  (∀ (st dt : Ty) (rnd : Rnd) (sat : Bool) (ss sd : Byte) (x : Nat), dt ∈ floatTys ∨ dt ∈ intTys ∨ dt = .l6 →
    let y := convertElem st dt rnd sat ss sd x
    (ss = 255 ∨ valueOf st x = .nan → y = if dt ∈ intTys then 0 else canonNan dt) ∧
    (ss ≠ 255 →
      (∀ neg, valueOf st x = .zero neg → y = if dt ∈ floatTys then signBit dt neg else 0) ∧
      (∀ neg, valueOf st x = .inf neg →
        (dt ∈ floatTys → y = overflowCode dt sat neg) ∧
        (dt ∈ intTys → y < 2 ^ elemBits dt ∧
          intOf dt y = if neg then intMin dt.signed (elemBits dt) else intMax dt.signed (elemBits dt)) ∧
        (dt = .l6 → y = if neg then 63 else 31)) ∧
      (∀ m e : Int, valueOf st x = .fin m e → m ≠ 0 →
        let e' := e + ((ss.toNat : Int) - sd.toNat)
        (dt ∈ floatTys → y = roundFloat dt rnd sat (.fin m e')) ∧
        (dt ∈ intTys → y < 2 ^ elemBits dt ∧ ∃ q : Int, (0 ≤ e' → q = m * 2 ^ e'.toNat) ∧
          (e' < 0 → RoundsTo rnd m (2 ^ (-e').toNat) q) ∧
          (sat = true ∨ st ∉ intTys → intOf dt y =
            max (intMin dt.signed (elemBits dt)) (min (intMax dt.signed (elemBits dt)) q)) ∧
          (sat = false → st ∈ intTys → (y : Int) = q % 2 ^ elemBits dt)) ∧
        (dt = .l6 → ∃ k, k ≤ 31 ∧ y = (if k = 0 then 0 else if m < 0 then k + 32 else k) ∧
          ∀ n : Nat, 33 ≤ n → 0 ≤ 8 * e' + n →
            (0 < k → 2 ^ (2 * k + n - 33) < m.natAbs ^ 8 * 2 ^ (8 * e' + n).toNat) ∧
            (k < 31 → m.natAbs ^ 8 * 2 ^ (8 * e' + n).toNat ≤ 2 ^ (2 * k + n - 31)))))) ∧
  (∀ (t : Ty) (x : Nat), t ∈ intTys → valueOf t x = if intOf t x = 0 then .zero false else .fin (intOf t x) 0) ∧
  (∀ x, x < 64 → valueOf .l6 x =
    if x = 0 then .zero false else if x = 32 then .nan
    else
      let q : Int := (x % 32 : Nat) - 16
      let t : Int := [4194304, 4987896, 5931642, 7053950].getD (q % 4).toNat 0
      .fin (if 32 ≤ x then -t else t) (q / 4 - 22)) ∧
  ∀ p ∈ ([(.f32, 8, 23, 127), (.f16, 5, 10, 15), (.bf16, 8, 7, 127), (.e4m3, 4, 3, 7), (.e5m2, 5, 2, 15)] :
      List (Ty × Nat × Nat × Nat)),
    ∀ s e m : Nat, s < 2 → e < 2 ^ p.2.1 → m < 2 ^ p.2.2.1 →
      let v := valueOf p.1 ((s * 2 ^ p.2.1 + e) * 2 ^ p.2.2.1 + m)
      let sgn := fun n : Int => if s = 1 then -n else n
      (p.1 = .e4m3 → e = 15 → m = 7 → v = .nan) ∧
      (p.1 ≠ .e4m3 → e = 2 ^ p.2.1 - 1 → v = if m = 0 then .inf (s == 1) else .nan) ∧
      (e = 0 → v = if m = 0 then .zero (s == 1) else .fin (sgn m) (1 - (p.2.2.2 : Int) - p.2.2.1)) ∧
      (0 < e → (if p.1 = .e4m3 then e < 15 ∨ m < 7 else e < 2 ^ p.2.1 - 1) →
        v = .fin (sgn (2 ^ p.2.2.1 + m : Nat)) ((e : Int) - p.2.2.2 - p.2.2.1))

/-- `tagset` gives the named registers a new format tag, with the scale of its operand and the valid bit of its FUNC, in
the columns of the active lanes; an element keeps its bits, and its poison unless the scale operand is poisoned (R311,
R315). Nothing else of the group's registers, no other fibre's place and no byte changes. Loads in flight to a named
register land first (R72): the values are stated where there are none. -/
def Obligations.TagsetCompletes : Prop :=
  ∀ (s : State) (c : Ctx) (a : VArgs), s.RunsIn c → (∀ l ∈ c.is.eff, c.retagReady l a = true) →
    ∃ t g, exec (.tagset a) s = .next t ∧ t.groups.find? c.gid = some g ∧ c.Moved t ∧ c.Alone t ∧
      c.s.SameMemory t ∧
      (c.g.flights = [] → (∀ l ∈ c.is.eff, l < 64) →
        (∀ l ∈ c.is.eff, ∀ r ∈ c.regsAt l a.dst a.ty.regs,
          g.tag r l = { fmt := a.ty, valid := a.func == 0, scale := (c.scaleValue l a.s1).1 } ∧
          g.elem r l = { c.g.elem r l with poison := (c.g.elem r l).poison || (c.scaleValue l a.s1).2 }) ∧
        (∀ r l, l < 64 → (∀ m ∈ c.is.eff, r ∈ c.regsAt m a.dst a.ty.regs → m / 8 ≠ l / 8) →
          g.tag r l = c.g.tag r l) ∧
        (∀ r l, l < 64 → (l ∈ c.is.eff → r ∉ c.regsAt l a.dst a.ty.regs) → g.elem r l = c.g.elem r l) ∧
        g.nearValid = c.g.nearValid ∧ g.k = c.g.k ∧ g.c = c.g.c)

/-- Movement across lanes and reductions (R316, R317). The source lane of a mode is the table's, and a lane's own where that is
out of range; a register is read there in the row of the reading lane's window, as it stood before a write of this cycle's
first slot, and a near register must be valid there. Integers are reduced exactly, then wrapped or clamped; a float sum is
the exact sum rounded once, an exact zero +0; the least and the greatest follow `fmin` and `fmax`; an empty set gives the
identity. -/
def Obligations.LaneMovementsComplete : Prop :=
  (∀ (s : State) (c : Ctx) (a : VArgs) (x : Nat → Src), s.RunsIn c →
    ((∀ l ∈ c.is.eff, c.moveReady l a = true ∧
        (∀ j < a.ty.regs, ∀ k ∈ c.is.eff, ∀ m ∈ c.is.eff, ∀ t ∈ c.columnTags k a.s1 j,
          ∀ u ∈ c.columnTags m a.s1 j, t = u) ∧
        c.readFrom l a.s1 a.ty.regs
          ((shflLane a.func c.g.width l (c.laneOperand l a).low.bits.toNat).getD l) = .ok (x l) ∧
        (x l).accepted a.ty true = true) →
      exec (.shfl a) s = .next (c.writeVec a.dst
        (c.is.eff.map fun l => (l, moved a.ty (x l) (c.laneOperand l a)))
        ((c.advance false c.is.lanes).tookLatch a.s1))) ∧
    ((∀ l ∈ c.is.eff, c.moveReady l a = true ∧ batchOperand a.s2 = true ∧
        (c.laneOperand l a).low.bits.toNat < c.g.width ∧
        c.readFrom l a.s1 a.ty.regs (c.laneOperand l a).low.bits.toNat = .ok (x l) ∧
        (x l).accepted a.ty true = true) →
      exec (.bcast a) s = .next (c.writeVec a.dst
        (c.is.eff.map fun l => (l, moved a.ty (x l) (c.laneOperand l a)))
        ((c.advance false c.is.lanes).tookLatch a.s1))) ∧
    (let q : SrcReq := { o := a.s1, ty := a.ty, field := fS1, scaled := true }
     c.vecReady a.dst a.ty.regs none [q] = true →
     let xs := c.is.eff.map fun l => (l, c.operand l a.s1 a.ty.regs 0)
     exec (.vred a) s = .next (c.vecDone a.dst fun _ =>
       reduceRes a (xs.any fun y => y.2.nanScale) (xs.map (·.2))) ∧
     exec (.vscan a) s = .next (c.vecDone a.dst fun l =>
       reduceRes a (xs.any fun y => y.2.nanScale)
         ((xs.filter fun y => y.1 < l || (y.1 == l && !a.func.getLsbD 3)).map (·.2))))) ∧
  (∀ width l b : Nat,
    shflLane 0 width l b = (if b < width then some b else none) ∧
    shflLane 1 width l b = (if b ≤ l ∧ l - b < width then some (l - b) else none) ∧
    shflLane 2 width l b = (if l + b < width then some (l + b) else none) ∧
    shflLane 3 width l b = (if l ^^^ b < width then some (l ^^^ b) else none)) ∧
  (∀ (c : Ctx) (l n j : Nat) (o : Opnd), o.isReg = true → o.isUniform = false →
    let rows := c.regsAt l o n
    let now := c.s.cyclesOf c.g.core
    let old := fun (r : Reg) => c.g.old.find? fun x => x.cycle == now && x.reg == r && x.lane == j
    (∀ r ∈ rows, c.is.slot = 0 ∨ (∀ x ∈ c.g.old, x.reg = r → x.cycle ≠ now) →
      c.seen r j = (c.g.elem r j, c.g.nearOk r j) ∧ c.seenTag r j = c.g.tag r j) ∧
    (∀ r x, c.is.slot ≠ 0 → old r = some x → c.seen r j = (x.elem, x.valid)) ∧
    ((∀ r ∈ rows, (c.seen r j).2 = true) →
      c.readFrom l o n j = .ok { elems := rows.map fun r => (c.seen r j).1, tags := rows.map fun r => c.seenTag r j
                                 kind := .stored }) ∧
    ((∃ r ∈ rows, (c.seen r j).2 = false) →
      c.readFrom l o n j = .error (.fault { code := 0x05, addr := BitVec.ofNat 64 o.code, operand := fS1 }))) ∧
  (∀ (t : Ty) (sat : Bool) (xs : List Nat) (x : Nat), t ∈ intTys → (∀ y ∈ x :: xs, y < 2 ^ elemBits t) →
    (reduceInt t false 0 xs : Int) = (xs.map (intOf t)).sum % 2 ^ elemBits t ∧
    intOf t (reduceInt t true 0 xs) =
      max (intMin t.signed (elemBits t)) (min (intMax t.signed (elemBits t)) (xs.map (intOf t)).sum) ∧
    (∀ p ∈ [(1, vMin t, if t.signed then 2 ^ (elemBits t - 1) - 1 else 2 ^ elemBits t - 1),
        (2, vMax t, if t.signed then 2 ^ (elemBits t - 1) else 0),
        (3, fun a b => a &&& b, 2 ^ elemBits t - 1), (4, fun a b => a ||| b, 0), (5, fun a b => a ^^^ b, 0)],
      reduceInt t sat p.1 [] = p.2.2 ∧ reduceInt t sat p.1 (xs ++ [x]) = p.2.1 (reduceInt t sat p.1 xs) x)) ∧
  ∀ (t : Ty) (rnd : Rnd) (xs : List Nat), t ∈ [Ty.f32, .f16, .bf16] → (∀ y ∈ xs, y < 2 ^ elemBits t) →
    let vs := xs.map (floatOf t)
    (∀ k : Int, k ≤ -149 → (∀ y ∈ xs, finiteCode t y) →
      let v := (vs.map (ExactNum.over k)).sum
      reduceFlt t rnd 0 xs = if v = 0 then 0 else roundFloat t rnd false (.fin v k)) ∧
    (.nan ∈ vs ∨ (.inf false ∈ vs ∧ .inf true ∈ vs) → reduceFlt t rnd 0 xs = canonNan t) ∧
    (∀ neg, .inf neg ∈ vs → .inf (!neg) ∉ vs → .nan ∉ vs → reduceFlt t rnd 0 xs = infCode t + signBit t neg) ∧
    (xs = [] → reduceFlt t rnd 1 xs = infCode t ∧ reduceFlt t rnd 2 xs = infCode t + signBit t true) ∧
    (xs ≠ [] → (∀ v ∈ vs, v = .nan) → reduceFlt t rnd 1 xs = canonNan t ∧ reduceFlt t rnd 2 xs = canonNan t) ∧
    ((∃ v ∈ vs, v ≠ .nan) →
      (∃ y ∈ xs, reduceFlt t rnd 1 xs = y ∧ floatOf t y ≠ .nan ∧ ∀ z ∈ vs, ExactNum.min (floatOf t y) z = floatOf t y) ∧
      ∃ y ∈ xs, reduceFlt t rnd 2 xs = y ∧ floatOf t y ≠ .nan ∧ ∀ z ∈ vs, ExactNum.max (floatOf t y) z = floatOf t y)

/-! ## Class 1: uniform instructions (R281 to R286) -/

/-- A class 1 instruction computes one value: in group code it writes k registers, in Stoker code s registers of its stream
(R38, R84, R281, R282). -/
def Obligations.UniformResults : Prop :=
  (∀ (s : State) (c : Ctx) (a : VArgs) (b : VIArgs), s.RunsIn c → ∀ u ∈ uniForms a b, c.PerformsUni s u) ∧
  (∀ (s : State) (c : SCtx) (a : VArgs) (b : VIArgs), s.Streams c → ∀ u ∈ uniForms a b, c.PerformsUni s u)

/-- `kcmp`, `ksel` and `kli` (R283 to R285): a compare writes the same bit for every lane of its effect, a select takes the
source that the lowest lane's predicate chooses; in Stoker code they act on the stream's predicates and scalars. -/
def Obligations.UniformComparesAndSelects : Prop :=
  (∀ (s : State) (c : Ctx), s.RunsIn c →
      (∀ (a : CmpArgs) (p : BitVec 4), a.pd = .p p →
        (∀ l ∈ c.is.eff, c.mayWritePred l p = true ∧
          [a.s1, a.s2].all (c.uniSourceReady l a.ty false) = true ∧
          [a.s1, a.s2].all (fun o => !(c.uniValue l a.ty none o).poison) = true) →
        exec (.kcmp a) s = .next ((c.advance false c.is.lanes).setPreds c.gid p (c.is.eff.map fun l =>
          (l, intHolds a.ty a.cc ([a.s1, a.s2].map (c.uniValue l a.ty none)))))) ∧
      (∀ (a : CmpIArgs) (p : BitVec 4), a.pd = .p p →
        (∀ l ∈ c.is.eff, c.mayWritePred l p = true ∧ c.uniSourceReady l a.ty true a.s1 = true ∧
          (c.uniValue l a.ty (some a.imm) a.s1).poison = false) →
        exec (.kcmpImm a) s = .next ((c.advance false c.is.lanes).setPreds c.gid p (c.is.eff.map fun l =>
          (l, intHolds a.ty a.cc ([a.s1, .imm].map (c.uniValue l a.ty (some a.imm))))))) ∧
      (∀ a : VArgs,
        (∀ l ∈ c.is.eff, c.uniDstReady l a.ty a.dst = true ∧
          [a.s1, a.s2].all (c.uniSourceReady l a.ty false) = true) →
        exec (.ksel a) s = .next (c.regDone a.dst fun l =>
          let x := c.uniValue l a.ty none (if c.pred (c.is.eff.headD l) a.func then a.s1 else a.s2)
          VRes.of a.ty x.value x.poison (Tag.of a.ty))) ∧
      (∀ a : VFArgs,
        (∀ l ∈ c.is.eff, c.uniDstReady l a.ty a.dst = true ∧
          [a.s1, .imm].all (c.uniSourceReady l a.ty true) = true) →
        exec (.kselImm a) s = .next (c.regDone a.dst fun l =>
          let x := c.uniValue l a.ty (some a.imm) (if c.pred (c.is.eff.headD l) a.fn then a.s1 else .imm)
          VRes.of a.ty x.value x.poison (Tag.of a.ty))) ∧
      (∀ a : DImmArgs, immOk a.ty a.imm = true → (∀ l ∈ c.is.eff, c.uniDstReady l a.ty a.dst = true) →
        exec (.kli a) s = .next (c.regDone a.dst fun _ =>
          VRes.of a.ty (expandImm a.ty a.imm) false (Tag.of a.ty)))) ∧
  (∀ (s : State) (c : SCtx), s.Streams c →
      (∀ (a : CmpArgs) (p : BitVec 4), a.pd = .p p → sReady [a.s1, a.s2] false = true →
        (∀ o ∈ [a.s1, a.s2], (c.operand o a.ty 0).2 = false) →
        exec (.kcmp a) s = .next (c.advance.setStreamPred c.core p
          (compareInt a.cc (intOf a.ty (c.operand a.s1 a.ty 0).1.toNat)
            (intOf a.ty (c.operand a.s2 a.ty 0).1.toNat)))) ∧
      (∀ (a : CmpIArgs) (p : BitVec 4), a.pd = .p p → sReady [a.s1] false = true →
        (c.operand a.s1 a.ty 0).2 = false →
        exec (.kcmpImm a) s = .next (c.advance.setStreamPred c.core p
          (compareInt a.cc (intOf a.ty (c.operand a.s1 a.ty 0).1.toNat)
            (intOf a.ty (c.operand .imm a.ty (expandImm a.ty a.imm)).1.toNat)))) ∧
      (∀ a : VArgs, sDst a.dst = true → sReady [a.s1, a.s2] false = true →
        exec (.ksel a) s = .next (c.writeUni a.ty a.dst
          (c.operand (if predBit c.st.pred a.func then a.s1 else a.s2) a.ty 0) c.advance)) ∧
      (∀ a : VFArgs, sDst a.dst = true → sReady [a.s1] false = true →
        exec (.kselImm a) s = .next (c.writeUni a.ty a.dst
          (c.operand (if predBit c.st.pred a.fn then a.s1 else .imm) a.ty (expandImm a.ty a.imm)) c.advance)) ∧
      (∀ a : DImmArgs, sDst a.dst = true → immOk a.ty a.imm = true →
        exec (.kli a) s = .next (c.writeUni a.ty a.dst (expandImm a.ty a.imm, false) c.advance)))

/-! ## Class 2: predicates (R288 to R292) -/

/-- Predicate logic: p := g1 op g2 in each lane of the effect, with the fields that R289 reserves zero (R288,
R289). -/
def Obligations.PredicateLogicResults : Prop :=
  (∀ a : GArgs,
    (∀ i ∈ [Instr.pand a, .por a, .pxor a], i.legal = true ↔ a.func = 0 ∧ a.reg = .v 0) ∧
    ((Instr.pmov a).legal = true ↔ a.ps2 = 0 ∧ a.ng2 = false ∧ a.func = 0 ∧ a.reg = .v 0) ∧
    ((Instr.pnot a).legal = true ↔ a.ng1 = false ∧ a.ps2 = 0 ∧ a.ng2 = false ∧ a.func = 0 ∧ a.reg = .v 0)) ∧
  (let z : GArgs := { pd := 0, ps1 := 0, ps2 := 0, ng1 := false, ng2 := false, func := 0, reg := .v 0 }
   ∀ x ∈ [(0x080, Instr.pand z), (0x081, .por z), (0x082, .pxor z), (0x083, .pnot z), (0x084, .pmov z)],
     decode (BitVec.ofNat 64 (x.1 * 2 ^ 54)) = .ok x.2) ∧
  decode 0x200C_4900_0000_0000 =
    .ok (.pand { pd := 3, ps1 := 1, ps2 := 2, ng1 := false, ng2 := true, func := 0, reg := .v 0 }) ∧
  ∀ (s : State) (c : Ctx) (a : GArgs), s.RunsIn c → (∀ l ∈ c.is.eff, c.mayWritePred l a.pd = true) →
    ∀ p ∈ ([(.pand a, fun l => c.g1 a l && c.g2 a l), (.por a, fun l => c.g1 a l || c.g2 a l),
        (.pxor a, fun l => c.g1 a l != c.g2 a l), (.pnot a, fun l => !c.pred l a.ps1),
        (.pmov a, fun l => c.g1 a l)] : List (Instr × (Nat → Bool))),
      exec p.1 s = .next ((c.advance false c.is.lanes).setPreds c.gid a.pd
        (c.is.eff.map fun l => (l, p.2 l)))

/-- Reductions over the lanes of the effect, and moves between the predicate word and a register (R290 to
R292). Modes that do not exist are illegal instructions, and the fields that a mode does not use are reserved. `pmask`
refuses an operand that is no v, n or k register; `.set` takes a tag mismatch on other tags than n32, s32 and b32, consumes
poison, and takes the survivor fault where a write mask covers a survivor, each before a bit is written. -/
def Obligations.PredicateReductions : Prop :=
  (∀ a : GArgs,
    ((Instr.pvote a).legal = true ↔ a.func.toNat < 4 ∧ a.ps2 = 0 ∧ a.ng2 = false ∧
      (a.func.toNat < 2 → a.reg = .v 0) ∧ (2 ≤ a.func.toNat → a.pd = 0)) ∧
    ((Instr.pfirst a).legal = true ↔ a.func.toNat < 2 ∧ a.ps2 = 0 ∧ a.ng2 = false ∧ a.reg = .v 0) ∧
    ((Instr.pmask a).legal = true ↔ a.func.toNat < 2 ∧ a.pd = 0 ∧ a.ps1 = 0 ∧ a.ng1 = false ∧ a.ps2 = 0 ∧
      a.ng2 = false)) ∧
  (∀ w : Dword, (opcodeOf w = 0x085 ∧ 4 ≤ w.toNat / 2 ^ 36 % 16) ∨
      ((opcodeOf w = 0x086 ∨ opcodeOf w = 0x087) ∧ 2 ≤ w.toNat / 2 ^ 36 % 16) →
    encodingFault false w = some { code := 0x01, addr := w }) ∧
  (let z : GArgs := { pd := 0, ps1 := 0, ps2 := 0, ng1 := false, ng2 := false, func := 0, reg := .v 0 }
   ∀ x ∈ [(0x085, Instr.pvote z), (0x086, .pfirst z), (0x087, .pmask z)],
     decode (BitVec.ofNat 64 (x.1 * 2 ^ 54)) = .ok x.2) ∧
  decode 0x2140_402A_7800_0000 =
    .ok (.pvote { pd := 0, ps1 := 1, ps2 := 0, ng1 := false, ng2 := false, func := 2, reg := .u 30 }) ∧
  ∀ (s : State) (c : Ctx) (a : GArgs), s.RunsIn c →
    let holds := c.is.eff.filter (c.g1 a)
    let here := c.advance false c.is.lanes
    ((∀ l ∈ c.is.eff, c.mayWritePred l a.pd = true) →
      (a.func = 0 → exec (.pvote a) s = .next (here.setPreds c.gid a.pd
        (c.is.eff.map fun l => (l, decide (∃ k ∈ c.is.eff, c.g1 a k = true))))) ∧
      (a.func = 1 → exec (.pvote a) s = .next (here.setPreds c.gid a.pd
        (c.is.eff.map fun l => (l, decide (∀ k ∈ c.is.eff, c.g1 a k = true))))) ∧
      (a.func = 0 → exec (.pfirst a) s = .next (here.setPreds c.gid a.pd
        (c.is.eff.map fun l => (l, holds.head? == some l)))) ∧
      (a.func ≠ 0 → exec (.pfirst a) s = .next (here.setPreds c.gid a.pd
        (c.is.eff.map fun l => (l, holds.getLast? == some l))))) ∧
    ((∀ l ∈ c.is.eff, c.regReady l a.reg 2 = true) → a.func = 2 →
      exec (.pvote a) s = .next (c.regDone a.reg fun _ =>
        VRes.of .b64 (BitVec.ofNat 64 (holds.map fun l => 2 ^ l).sum) false (Tag.of .b64))) ∧
    ((∀ l ∈ c.is.eff, c.regReady l a.reg 1 = true) →
      (2 < a.func.toNat → exec (.pvote a) s = .next (c.regDone a.reg fun _ =>
        VRes.one holds.length false (Tag.of .n32))) ∧
      (a.func = 0 → exec (.pmask a) s = .next (c.regDone a.reg fun l =>
        VRes.one ((c.fibre? l).elim 0 fun f => f.pred.toNat) false (Tag.of .n32)))) ∧
    ((∀ l ∈ c.is.eff, a.reg.isReg = true ∧ c.inBounds l a.reg 1 = true ∧ c.readable l a.reg 1 = true ∧
        ((c.operand l a.reg 1 0).tags.all fun t => t.valid && (t.fmt == .s32 || t.fmt == .n32 || t.fmt == .b32)) =
          true ∧
        (c.operand l a.reg 1 0).poison = false ∧
        ((c.operand l a.reg 1 0).low.bits >>> 16).setWidth 16 &&&
          (((c.fibre? l).bind fun f => f.surv).elim 0#16 fun h => h.pmask) = 0#16) →
      a.func ≠ 0 → c.is.eff.Nodup →
      ∃ t, exec (.pmask a) s = .next t ∧ ∀ l ∈ c.is.eff, ∀ f, c.fibre? l = some f → l ∈ c.is.lanes →
        t.fibre? c.gid l = some { f.advance c.is.pc false with
          pred := maskPreds f.pred (c.operand l a.reg 1 0).low.bits }) ∧
    (∀ (old : BitVec 16) (x : Word) (i : Nat), i < 16 → (maskPreds old x).getLsbD i =
      if x.getLsbD (16 + i) then x.getLsbD i else old.getLsbD i) ∧
    (let takes := fun (f : Nat → LaneFault) => Host.Outcome.next
       ((c.advance false (c.is.lanes.filter fun l => !c.is.eff.contains l)).takeFaults c.gid c.is.pc
         (c.is.eff.map fun l => (l, f l)))
     let found := fun l => a.reg.isReg = true ∧ c.inBounds l a.reg 1 = true ∧ c.readable l a.reg 1 = true
     let tag := fun l => (c.operand l a.reg 1 0).tags.headD Tag.start
     let typed := fun l => a.reg.isUniform = true ∨
       ((tag l).valid = true ∧ (tag l).fmt ∈ [Ty.n32, .s32, .b32])
     (a.reg.isReg = false → exec (.pmask a) s = takes fun _ => { code := 0x02, operand := fDst }) ∧
     (a.func ≠ 0 → (∀ l ∈ c.is.eff, found l ∧ ¬ typed l) →
       exec (.pmask a) s = takes fun l => { code := 0x03, addr := tagWord (tag l), operand := fDst }) ∧
     let covers := fun l => ((c.operand l a.reg 1 0).low.bits >>> 16).setWidth 16 &&&
       (((c.fibre? l).bind fun f => f.surv).elim 0#16 fun h => h.pmask) ≠ 0#16
     let bad := c.is.eff.filter fun l => (c.operand l a.reg 1 0).poison
     (a.func ≠ 0 → c.is.eff.Nodup →
       (∀ l ∈ c.is.eff, found l ∧ typed l ∧ ((c.operand l a.reg 1 0).poison = true ∨ ¬ covers l)) →
       ∃ t : State, exec (.pmask a) s = .next (t.takeFaults c.gid c.is.pc (bad.map fun l =>
           (l, { code := 0x0E, detail := 4, operand := fDst, observed := (c.operand l a.reg 1 0).poisoned }))) ∧
         (∀ l ∈ bad, t.fibre? c.gid l = c.fibre? l) ∧
         ∀ l ∈ c.is.eff, l ∉ bad → ∀ f, c.fibre? l = some f → l ∈ c.is.lanes →
           t.fibre? c.gid l = some { f.advance c.is.pc false with
             pred := maskPreds f.pred (c.operand l a.reg 1 0).low.bits }) ∧
     (a.func ≠ 0 → (∀ l ∈ c.is.eff, found l ∧ typed l ∧ (c.operand l a.reg 1 0).poison = false) →
       (∃ l ∈ c.is.eff, covers l) →
       ∃ n < 16, exec (.pmask a) s = takes fun _ => { code := 0x04, addr := BitVec.ofNat 64 n, operand := fDst }))

/-! ## Class 0: control (R263 to R280) -/

/-- `nop` moves a batch, or a stream, on and does nothing else (R264). An instruction that may stand in a predicate
block and takes effect in no lane of its batch moves the batch on, and does besides only what its issue alone does
(R248): the instructions of classes 3 to 5 that reach the latches shift them (R22), and an access of class 6 that counts
in `vm` takes its unit, complete at once (R208). -/
def Obligations.NopAndSkippedLanes : Prop :=
  ∀ s : State,
    (∀ c, s.RunsIn c → exec .nop s = .next (c.advance false c.is.lanes)) ∧
    (∀ c, s.Streams c → exec .nop s = .next c.advance) ∧
    ∀ c, s.ctx? = some c → c.is.eff = [] →
      ∀ (a : VArgs) (b : VIArgs) (f : VFArgs) (m : MArgs) (d : LdcArgs) (t : TArgs) (g : GArgs) (p : CmpArgs)
        (q : CmpIArgs) (k : DImmArgs) (w : Opnd),
      let here := c.advance false c.is.lanes
      (∀ x ∈ [(Instr.mov a, a.ty.regs), (.add a, a.ty.regs), (.sub a, a.ty.regs), (.mul a, a.ty.regs),
          (.mulh a, a.ty.regs), (.mad a, a.ty.regs), (.min a, a.ty.regs), (.max a, a.ty.regs), (.abs a, a.ty.regs),
          (.neg a, a.ty.regs), (.and a, a.ty.regs), (.or a, a.ty.regs), (.xor a, a.ty.regs), (.not a, a.ty.regs),
          (.shl a, a.ty.regs), (.shr a, a.ty.regs), (.sar a, a.ty.regs), (.bfe a, a.ty.regs), (.bfi a, a.ty.regs),
          (.popc a, a.ty.regs), (.clz a, a.ty.regs), (.brev a, a.ty.regs), (.sel a, a.ty.regs), (.cvt a, a.ty.regs),
          (.shfl a, a.ty.regs), (.bcast a, a.ty.regs), (.vred a, a.ty.regs), (.vscan a, a.ty.regs), (.addc a, 2)],
        exec x.1 s = .next (c.pushLatches x.2 [] here)) ∧
      (∀ i ∈ [Instr.dot4 a, .cmul a, .cmac a, .fadd a, .fsub a, .fmul a, .fma a, .fmin a, .fmax a, .frcp a, .frsq a,
          .fsqrt a, .fexp2 a, .flog2 a, .fsin a, .fcos a, .frnd a, .fclass a, .fscale a, .fdot2 a, .fcmul a, .cvtpk a,
          .tagget a, .dot4Imm b, .faddImm b, .fsubImm b, .fmulImm b, .fmaImm b, .fminImm b, .fmaxImm b, .fscaleImm b,
          .fdot2Imm b],
        exec i s = .next (c.pushLatches 1 [] here)) ∧
      (∀ x ∈ [(Instr.movImm b, b.ty.regs), (.addImm b, b.ty.regs), (.subImm b, b.ty.regs), (.mulImm b, b.ty.regs),
          (.mulhImm b, b.ty.regs), (.madImm b, b.ty.regs), (.minImm b, b.ty.regs), (.maxImm b, b.ty.regs),
          (.andImm b, b.ty.regs), (.orImm b, b.ty.regs), (.xorImm b, b.ty.regs), (.shlImm b, b.ty.regs),
          (.shrImm b, b.ty.regs), (.sarImm b, b.ty.regs), (.bfeImm b, b.ty.regs), (.bfiImm b, b.ty.regs),
          (.addcImm b, 2), (.selImm f, f.ty.regs)],
        exec x.1 s = .next (c.pushLatches x.2 [] here)) ∧
      (∀ i ∈ [Instr.ld m, .st m, .ldc { d with data := .quad w }, .stc d, .pf m, .cwb m, .cinv m], exec i s = .next (idleUnit c here)) ∧
      (∀ i ∈ [Instr.nop, .kmov a, .kadd a, .ksub a, .kmul a, .kmulh a, .kand a, .kor a, .kxor a, .kshl a, .kshr a, .ksar a,
          .kmin a, .kmax a, .ksel a, .kbfe a, .kpopc a, .kclz a, .unpk a, .tagset a, .kaddImm b, .ksubImm b, .kmulImm b,
          .kmulhImm b, .kandImm b, .korImm b, .kxorImm b, .kshlImm b, .kshrImm b, .ksarImm b, .kminImm b, .kmaxImm b,
          .kbfeImm b, .kselImm f, .kcmp p, .cmp p, .fcmp p, .kcmpImm q, .cmpImm q, .fcmpImm q, .kld m, .kst m, .kli k,
          .ctrrd k, .srd k, .pand g, .por g, .pxor g, .pnot g, .pmov g, .pvote g, .pfirst g, .pmask g, .accrd t,
          .accwr t],
        exec i s = .next here) ∧
      ∀ (o : Opnd) (e : CgetArgs) (u : CtstArgs) (z : SImmArgs) (n : BitVec 16) (cs : BitVec 4) (ty : Ty),
        ∀ i ∈ [Instr.tstamp ty o, .cget e, .ctst u, .cmov (.qc o cs), .tlbinv z, .sleep n], exec i s = .next here

/-- Branches (R263, R265, R266): a fibre goes to its target, or to the next instruction where a conditional branch
is not taken; a stream's branch stays within its innermost loop (R353). -/
def Obligations.BranchesGo : Prop :=
  ∀ (s : State) (a : BraArgs),
    (∀ c, s.RunsOutside c →
      (∀ l ∈ c.is.lanes, braTaken a (c.pred l) = true → targetOk c.gr (c.is.pc.toNat + 8 * a.off.toInt) = true) →
      ∃ t, exec (.bra a) s = .next t ∧ c.Leaves t fun l f =>
        { f.advance c.is.pc false with
          pc := if braTaken a (c.pred l) then BitVec.ofNat 52 (c.is.pc.toNat + 8 * a.off.toInt).toNat
            else c.is.pc + 8 }) ∧
    (∀ c : SCtx, s.Streams c → braTaken a (predBit c.st.pred) = true →
      targetOk c.gr (c.is.pc.toNat + 8 * a.off.toInt) = true →
      (∀ l ∈ c.st.loops.head?, l.first.toNat ≤ (c.is.pc.toNat + 8 * a.off.toInt).toNat ∧
        (c.is.pc.toNat + 8 * a.off.toInt).toNat ≤ l.last.toNat) →
      ∃ t st, exec (.bra a) s = .next t ∧ (t.core c.core).stream = some st ∧
        st.pc = BitVec.ofNat 52 (c.is.pc.toNat + 8 * a.off.toInt).toNat ∧ st.loops = c.st.loops ∧
        st.s = c.st.s ∧ st.pred = c.st.pred) ∧
    (∀ c : SCtx, s.Streams c → braTaken a (predBit c.st.pred) = false → exec (.bra a) s = .next c.advance) ∧
    (∀ c (o : Opnd), s.RunsOutside c →
      (∀ l ∈ c.is.lanes, c.addressReady l o = true ∧ targetOk c.gr (c.address l o % 2 ^ 52 : Nat) = true) →
      ∃ t, exec (.brx o) s = .next t ∧ c.Leaves t fun l f =>
        { f.advance c.is.pc false with pc := BitVec.ofNat 52 (c.address l o) })

/-- `call` opens a window and puts the link into its first two rows, and `ret` goes back by a link (R267 to
R269). A header must follow both (R28). -/
def Obligations.CallsAndReturns : Prop :=
  ∀ (s : State) (c : Ctx), s.RunsOutside c →
    (∀ a : CallArgs, targetOk c.gr (c.is.pc.toNat + 8 * a.off.toInt) = true →
      (∀ l ∈ c.is.lanes, c.window l + a.frame.toNat ≤ 4095 ∧ c.window l + a.frame.toNat + 1 < c.g.vregs) →
      ∃ t g, exec (.call a) s = .next t ∧ t.groups.find? c.gid = some g ∧
        (c.Leaves t fun l f =>
          { f.advance c.is.pc true with
            wbase := BitVec.ofNat 12 (c.window l + a.frame.toNat)
            pc := BitVec.ofNat 52 (c.is.pc.toNat + 8 * a.off.toInt).toNat }) ∧
        ∀ l ∈ c.is.lanes,
          (g.elem (.v (c.window l + a.frame.toNat + 1)) l).bits ++ (g.elem (.v (c.window l + a.frame.toNat)) l).bits =
            a.frame ++ (0#2 ++ (c.is.pc + 8)) ∧
          (g.elem (.v (c.window l + a.frame.toNat)) l).poison = false ∧
          g.tag (.v (c.window l + a.frame.toNat)) l = Tag.of .b64) ∧
    (∀ o : Opnd,
      (∀ l ∈ c.is.lanes, c.addressReady l o = true ∧ c.address l o / 2 ^ 54 ≤ c.window l ∧
        targetOk c.gr (c.address l o % 2 ^ 52 : Nat) = true) →
      ∃ t, exec (.ret o) s = .next t ∧ c.Leaves t fun l f =>
        { f.advance c.is.pc true with
          wbase := BitVec.ofNat 12 (c.window l - c.address l o / 2 ^ 54)
          pc := BitVec.ofNat 52 (c.address l o) })

/-- `strand` opens a strand with its survivors and invalidates the near registers of its lanes (R25, R27, R270);
`pb` gives each fibre its predicate block (R248, R273). -/
def Obligations.StrandsAndBlocks : Prop :=
  ∀ (s : State) (c : Ctx), s.RunsOutside c →
    (∀ a : StrandArgs, headerInRange a = true →
      ∃ t g, exec (.strand a) s = .next t ∧ t.groups.find? c.gid = some g ∧
        (c.Leaves t fun _ f => { f.advance c.is.pc false with strand := c.is.pc, surv := some a }) ∧
        (∀ l ∈ c.is.lanes, ∀ i, g.nearOk (.n i) l = false) ∧
        ∀ l < 64, l ∉ c.is.lanes → ∀ i, g.nearOk (.n i) l = c.g.nearOk (.n i) l) ∧
    (∀ a : PbArgs, ∃ t, exec (.pb a) s = .next t ∧ c.Leaves t fun l f =>
      { f.advance c.is.pc false with
        block := some { left := a.count.toNat + 1, pattern := a.pattern, g := c.pred l a.pred != a.comp } })

/-- `fspawn` starts a fibre on the lowest idle lane and says in a predicate whether there was one; `fend` ends the
fibres of the batch and `exit` every fibre of the group (R14, R274 to R276, R280). -/
def Obligations.FibresStartAndEnd : Prop :=
  ∀ (s : State) (c : Ctx), s.RunsOutside c →
    (∀ (a : FspawnArgs) (l b : Nat), c.is.lanes = [l] → c.indexReady l a.base = true →
      (c.operand l a.base 1 0).poison = false → (c.operand l a.base 1 0).low.bits.toNat = b → b ≤ 4095 →
      b < c.g.vregs → targetOk c.gr (c.is.pc.toNat + 8 * a.off.toInt) = true →
      c.mayWritePred l a.status = true →
      ∃ t, exec (.fspawn a) s = .next t ∧
        (∀ j, c.idleLane = some j → ∃ f, t.fibre? c.gid j = some f ∧
          f.pc = BitVec.ofNat 52 (c.is.pc.toNat + 8 * a.off.toInt).toNat ∧ f.wbase = BitVec.ofNat 12 b ∧
          f.pred = 0 ∧ f.needHdr = true ∧ f.trapMask = 0 ∧ f.parked = none) ∧
        (∃ f, t.fibre? c.gid l = some f ∧ f.pc = c.is.pc + 8 ∧ f.needHdr = true ∧
          predBit f.pred a.status = c.idleLane.isSome)) ∧
    (∃ t, exec .fend s = .next t ∧ (∀ l ∈ c.is.lanes, t.fibre? c.gid l = none) ∧
      (∀ l, l ∉ c.is.lanes → t.fibre? c.gid l = c.fibre? l) ∧ c.Alone t ∧ c.s.SameMemory t) ∧
    (∃ t, exec .exit s = .next t ∧ (∀ l, t.fibre? c.gid l = none) ∧ c.Alone t)

/-- `pause`, `yield` and `sleep` make the batch wait until a cycle of its cluster or until TIME (R17, R272, R363);
a batch at `rcv` goes on with all the batches that it waits for, or waits for them at most 256 cycles (R271). -/
def Obligations.WaitsBegin : Prop :=
  ∀ (s : State) (c : Ctx), s.RunsOutside c →
    let now := (s.cluster (clusterOf c.g.core)).cycles.toNat
    (∀ n : BitVec 16, n ≠ 0 →
      (∃ t, exec (.pause n) s = .next t ∧
        c.Leaves t fun _ f => { f.advance c.is.pc false with wait := some (.paused (now + n.toNat)) }) ∧
      (∃ t, exec (.sleep n) s = .next t ∧
        c.Leaves t fun _ f => { f.advance c.is.pc false with wait := some (.sleeping (s.clock.time + 64 * n.toNat)) })) ∧
    (exec (.pause 0) s = .next (c.advance false c.is.lanes) ∧
      exec (.sleep 0) s = .next (c.advance false c.is.lanes)) ∧
    (∃ t, exec .yield s = .next t ∧
      c.Leaves t fun _ f => { f.advance c.is.pc true with wait := some (.yielded (now + 64)) }) ∧
    (c.g.rcvMet c.is.pc c.handler c.is.lanes = true → ∃ t, exec .rcv s = .next t ∧
      ∀ l f, c.fibre? l = some f → (l ∈ c.is.lanes ∨ (f.parked = none ∧ f.handler = c.handler)) →
        ∃ f', t.fibre? c.gid l = some f' ∧ f'.pc = c.is.pc + 8 ∧ f'.wait = none ∧ f'.pred = f.pred) ∧
    (c.g.rcvMet c.is.pc c.handler c.is.lanes = false →
      (∀ l f, l ∈ c.is.lanes → c.fibre? l = some f → ∀ n, f.wait ≠ some (.rcv n)) →
      ∃ t, exec .rcv s = .next t ∧
        c.Leaves t fun _ f => { f.advance c.is.pc false with pc := c.is.pc, wait := some (.rcv (now + 256)) })

/-- The four timers end a wait when its time has come, and no sooner; a polite request ends a sleep of a batch with a
header ahead of it (R17, R271, R272, R363). -/
def Obligations.TimersExpire : Prop :=
  ∀ (s : State) (gid : Nat) (g : Group) (ls : List Nat), s.groups.find? gid = some g → ls ≠ [] →
    let now := (s.cluster (clusterOf g.core)).cycles.toNat
    let waits := fun (p : Wait → Prop) => ∀ l ∈ ls, ∃ f w, g.fibres.find? l = some f ∧ f.parked = none ∧
      f.wait = some w ∧ p w
    let left := fun (t : State) (g' : Fibre → Fibre) =>
      t = s.setGroup gid (g.modFibres ls fun _ f => g' f)
    (waits (fun w => ∃ n, w = .rcv n ∧ n ≤ now) →
      ∃ t, exec (.rcvTimeout gid ls) s = .next t ∧ left t fun f => f.advance f.pc false) ∧
    (waits (fun w => ∃ n, w = .yielded n ∧ (n ≤ now ∨ s.othersIdle g.core gid ls = true)) →
      ∃ t, exec (.yieldExpiry gid ls) s = .next t ∧ left t fun f => { f with wait := none }) ∧
    (waits (fun w => ∃ n, w = .paused n ∧ n ≤ now) →
      ∃ t, exec (.pauseExpiry gid ls) s = .next t ∧ left t fun f => { f with wait := none }) ∧
    (∀ t gr, s.owners g = some (t, gr) → gr.polite t = false →
      waits (fun w => ∃ n, w = .sleeping n ∧ n ≤ s.clock.time) →
      ∃ u, exec (.sleepExpiry gid ls) s = .next u ∧ left u fun f => { f with wait := none }) ∧
    (∀ t gr, s.owners g = some (t, gr) → gr.polite t = true →
      (∀ l ∈ ls, ∃ f n, g.fibres.find? l = some f ∧ f.parked = none ∧ f.wait = some (.sleeping n) ∧
        s.headerAhead g.core gr ((gr.kernel.code.limit - f.pc.toNat) / 8 + 1) f.pc = true) →
      ∃ u, exec (.sleepExpiry gid ls) s = .next u ∧ left u fun f => { f with wait := none }) ∧
    ((∃ l ∈ ls, ∃ f n, g.fibres.find? l = some f ∧ f.wait = some (.paused n) ∧ now < n) →
      exec (.pauseExpiry gid ls) s = .refused (.notEnabled "PAUSE_EXPIRY"))

/-! ## Exceptions (R218 to R226, R277 to R279) -/

/-- The handler is entered (R206, R221 to R223): cause, pc, address and information of the fault are saved in the
trap registers of the fibre, further faults are masked, the resume point is the strand's start, and the fibre stands
at the handler, where a header must stand. Predicates and window stay as they were, and no other fibre and no byte
changes. -/
def Obligations.FaultEntersHandler : Prop :=
  ∀ (s : State) (gid lane : Nat) (g : Group) (t : Team) (gr : Grid) (f : Fibre) (pc h : Addr) (x : LaneFault),
    s.groups.find? gid = some g → s.teams.find? g.team = some t → s.grids.find? t.grid = some gr →
    g.fibres.find? lane = some f → x.code ≠ 0x0B → x.code ≠ 0x0E → f.trapMask.getLsbD 0 = false →
    s.handlerOf g gr x.code = some h → lane < 64 →
    let u := s.takeFault gid pc lane x
    ∃ f', u.fibre? gid lane = some f' ∧ f'.pc = h ∧ f'.trapPc = pc.setWidth 64 ∧ f'.trapAddr = x.addr ∧
      f'.trapCause = BitVec.ofNat 32 (2 ^ 31 + lane * 2 ^ 16 + x.code.toNat) ∧
      f'.trapInfo.toNat % 2 ^ 32 =
        x.detail % 256 * 65536 + x.operand % 16 * 4096 + x.space % 16 * 16 + x.size % 16 ∧
      f'.trapMask = 1 ∧ f'.handler = true ∧ f'.entryCode = x.code ∧ f'.entryPc = pc ∧ f'.resume = f.strand ∧ f'.needHdr = true ∧ f'.pcWritten = false ∧
      f'.pred = f.pred ∧ f'.wbase = f.wbase ∧ f'.wait = none ∧ f'.block = none ∧
      (∀ l, l ≠ lane → u.fibre? gid l = g.fibres.find? l) ∧
      (∀ j, j ≠ gid → u.groups.find? j = s.groups.find? j) ∧ s.SameMemory u

/-- A fault that cannot be handled is fatal (R220, R225): one that finds the fibre masked, or no handler, or a
poison fault, asks for the kill of its team, with an error record; the fibre is parked with V set. -/
def Obligations.UnhandledFaultKillsTeam : Prop :=
  ∀ (s : State) (gid lane : Nat) (g : Group) (t : Team) (gr : Grid) (f : Fibre) (pc : Addr) (x : LaneFault),
    s.groups.find? gid = some g → s.teams.find? g.team = some t → s.grids.find? t.grid = some gr →
    g.fibres.find? lane = some f → x.code ≠ 0x0B →
    (x.code = 0x0E ∨ f.trapMask.getLsbD 0 = true ∨ s.handlerOf g gr x.code = none) →
    let u := s.takeFault gid pc lane x
    ∃ f' t' r, u.fibre? gid lane = some f' ∧ f'.parked = some x.code ∧ f'.trapCause.getLsbD 31 = true ∧
      f'.trapPc = pc.setWidth 64 ∧ u.teams.find? g.team = some t' ∧ t'.kill = some (t.kill.getD [] ++ [r]) ∧
      r.code = x.code ∧ r.pc = pc.setWidth 64 ∧
      r.detail.toNat = if x.code = 0x0E then 1 else if f.trapMask.getLsbD 0 = true then 8 else 7

/-- A page that is absent parks the fibre (R226): V is clear, the strand is replayed, and a page request for the
page and the context is noted. -/
def Obligations.AbsentPageParksFibre : Prop :=
  ∀ (s : State) (gid lane : Nat) (g : Group) (t : Team) (gr : Grid) (f : Fibre) (pc : Addr) (x : LaneFault),
    s.groups.find? gid = some g → s.teams.find? g.team = some t → s.grids.find? t.grid = some gr →
    g.fibres.find? lane = some f → x.code = 0x0B → f.needHdr = false →
    let u := s.takeFault gid pc lane x
    (∃ f', u.fibre? gid lane = some f' ∧ f'.parked = some 0x0B ∧ f'.trapCause.getLsbD 31 = false ∧
      f'.trapPc = pc.setWidth 64 ∧ f'.pc = f.strand ∧
      f'.pred = f.pred &&& (f.surv.map fun h => h.pmask).getD 0) ∧
    (t.grid, x.addr.toNat % 2 ^ 52 / 2 ^ 16) ∈ (u.part gr.part).pages

/-- `trap` takes the trap exception in every lane with its number in TRAPADDR (R277); `brk` takes the breakpoint
exception, but a fibre that has returned to it from its handler passes once (R278). -/
def Obligations.TrapAndBreakpoint : Prop :=
  ∀ (s : State) (c : Ctx), s.RunsOutside c →
    (∀ n : BitVec 16, exec (.trap n) s = .next ((c.advance true []).takeFaults c.gid c.is.pc
      (c.is.lanes.map fun l => (l, { code := 0x15, addr := n.setWidth 64, operand := 8 })))) ∧
    ((∀ l ∈ c.is.lanes, (c.fibre? l).elim true (fun f => f.skip != some c.is.pc) = true) →
      exec .brk s = .next ((c.advance false []).takeFaults c.gid c.is.pc
        (c.is.lanes.map fun l => (l, { code := 0x16 })))) ∧
    ((∀ l ∈ c.is.lanes, (c.fibre? l).elim false (fun f => f.skip == some c.is.pc) = true) →
      ∃ t, exec .brk s = .next t ∧ c.Leaves t fun _ f => { f.advance c.is.pc false with skip := none })

/-- `rte` returns from a handler (R224, R278, R279): V and M are cleared, and the fibre stands at TRAPPC where the
handler has written it, else at its resume point, where a header must stand; a return from a handler
that a `brk` has entered arms the skip of that `brk`.
Outside a handler `rte` is an illegal instruction. -/
def Obligations.RteReturns : Prop :=
  ∀ (s : State) (c : Ctx), s.RunsOutside c →
    ((∀ l ∈ c.is.lanes, ∀ f, c.fibre? l = some f → f.handler = true ∧
        targetOk c.gr (if f.pcWritten then f.trapPc.toNat % 2 ^ 52 else f.resume.toNat : Nat) = true) →
      ∃ t, exec .rte s = .next t ∧ c.Alone t ∧ c.s.SameMemory t ∧
        ∀ l ∈ c.is.lanes, ∀ f, c.fibre? l = some f → ∃ f', t.fibre? c.gid l = some f' ∧
          f'.pc = (if f.pcWritten then f.trapPc.setWidth 52 else f.resume) ∧ f'.needHdr = true ∧
          f'.trapCause = f.trapCause &&& 0x7FFFFFFF#32 ∧ f'.trapMask = 0 ∧ f'.handler = false ∧
          f'.skip = (if f.pcWritten = false ∧ f.entryCode = 0x16 then some f.entryPc else f.skip) ∧
          f'.pred = f.pred ∧ f'.wbase = f.wbase) ∧
    ((∀ l ∈ c.is.lanes, (c.fibre? l).elim true (fun f => !f.handler) = true) →
      exec .rte s = .next ((c.advance false []).takeFaults c.gid c.is.pc
        (c.is.lanes.map fun l => (l, { code := 0x01, addr := c.is.word }))))

/-- The opcodes that R259 leaves unallocated decode to nothing else, and a word with one takes the illegal
instruction exception, in a batch in each lane of its effect (R237, R248, R259). The instructions of Stoker code alone
take the wrong stream exception in a batch, and the instructions named here, those of group code alone, take it in a
stream (R38). In a stream both stop it. -/
def Obligations.WrongStreamAndIllegal : Prop :=
  (∀ op f : Nat, f < 2 ^ 54 →
    (0x010 ≤ op ∧ op ≤ 0x03F ∨ 0x055 ≤ op ∧ op ≤ 0x07F ∨ 0x088 ≤ op ∧ op ≤ 0x0BF ∨ 0x0DC ≤ op ∧ op ≤ 0x0FF ∨
      0x113 ≤ op ∧ op ≤ 0x13F ∨ 0x149 ≤ op ∧ op ≤ 0x17F ∨ 0x190 ≤ op ∧ op ≤ 0x1BF ∨ 0x1D1 ≤ op ∧ op ≤ 0x1FF ∨
      0x20A ≤ op ∧ op ≤ 0x240 ∨ 0x250 ≤ op ∧ op ≤ 0x27F ∨ 0x287 ≤ op ∧ op ≤ 0x2BF ∨ op = 0x2C8 ∨ op = 0x2C9 ∨
      op = 0x2CD ∨ 0x2D3 ≤ op ∧ op ≤ 0x2D5 ∨ 0x2DA ≤ op ∧ op ≤ 0x2FF ∨ 0x307 ≤ op ∧ op ≤ 0x30F ∨
      0x312 ≤ op ∧ op ≤ 0x3FF) →
    decode (BitVec.ofNat 64 (op * 2 ^ 54 + f)) = .ok (.unallocatedOpcode (BitVec.ofNat 64 (op * 2 ^ 54 + f)))) ∧
  ∀ s : State,
    (∀ c : Ctx, s.ctx? = some c →
      let takes := fun f => Host.Outcome.next ((c.advance false (c.is.lanes.filter fun l => !c.is.eff.contains l)).takeFaults
        c.gid c.is.pc (c.is.eff.map fun l => (l, f)))
      (∀ w, exec (.unallocatedOpcode w) s = takes { code := 0x01, addr := w }) ∧
      (∀ (a : LoopArgs) (m : MmaArgs) (k : ShpldArgs), ∀ i ∈ [Instr.sfin, .loop a, .mma m, .mconv m, .shpld k],
        exec i s = takes { code := 0x18, addr := c.is.word })) ∧
    (∀ c : SCtx, s.sctx? = some c →
      (∀ w, exec (.unallocatedOpcode w) s = .next (c.fault { code := 0x01, addr := w })) ∧
      (let wrong := fun i => exec i s = .next (c.fault { code := 0x18, addr := c.is.word })
       ∀ (a : VArgs) (b : VIArgs) (f : VFArgs) (p : CmpArgs) (q : CmpIArgs) (g : GArgs) (m : MArgs) (d : LdcArgs)
         (t : TArgs) (o : Opnd) (ty : Ty) (k : DImmArgs) (z : SImmArgs) (n : BitVec 16) (x : Scope) (i j : BitVec 4)
         (off : BitVec 44),
         (∀ v ∈
           [Instr.mov a, .add a, .sub a, .mul a, .mulh a, .mad a, .min a, .max a, .abs a, .neg a, .and a, .or a,
            .xor a, .not a, .shl a, .shr a, .sar a, .bfe a, .bfi a, .popc a, .clz a, .brev a, .sel a, .addc a,
            .dot4 a, .cmul a, .cmac a, .fadd a, .fsub a, .fmul a, .fma a, .fmin a, .fmax a, .frcp a, .frsq a,
            .fsqrt a, .fexp2 a, .flog2 a, .fsin a, .fcos a, .frnd a, .fclass a, .fscale a, .fdot2 a, .fcmul a, .cvt a,
            .cvtpk a, .unpk a, .tagset a, .tagget a, .shfl a, .bcast a, .vred a, .vscan a], wrong v) ∧
         (∀ v ∈
           [Instr.movImm b, .addImm b, .subImm b, .mulImm b, .mulhImm b, .madImm b, .minImm b, .maxImm b, .andImm b,
            .orImm b, .xorImm b, .shlImm b, .shrImm b, .sarImm b, .bfeImm b, .bfiImm b, .addcImm b, .dot4Imm b,
            .faddImm b, .fsubImm b, .fmulImm b, .fmaImm b, .fminImm b, .fmaxImm b, .fscaleImm b, .fdot2Imm b,
            .selImm f, .cmp p, .fcmp p, .cmpImm q, .fcmpImm q, .pand g, .por g, .pxor g, .pnot g, .pmov g, .pvote g,
            .pfirst g, .pmask g], wrong v) ∧
         ∀ v ∈
           [Instr.ld m, .st m, .ldc d, .stc d, .pf m, .cwb m, .cinv m, .accrd t, .accwr t, .tstamp ty o, .ctrrd k,
            .srd k, .swr z, .tlbinv z, .sleep n, .trap n, .pause n, .brx o, .ret o, .rcv, .yield, .fend, .exit, .brk,
            .rte, .fence x, .barw i, .stoke off, .cmov (.cc i j), .cmov (.cq i o), .cmov (.qc o i)], wrong v) ∧
      (let wrong := fun i => exec i s = .next (c.fault { code := 0x18, addr := c.is.word })
       (∀ a, wrong (.pb a)) ∧ (∀ a, wrong (.call a)) ∧ (∀ a, wrong (.strand a)) ∧ (∀ a, wrong (.fspawn a)) ∧
       (∀ a, wrong (.cbnd a)) ∧ (∀ a, wrong (.cadr a) ∧ wrong (.cinc a) ∧ wrong (.cprm a)) ∧ (∀ a, wrong (.cget a)) ∧
       (∀ a, wrong (.ctst a)) ∧ (∀ a, wrong (.atom a)) ∧ (∀ a, wrong (.red a)) ∧ (∀ a, wrong (.cas a)) ∧
       (∀ a, wrong (.bar a) ∧ wrong (.barv a)) ∧ (∀ a, wrong (.cp a)) ∧ (∀ a, wrong (.errinj a)) ∧ wrong .gbar ∧ wrong .seal) ∧
      ∀ x : LaneFault, ∃ st, ((c.fault x).core c.core).stream = some st ∧ st.stopped = true)

/-! ## Class 6: memory (R286, R320 to R324) -/

/-- A load completes wherever its operands are ready, its accesses pass the checks of R100 and, for an acquiring
load, the scope checker admits them (R157, R321, R323): its results are in flight, the value of each lane being what
the home holds where nothing else does, and no byte changes but what the core's L1 drains. -/
def Obligations.VectorLoadsComplete : Prop :=
  ∀ (s : State) (c : Ctx) (p : Nat → Place), s.RunsIn c → c.Proper →
    (∀ a : MArgs, c.Reaches a.cap a.index a.shift a.imm (4 * a.ty.regs) (fun _ => Cap.ld) { rd := true } p →
      (∀ l ∈ c.is.eff, (a.data.isReg && !a.data.isUniform) = true ∧ c.regReady l a.data a.ty.regs = true ∧
        s.readLost (p l) = none ∧ s.secondLost (c.is.eff.map p) (p l) = none ∧
        (a.order = .acq → (s.drainPlace c.g.core (p l)).acquireOk c.gr.part c.g.core a.scope (p l) = true)) →
      ∃ t g f, exec (.ld a) s = .next t ∧ c.LoadFrame t ∧ t.groups.find? c.gid = some g ∧ f ∈ g.flights ∧
        f.lanes = c.is.eff ∧ f.tag = Tag.of a.ty ∧ f.unit = true ∧
        ∀ l ∈ c.is.eff, s.homeHolds c.g.core (p l) (4 * a.ty.regs) = true → ∀ j < a.ty.regs,
          ∃ w ∈ f.writes, w.lane = l ∧ w.reg = (c.reg l a.data).succ j ∧
            w.elem.bits = BitVec.ofNat 32 (s.numberAt (p l) (4 * a.ty.regs) / 2 ^ (32 * j))) ∧
    (∀ (a : LdcArgs) (q : Opnd), a.data = .quad q →
      c.Reaches a.cap a.index a.shift a.imm 16 (fun _ => Cap.cl) { rd := true } p →
      (∀ l ∈ c.is.eff, (∃ i, q = .v i) ∧ c.regReady l q 4 = true ∧ s.readLost (p l) = none ∧
        s.secondLost (c.is.eff.map p) (p l) = none ∧
        (a.order = .acq → (s.drainPlace c.g.core (p l)).acquireOk c.gr.part c.g.core a.scope (p l) = true) ∧
        ((c.readsIn a.order a.scope [p l] s).loadGranule c.g.core (p l) a.cache c.is.pc).1.2.2 = false) →
      ∃ t g f, exec (.ldc a) s = .next t ∧ c.LoadFrame t ∧ t.groups.find? c.gid = some g ∧ f ∈ g.flights ∧
        f.lanes = c.is.eff ∧ f.tag = Tag.of .b32 ∧
        ∀ l ∈ c.is.eff,
          let d := ((c.readsIn a.order a.scope [p l] s).loadGranule c.g.core (p l) a.cache c.is.pc).1
          (∀ j < 4, ∃ w ∈ f.writes, w.lane = l ∧ w.reg = (c.reg l q).succ j ∧
            w.elem = { bits := (d.1 >>> (32 * j)).setWidth 32, poison := false }) ∧
          ∀ i, c.reg l q = .v i → ((i * 64 + l) ∈ f.quad ↔ d.2.1 = true ∧
            (({ w0 := d.1.setWidth 64, w1 := (d.1 >>> 64).setWidth 64, tag := true } : Cap).ok = true))) ∧
    (∀ (a : LdcArgs) (i : BitVec 4) (l : Nat), a.data = .creg i → c.covered = false → c.is.eff.head? = some l →
      (c.indexReady l a.index = true ∧
        s.Leads c.accessor (c.accessOf a.cap a.index a.shift a.imm 16 Cap.cl { rd := true } l) (p l) ∧
        s.readLost (p l) = none ∧ s.secondLost [p l] (p l) = none ∧
        (a.order = .acq → (s.drainPlace c.g.core (p l)).acquireOk c.gr.part c.g.core a.scope (p l) = true) ∧
        ((c.readsIn a.order a.scope [p l] s).loadGranule c.g.core (p l) a.cache c.is.pc).1.2.2 = false) →
      ∃ t g, exec (.ldc a) s = .next t ∧ t.groups.find? c.gid = some g ∧ c.Alone t ∧
        (let d := ((c.readsIn a.order a.scope [p l] s).loadGranule c.g.core (p l) a.cache c.is.pc).1
         g.cap i = capOf d.1 d.2.1) ∧
        (∀ j, j ≠ i → g.cap j = c.g.cap j) ∧
        ∀ k, t.fibre? c.gid k = if k ∈ c.is.lanes then (c.fibre? k).map fun f => f.advance c.is.pc true
          else c.fibre? k)

/-- A store completes under the same conditions, and changes no byte, scratchpad word or register beside what it
writes (R322, R323). Where one lane stores, its bytes stand at the home if the store goes there (R105), else the core
sees them in its L1 (R104); a scratchpad word holds them at once. -/
def Obligations.VectorStoresComplete : Prop :=
  ∀ (s : State) (c : Ctx) (p : Nat → Place), s.RunsIn c →
    (∀ a : MArgs, c.Reaches a.cap a.index a.shift a.imm (4 * a.ty.regs) (fun _ => Cap.st) { w := true } p →
      let value := fun l => c.operand l a.data a.ty.regs 0
      (∀ l ∈ c.is.eff, a.data.isReg = true ∧ c.sourceReady none l { o := a.data, ty := a.ty, field := fDst } = true ∧
        s.writeLost (p l) = none ∧ ((p l).isOutside = true → (value l).poison = false)) →
      ∃ t, exec (.st a) s = .next t ∧ c.StoreFrame t p (4 * a.ty.regs) ∧
        ∀ l, c.is.eff = [l] →
          (∀ pa, p l = .mem pa → pa % (4 * a.ty.regs) = 0 → (s.core c.g.core).covers (pa / 16) = false →
            s.reachable pa = true → ∀ i < 4 * a.ty.regs,
            (a.cache = .home ∨ a.cache = .stream →
              t.byteAt (pa + i) = ((value l).value >>> (8 * i)).setWidth 8) ∧
            (a.cache = .dflt ∨ a.cache = .keep →
              (s.core c.g.core).predict.get 8 (predictIdx c.is.pc) ∈ [1, 2, 4, 8] →
              t.seenAt c.g.core (pa + i) = ((value l).value >>> (8 * i)).setWidth 8)) ∧
          (∀ team t' off, p l = .pad team off → s.teams.find? team = some t' → s.padSound t' off = true →
            t.numberAt (p l) (4 * a.ty.regs) = (value l).value.toNat)) ∧
    (∀ a : LdcArgs, (∀ q, a.data = .quad q → (∃ i, q = .v i) ∧ ∀ l ∈ c.is.eff, c.inBounds l q 4 = true) →
      c.Reaches a.cap a.index a.shift a.imm 16
        (fun l k => k.st && (!(c.stcValue a l).1.tag || k.cs)) { w := true } p →
      (∀ l ∈ c.is.eff, s.writeLost (p l) = none ∧
        ((p l).isOutside = true → (c.stcValue a l).2 = false)) →
      ∃ t, exec (.stc a) s = .next t ∧ c.StoreFrame t p 16 ∧
        ∀ l pa, c.is.eff = [l] → p l = .mem pa → pa % 16 = 0 → isDevice pa = true →
          (s.core c.g.core).covers (pa / 16) = false → a.cache = .home ∨ a.cache = .stream →
          t.homeGranule (pa / 16) =
            ((c.stcValue a l).1.granule, (c.stcValue a l).1.tag, (c.stcValue a l).2))

/-- `pf`, `cwb` and `cinv` complete and change no register, and no byte but by what the L1 drains (R324); a `pf` that
meets a malformed page entry may write its error record besides (R194). After `cwb`
no byte of a range within one page waits in the core's L1, and after `cinv` its L1 has no block over it. -/
def Obligations.CacheInstructionsComplete : Prop :=
  ∀ (s : State) (c : Ctx) (a : MArgs), s.RunsIn c →
    let frame := fun t : State => c.Moved t ∧ c.Alone t ∧ c.KeepsFile t ∧
      s.BytesKept t c.g.core (fun _ => False) ∧ s.PadsKept t (fun _ _ _ => False)
    ((∀ l ∈ c.is.eff, c.indexReady l a.index = true ∧
        let x := c.accessOf a.cap a.index a.shift a.imm 1 Cap.ld { rd := true } l
        x.permitted c.t.z = true ∧ (∀ pg, s.locate c.accessor x x.addr.toNat ≠ .error (.walk pg)) ∧
          (∀ pa, s.locate c.accessor x x.addr.toNat ≠ .error (.dead pa))) →
      ∃ t, exec (.pf a) s = .next t ∧ c.Moved t ∧
        ((∀ l ∈ c.is.eff, ∀ f, s.locate c.accessor (c.accessOf a.cap a.index a.shift a.imm 1 Cap.ld { rd := true } l)
          (c.accessOf a.cap a.index a.shift a.imm 1 Cap.ld { rd := true } l).addr.toNat = .error (.fault f) →
          f.malformed = false) → frame t) ∧
        ∀ l pa, c.is.eff = [l] → a.cache = .dflt ∨ a.cache = .keep →
          s.locate c.accessor (c.accessOf a.cap a.index a.shift a.imm 1 Cap.ld { rd := true } l)
            (c.accessOf a.cap a.index a.shift a.imm 1 Cap.ld { rd := true } l).addr.toNat = .ok (.mem pa) →
          (s.core c.g.core).predict.get 8 (predictIdx c.is.pc) ∈ [1, 2, 4, 8] →
          (t.core c.g.core).covers (pa / 16) = true) ∧
    ((∀ l ∈ c.is.eff, c.rangeReady a l = true) →
      ∀ i ∈ [Instr.cwb a, .cinv a], ∃ t, exec i s = .next t ∧ frame t ∧
        ∀ l pa, c.is.eff = [l] → (s.core c.g.core).fifoSound →
          let va := (c.rangeAccess a l).addr.toNat
          let n := c.rangeLength a l
          0 < n → va % 2 ^ 16 + n ≤ 2 ^ 16 → (c.g.cap a.cap).space ≠ 2 → (c.g.cap a.cap).space ≠ 3 →
          s.walkPa c.gr.part va {} { code := 0 } = .ok pa →
          ∀ x, pa ≤ x → x < pa + n → (t.core c.g.core).owes x = false ∧
            (i = .cinv a → (t.core c.g.core).covers (x / 16) = false))

/-- `kld` and `kst` make one access for the batch or the stream (R286). In group code the load is in flight for the
k registers; in Stoker code the value stands in the scalar at once, and the
stream waits while a refresh window keeps its Folio bank group (R112). -/
def Obligations.UniformAccessesComplete : Prop :=
  ∀ (s : State) (a : MArgs) (p : Place), let n := 4 * a.ty.regs
    (∀ c : Ctx, s.RunsIn c → (∀ l ∈ c.is.eff, uniIndex a.index = true ∧ c.inBounds l a.index 1 = true) →
      ((∀ l ∈ c.is.eff, c.uniDstReady l a.ty a.data = true ∧ s.readLost p = none ∧ s.secondLost [p] p = none ∧
          s.Leads c.accessor (c.accessOf a.cap a.index a.shift a.imm n Cap.ld { rd := true } l) p) →
        ∃ t g f, exec (.kld a) s = .next t ∧ c.LoadFrame t ∧ t.groups.find? c.gid = some g ∧ f ∈ g.flights ∧
          f.lanes = c.is.lanes ∧ (s.homeHolds c.g.core p n = true → ∀ j < a.ty.regs, ∃ w ∈ f.writes,
            w.reg = (c.reg (c.is.eff.headD 0) a.data).succ j ∧
            w.elem.bits = BitVec.ofNat 32 (s.numberAt p n / 2 ^ (32 * j)))) ∧
      ((∀ l ∈ c.is.eff, a.data.isUniform = true ∧ a.data ≠ .zero ∧ c.inBounds l a.data a.ty.regs = true ∧
          s.writeLost p = none ∧ (p.isOutside = true → (c.operand l a.data a.ty.regs 0).poison = false) ∧
          s.Leads c.accessor (c.accessOf a.cap a.index a.shift a.imm n Cap.st { w := true } l) p) →
        ∃ t, exec (.kst a) s = .next t ∧ c.StoreFrame t (fun _ => p) n ∧
          ∀ pa, p = .mem pa → pa % n = 0 → (s.core c.g.core).covers (pa / 16) = false → s.reachable pa = true →
            (a.cache = .home ∨ a.cache = .stream) → ∀ i < n,
            t.byteAt (pa + i) =
              ((c.operand (c.is.eff.headD 0) a.data a.ty.regs 0).value >>> (8 * i)).setWidth 8)) ∧
    (∀ c : SCtx, s.Streams c → sReady [a.index] false = true → sDst a.data = true →
      (s.readLost p = none → s.secondLost [p] p = none → s.gatesClosed (s.gates [p]) = false →
        s.Leads c.accessor (c.accessOf a Cap.ld { rd := true }) p →
        exec (.kld a) s = .next (c.stay (.window (s.gates [p])))) ∧
      (s.readLost p = none → s.secondLost [p] p = none → s.gatesClosed (s.gates [p]) = true →
        s.Leads c.accessor (c.accessOf a Cap.ld { rd := true }) p →
        ∃ t st, exec (.kld a) s = .next t ∧ (t.core c.core).stream = some st ∧
          st.pc = (loopNext c.is.pc c.st.loops).1 ∧ st.pred = c.st.pred ∧
          (s.homeHolds c.core p n = true → ∀ i, a.data = .u i →
            (st.s.get SReg.zero i).bits = stokerWide a.ty (BitVec.ofNat 64 (s.numberAt p n)) ∧
            ∀ j, j ≠ i → st.s.get SReg.zero j = c.st.s.get SReg.zero j)) ∧
      (s.writeLost p = none → (p.isOutside = true → (c.operand a.data a.ty 0).2 = false) →
        s.Leads c.accessor (c.accessOf a Cap.st { w := true }) p →
        ∃ t, exec (.kst a) s = .next t ∧ t.groups = s.groups ∧
          (∃ st, (t.core c.core).stream = some st ∧ st.pc = (loopNext c.is.pc c.st.loops).1 ∧
            st.pred = c.st.pred ∧ st.s = c.st.s) ∧
          ∀ pa, p = .mem pa → pa % n = 0 → (s.core c.core).covers (pa / 16) = false → s.reachable pa = true →
            (a.cache = .home ∨ a.cache = .stream) → ∀ i < n,
            t.byteAt (pa + i) = ((c.operand a.data a.ty 0).1 >>> (8 * i)).setWidth 8))

/-! ## Class 6: capabilities (R326 to R331) -/

/-- The instructions that write a c register write what R327 to R329 give, each of them monotonic (R96), and change
nothing else. -/
def Obligations.CapabilityWritesResults : Prop :=
  ∀ (s : State) (c : Ctx), s.RunsOutside c → (∀ i, (c.g.cap i).tag = true → (c.g.cap i).ok = true) →
    (∀ a : CbndArgs, (∀ l ∈ c.is.eff, c.capOpReady l a.base 2 = true ∧ c.capOpReady l a.len 2 = true) →
      ∃ t d, exec (.cbnd a) s = .next t ∧ c.WritesCap t a.cd d ∧
        (c.g.cap a.cs).BoundTo d (c.capOpValue a.base 2).toNat (c.capOpValue a.len 2).toNat) ∧
    (∀ a : CopArgs, (∀ l ∈ c.is.eff, c.capOpReady l a.s1 2 = true) →
      (∃ t d, exec (.cadr a) s = .next t ∧ c.WritesCap t a.cd d ∧
        (c.g.cap a.cs).MovedTo d (c.capOpValue a.s1 2).toNat) ∧
      (∃ t d, exec (.cinc a) s = .next t ∧ c.WritesCap t a.cd d ∧
        (c.g.cap a.cs).MovedTo d ((c.g.cap a.cs).cursor + (c.capOpValue a.s1 2).toInt))) ∧
    (∀ a : CopArgs, (∀ l ∈ c.is.eff, c.capOpReady l a.s1 1 = true) →
      ∃ t d, exec (.cprm a) s = .next t ∧ c.WritesCap t a.cd d ∧ d.w1 = (c.g.cap a.cs).w1 ∧
        d.cursor = (c.g.cap a.cs).cursor ∧ d.space = (c.g.cap a.cs).space ∧ d.tag = (c.g.cap a.cs).tag ∧
        ∀ i < 7, d.w0.getLsbD (52 + i) = ((c.g.cap a.cs).w0.getLsbD (52 + i) && (c.capOpValue a.s1 1).getLsbD i)) ∧
    (∀ cd cs : BitVec 4, ∃ t, exec (.cmov (.cc cd cs)) s = .next t ∧ c.WritesCap t cd (c.g.cap cs)) ∧
    (∀ (cd : BitVec 4) (i : Nat), (∀ l ∈ c.is.eff, c.inBounds l (.v i) 4 = true) →
      let l := c.is.eff.headD 0
      let e := fun (j : Nat) => c.g.elem (.v (c.window l + i + j)) l
      ∃ t, exec (.cmov (.cq cd (.v i))) s = .next t ∧ c.WritesCap t cd
        { w0 := (e 1).bits ++ (e 0).bits, w1 := (e 3).bits ++ (e 2).bits
          tag := c.g.quads.contains ((c.window l + i) * 64 + l) && ([0, 1, 2, 3].all fun j => !(e j).poison) })

/-- `cmov` into a quad, `cget` and `ctst` write registers (R82, R329 to R331): a capability into every active lane with
its tag, a field of it, and the test that a later access would make. -/
def Obligations.CapabilityReadsResults : Prop :=
  ∀ (s : State) (c : Ctx) (cs : BitVec 4), s.RunsIn c → c.Proper → let k := c.g.cap cs
    (∀ i : Nat, (∀ l ∈ c.is.eff, c.regReady l (.v i) 4 = true) →
      ∃ t g, exec (.cmov (.qc (.v i) cs)) s = .next t ∧ c.Moved t ∧ c.Alone t ∧ s.SameMemory t ∧
        (c.g.flights = [] → c.FileBut t (.v i) 4) ∧ t.groups.find? c.gid = some g ∧
        ∀ l ∈ c.is.eff, let row := c.window l + i
          (∀ j < 4, g.elem (.v (row + j)) l =
            { bits := ((k.w1 ++ k.w0 : BitVec 128) >>> (32 * j)).setWidth 32, poison := false } ∧
            g.tag (.v (row + j)) l = Tag.of .b32) ∧
          g.quads.contains (row * 64 + l) = k.tag) ∧
    (∀ (dst : Opnd) (sel : BitVec 4), sel.toNat ≤ 8 →
      (∀ l ∈ c.is.eff, c.regReady l dst (fieldType sel).regs = true) →
      ∃ v, exec (.cget { sel, dst, cs }) s = .next (c.regDone dst fun _ =>
          VRes.of (fieldType sel) v false (Tag.of (fieldType sel))) ∧
        (sel = 0 → v = BitVec.ofNat 64 k.cursor) ∧ (sel = 1 → v = BitVec.ofNat 64 k.base) ∧
        (sel = 2 → v = BitVec.ofNat 64 k.length) ∧ (sel = 3 → v = BitVec.ofNat 64 k.perms) ∧
        (sel = 4 → v = BitVec.ofNat 64 k.space) ∧ (sel = 5 → v = if k.tag then 1 else 0) ∧
        (sel = 6 → v = k.w0) ∧ (sel = 7 → v = k.w1) ∧ (sel = 8 → v.toInt = (k.cursor : Int) - k.base)) ∧
    (∀ (dst x : Opnd) (sel : BitVec 4), sel.toNat ≤ 2 →
      (∀ l ∈ c.is.eff, c.regReady l dst 1 = true ∧ (sel ≠ 0 →
        (match x with | .b _ | .imm | .res _ => false | _ => true) = true ∧
        c.sourceReady none l { o := x, ty := .n32, field := fS1, loose := true } = true ∧
        (c.operand l x 1 0).poison = false)) →
      exec (.ctst { sel, dst, cs, x }) s = .next (c.regDone dst fun l =>
        let n := (c.operand l x 1 0).low.bits.toNat
        let holds := k.tag = true ∧ (sel = 1 → k.base ≤ k.cursor ∧ k.cursor + n ≤ k.limit) ∧
          (sel = 2 → Nat.land k.perms (n % 128) = n % 128)
        VRes.one (@ite _ holds (Classical.propDecidable _) 1 0) false (Tag.of .n32)))

/-! ## Class 7: atomics, fence and barriers (R332 to R340) -/

/-- Atomics complete wherever they are ready (R332 to R334); in one lane the place takes the operation's result
(`cas`: the new value where the old equals the compare value), and the destination the old value. -/
def Obligations.AtomicsComplete : Prop :=
  ∀ (s : State) (c : Ctx) (p : Nat → Place), s.RunsOutside c →
    (∀ a : AtomArgs, c.AtomReady (atomForm a) p →
      ∃ t, exec (.atom a) s = .next t ∧
        c.AtomDone t (atomForm a) p fun old d => atomOp a.op a.ty old d.value.toNat) ∧
    (∀ a : RedArgs, c.AtomReady (redForm a) p →
      ∃ t, exec (.red a) s = .next t ∧
        c.AtomDone t (redForm a) p fun old d => atomOp a.op a.ty old d.value.toNat) ∧
    (∀ a : CasArgs, c.AtomReady (casForm a) p →
      ∃ t, exec (.cas a) s = .next t ∧
        c.AtomDone t (casForm a) p fun old d =>
          if old = elemsNat (d.elems.take a.ty.regs) then elemsNat (d.elems.drop a.ty.regs) else old)

/-- What the operations of the atomics compute (R333). -/
def Obligations.AtomicOperations : Prop :=
  ∀ (t : Ty) (x d : Nat), t ∈ [Ty.n32, .s32, .b32, .n64, .s64, .b64] → x < 2 ^ elemBits t → d < 2 ^ elemBits t →
    atomOp .add t x d = (x + d) % 2 ^ elemBits t ∧ atomOp .and t x d = Nat.land x d ∧
    atomOp .or t x d = Nat.lor x d ∧ atomOp .xor t x d = Nat.xor x d ∧ atomOp .xchg t x d = d ∧
    (t.signed = false → atomOp .min t x d = min x d ∧ atomOp .max t x d = max x d ∧
      atomOp .inc t x d = (if d ≤ x then 0 else (x + 1) % 2 ^ elemBits t)) ∧
    (t.signed = true → intOf t (atomOp .min t x d) = min (intOf t x) (intOf t d) ∧
      intOf t (atomOp .max t x d) = max (intOf t x) (intOf t d)) ∧
    ∀ op, atomOp op t x d < 2 ^ elemBits t ∨ op = .fadd ∨ op = .fmin ∨ op = .fmax

/-- `fence` closes its strand (R336) and, at `.clu` or wider, leaves the core with no written byte and no clean block in
its L1 and no parity update of the team's cores behind (R128, R145 to R148). -/
def Obligations.FenceReleasesAndAcquires : Prop :=
  ∀ (s : State) (c : Ctx) (x : Scope), s.RunsOutside c →
    ∃ t, exec (.fence x) s = .next t ∧ c.Closed t ∧ c.Alone t ∧ (c.g.flights = [] → c.KeepsFile t) ∧
      s.BytesKept t c.g.core (fun _ => False) ∧ s.PadsKept t (fun _ _ _ => False) ∧
      (∀ k ∈ c.t.cores, ∀ i, (t.core k).pad.updates.get [] i = []) ∧
      (2 ≤ x.rank → (t.core c.g.core).fifo = [] ∧
        ((s.core c.g.core).fifoSound → (t.core c.g.core).l1.cells = []))

/-- A named barrier counts groups: a group arrives with its last fibre, the generation completes with its last group, and
`barv`, `barw` and `bar` arrive, leave and do both (R337, R338). The grid barrier completes when every team of the grid has been
placed and every group of it that has not ended has arrived; outside a co-resident grid `gbar` is an illegal instruction (R339). -/
def Obligations.BarriersArriveAndComplete : Prop :=
  (∀ (s : State) (c : Ctx) (id : BitVec 4) (o : Opnd) (n : Nat) (z : Bool), s.RunsOutside c →
      let r := BarRef.named c.g.team id.toNat
      let x := s.bar r
      (c.CountIs o n z →
        (∀ l ∈ c.is.lanes, ∀ f, c.fibre? l = some f →
          f.wait ≠ some (.barrier id.toNat) ∧ f.arrived.getLsbD id.toNat = false) →
        (¬ c.completesGroup r →
          (∃ t, exec (.barv ⟨id, o⟩) s = .next t ∧ c.arrivedOn t id.toNat ∧ t.bar r = x) ∧
          ∃ t, exec (.bar ⟨id, o⟩) s = .next t ∧ c.waitsAt t id.toNat ∧ t.bar r = x) ∧
        (c.completesGroup r → (x.a = 0 ∨ x.e = n) → x.a + 1 ≠ n →
          let y := { x with a := x.a + 1, arrived := ninsert c.gid x.arrived, e := n, z := if x.a = 0 then z else x.z }
          (∃ t, exec (.barv ⟨id, o⟩) s = .next t ∧ c.arrivedOn t id.toNat ∧ t.bar r = y) ∧
          ∃ t, exec (.bar ⟨id, o⟩) s = .next t ∧ c.waitsAt t id.toNat ∧ t.bar r = y) ∧
        (c.completesGroup r → (x.a = 0 ∨ x.e = n) → x.a + 1 = n →
          let y := { Barrier.fresh with gen := x.gen + 1 }
          (∃ t, exec (.barv ⟨id, o⟩) s = .next t ∧ c.arrivedOn t id.toNat ∧ t.bar r = y) ∧
          ∃ t, exec (.bar ⟨id, o⟩) s = .next t ∧ c.passed t id.toNat ∧ t.bar r = y)) ∧
      ((∀ l ∈ c.is.lanes, ∀ f, c.fibre? l = some f → f.arrived.getLsbD id.toNat = true) →
        ∃ t, exec (.barw id) s = .next t ∧ t.bar r = x ∧
          ∀ l ∈ c.is.lanes, ∀ f, c.fibre? l = some f → ∃ f', t.fibre? c.gid l = some f' ∧
            (f.released.getLsbD id.toNat = true → f'.pc = c.is.pc + 8 ∧ f'.needHdr = true ∧
              f'.arrived.getLsbD id.toNat = false ∧ f'.wait = none) ∧
            (f.released.getLsbD id.toNat = false → f'.pc = c.is.pc ∧ f'.wait = some (.barrier id.toNat)))) ∧
  (∀ (s : State) (c : Ctx), s.RunsOutside c →
      let r := BarRef.grid c.t.grid
      let x := s.bar r
      (c.gr.coresident = true →
        (∀ l ∈ c.is.lanes, ∀ f, c.fibre? l = some f →
          f.wait ≠ some (.barrier 16) ∧ f.arrived.getLsbD 16 = false) →
        (¬ c.completesGroup r → ∃ t, exec .gbar s = .next t ∧ c.waitsAt t 16 ∧ t.bar r = x) ∧
        (c.completesGroup r → s.teamsToCome c.t.grid = true ∨ (∃ j ∈ s.liveGroups r, j ≠ c.gid ∧ j ∉ x.arrived) →
          ∃ t, exec .gbar s = .next t ∧ c.waitsAt t 16 ∧ (t.bar r).gen = x.gen ∧ c.gid ∈ (t.bar r).arrived) ∧
        (c.completesGroup r → s.teamsToCome c.t.grid = false → (∀ j ∈ s.liveGroups r, j = c.gid ∨ j ∈ x.arrived) →
          ∃ t, exec .gbar s = .next t ∧ c.passed t 16 ∧ t.bar r = { Barrier.fresh with gen := x.gen + 1 })) ∧
      (c.gr.coresident = false →
        exec .gbar s = .next ((c.advance true []).takeFaults c.gid c.is.pc
          (c.is.lanes.map fun l => (l, { code := 0x01, addr := c.is.word })))))
/-! ## Class 7: queues (R165 to R181) -/

/-- What one lane's operation does at the home of a queue in memory at which nothing else waits (R174 to R176, R179,
R180): which counts move, which slot is written or read, and what the lane is given. The scope checker judges an
acquire as it takes its slot (R157). FREE follows, and the empty wait
lists read as 0xFFFF_FFFF (R165). -/
def Obligations.QueueHomeEffects : Prop :=
  ∀ (s : State) (r : QReq) (l pa : Nat) (ws : List Word), r.place = .mem pa → isDevice pa = true →
    s.apart r.core pa 64 → (s.queue pa).producers = [] → (s.queue pa).consumers = [] →
    refSpace r.ref = r.acc.cap.space → r.holder.ctx.toNat % 8 = r.part →
    let q := s.blockAt pa
    let h := s.queue pa
    let n := 2 ^ q.esz
    let run := s.qPerform r [l] [(l, ws)]
    let admitted := s.acquireOk r.part r.core r.scope r.place = true
    let gives := fun (ok : Bool) (words : List Word) =>
      ∃ w, run.2 = .complete w ∧ w.faults = [] ∧ w.results = [{ lane := l, ok, words }]
    let block := fun (x : Qcb) =>
      run.1.blockAt pa = { x with
        free := BitVec.ofNat 32 q.cap - (x.reserve - x.head), pwait := 0xFFFFFFFF, cwait := 0xFFFFFFFF }
    (r.act = .enq → q.full = false → h.committed = [] → q.tail = q.reserve → ws.length * 4 = n →
      ∀ ps, s.slotAt r q q.reserve { w := true } = some ps → s.apart r.core ps n →
        ps + n ≤ pa ∨ pa + 64 ≤ ps → (∀ i < n, s.reachable (ps + i) = true) →
        gives true [] ∧ block { q with reserve := q.reserve + 1, tail := q.tail + 1 } ∧
        run.1.homeBytes ps n = bytesOf ws) ∧
    (r.act = .deq → admitted → q.empty = false → q.take.toNat ∉ h.void → h.done = [] → q.head = q.take →
      ∀ ps, s.slotAt r q q.take { w := true } = some ps → s.apart r.core ps n →
        s.homePoison ps n = false → s.reachable ps = true →
        gives true (wordsOf ((n + 3) / 4) (s.homeBytes ps n)) ∧
        block { q with take := q.take + 1, head := q.head + 1 }) ∧
    (r.act = .rsv → admitted → q.full = false → gives true [q.reserve] ∧ block { q with reserve := q.reserve + 1 } ∧
      (run.1.queue pa).reserved.find? q.reserve.toNat = some r.holder) ∧
    (r.act = .take → admitted → q.empty = false → q.take.toNat ∉ h.void → q.free = BitVec.ofNat 32 q.cap - (q.reserve - q.head) →
      gives true [q.take] ∧ block { q with take := q.take + 1 } ∧
      (run.1.queue pa).taken.find? q.take.toNat = some r.holder) ∧
    ((r.act = .deq ∨ r.act = .take) → ¬ admitted → q.empty = false →
      (∃ w f, run.2 = .complete w ∧ w.faults = [(l, f)] ∧ f.code = 0x0D ∧ w.results = []) ∧
        (run.1.blockAt pa).take = q.take) ∧
    ((r.act = .enq ∨ r.act = .rsv) → q.full = true → r.blk = false →
      q.free = BitVec.ofNat 32 q.cap - (q.reserve - q.head) → gives false [] ∧ block q) ∧
    ((r.act = .deq ∨ r.act = .take) → q.empty = true → r.blk = false →
      q.free = BitVec.ofNat 32 q.cap - (q.reserve - q.head) →
      gives false [if q.drained then 2 else 1] ∧ block q) ∧
    (r.act = .cmt → ws = [q.tail] → q.reserve ≠ q.tail → h.committed = [] →
      (∃ x, h.reserved.find? q.tail.toNat = some x ∧ x.ctx = r.holder.ctx) →
      q.free = BitVec.ofNat 32 q.cap - (q.reserve - q.head) →
      (∃ w, run.2 = .complete w ∧ w.faults = []) ∧ block { q with tail := q.tail + 1 }) ∧
    (r.act = .done → ws = [q.head] → q.take ≠ q.head → h.done = [] →
      (∃ w, run.2 = .complete w ∧ w.faults = []) ∧ block { q with head := q.head + 1 }) ∧
    (r.act = .stat → gives true [q.words.getD r.esize 0] ∧ run.1.blockAt pa = q) ∧
    (r.act = .close →
      (∃ w, run.2 = .complete w ∧ w.faults = []) ∧ (run.1.blockAt pa).state = 1 ∧
      (run.1.blockAt pa).check = (run.1.blockAt pa).checkWord ∧ (run.1.blockAt pa).tail = q.tail ∧
      (run.1.blockAt pa).head = q.head)

/-- A queue operation of a batch or a stream that its queue admits runs at the home (R172 to R177): where that completes
it, the results reach the party and it goes on; where it parks it, the party waits at the instruction, and goes on when
it has been served. `qinit` writes a block of an open queue (R165, R178). -/
def Obligations.QueueInstructionsComplete : Prop :=
  ∀ (s : State) (a : QArgs) (p : Place),
    ∀ x ∈ [(QAct.enq, Instr.qenq a), (.deq, .qdeq a), (.rsv, .qrsv a), (.cmt, .qcmt a), (.take, .qtake a),
        (.done, .qdone a), (.stat, .qstat a), (.close, .qclose a)],
    (∀ c : Ctx, s.RunsOutside c →
      (c.QueueReady x.1 a p →
        (∀ u w, c.queueRun x.1 a p = (u, .complete w) → w.faults = [] → (w.results.map (·.lane)).Nodup →
          (∀ r ∈ w.results, r.lane ∈ c.is.lanes) →
          ∃ t, exec x.2 s = .next t ∧ c.QueueDone t x.1 a w ∧ c.Alone t ∧ t.mem = u.mem ∧ t.queues = u.queues) ∧
        (∀ u, c.queueRun x.1 a p = (u, .parked) → ∃ t, exec x.2 s = .next t ∧ c.Alone t ∧ t.queues = u.queues ∧
          ∀ l ∈ c.is.lanes, ∃ f, t.fibre? c.gid l = some f ∧ f.pc = c.is.pc ∧
            f.wait = some (.queue p.queueKey)) ∧
        (∀ u, c.queueRun x.1 a p = (u, .full) → ∃ t, exec x.2 s = .next t ∧ c.Alone t ∧ t.queues = u.queues ∧
          ∀ l ∈ c.is.lanes, ∃ f, t.fibre? c.gid l = some f ∧ f.pc = c.is.pc ∧
            f.wait = some (.queueRetry ((s.cluster (clusterOf c.g.core)).cycles.toNat + 64)))) ∧
      (∀ k w, c.parkedAt = some k → (s.queue k).served.find? (fun w =>
          w.party == .group c.gid && w.active == c.is.lanes) = some w → w.faults = [] →
        (w.results.map (·.lane)).Nodup → (∀ r ∈ w.results, r.lane ∈ c.is.lanes) →
        ∃ t, exec x.2 s = .next t ∧ c.QueueDone t x.1 a w ∧
          (t.queue k).served = (s.queue k).served.erase w)) ∧
    (∀ c : SCtx, s.Streams c → c.QueueReady x.1 a p →
      (∀ u w, c.queueRun x.1 a p = (u, .complete w) → w.faults = [] →
        ∃ t, exec x.2 s = .next t ∧ c.QueueDone t x.1 a w ∧ t.mem = u.mem ∧ t.queues = u.queues) ∧
      (∀ u, c.queueRun x.1 a p = (u, .parked) → ∃ t st, exec x.2 s = .next t ∧ t.queues = u.queues ∧
        (t.core c.core).stream = some st ∧ st.pc = c.st.pc ∧ st.wait = some (.queue p.queueKey))) ∧
    (∀ (c : Ctx) (pa : Nat) (i : QInit), s.RunsOutside c → c.QueueReady .init a (.mem pa) →
      i = groupInit (c.operand (c.is.eff.headD 0) a.data 5 0).elems →
      s.InitAdmits (c.queueRequest .init a (.mem pa)) i → s.apart c.g.core pa 64 →
      ∃ t, exec (.qinit a) s = .next t ∧ c.Closed t ∧ c.Alone t ∧ s.Opened t c.gr.part (gridCtxid c.t.grid) pa i) ∧
    (∀ (c : SCtx) (pa : Nat) (i : QInit), s.Streams c → c.QueueReady .init a (.mem pa) →
      i = stokerInit (c.queueData .init a) →
      s.InitAdmits (c.queueRequest .init a (.mem pa)) i → s.apart c.core pa 64 →
      ∃ t st, exec (.qinit a) s = .next t ∧ (t.core c.core).stream = some st ∧
        st.pc = (loopNext c.is.pc c.st.loops).1 ∧ s.Opened t c.gr.part (gridCtxid c.t.grid) pa i) ∧
    (∀ (gid : Nat) (ls : List Nat) (k : Nat) (w : QWait), s.retryDue (.group gid) ls = true →
      s.heldOf (.group gid) ls = some (k, w) →
      ∃ t, exec (.queueRetry (.group gid) ls) s = .next t ∧ ∀ l ∈ ls, ∀ f, s.fibre? gid l = some f →
        ∃ f', t.fibre? gid l = some f' ∧ f'.pc = f.pc ∧
          (f'.wait = some (.queue k) ∨ ∃ n, f'.wait = some (.queueRetry n)))

/-! ## Class 8: copies, Stoker and matrix (R209, R344 to R358) -/

/-- `cp` and `cpt` are accepted wherever their accesses and records pass the checks (R344 to R348), `seal` closes the open
batches (R349), and `wait` goes on once its counter has fallen, and waits until then (R152, R350). A copy of a group, or the
oldest of its class of a stream, that no failed port has cut completes once its scratchpads have served it (R151, R209, R345): where it moves bytes of one granule of memory to another and the core holds neither in its
L1, they stand at the destination, no other byte changes, and it runs in no batch any longer. -/
def Obligations.CopiesAreAcceptedAndComplete : Prop :=
  (∀ (s : State) (c : Ctx), s.RunsIn c →
      (∀ (a : CpArgs) (p q : Nat → Place), s.RunsOutside c →
        copySpaces a.dir (c.g.cap a.scap).space (c.g.cap a.dcap).space = true →
        (∀ l ∈ c.is.eff, c.indexReady l a.sidx = true ∧ c.indexReady l a.didx = true ∧
          s.Leads c.accessor (c.cpAccess a.scap a.sidx a.soff (CopySize.bytes a.size) Cap.ld { rd := true } l) (p l) ∧
          s.Leads c.accessor (c.cpAccess a.dcap a.didx a.doff (CopySize.bytes a.size) Cap.st { w := true } l) (q l)) →
        let cls := if ∃ l ∈ c.is.eff, (p l).port.isSome = true ∨ (q l).port.isSome = true then EngClass.fx
          else if a.dir = .into then .ci else .co
        ∃ t, exec (.cp a) s = .next t ∧ c.Accepts t cls a.scope (c.is.eff.map (c.cpMove a p q)) ∧
          s.SameMemory t) ∧
      (∀ (a : CptArgs) (x y : Shape × Place) (ms : List Move), s.RunsOutside c → a.coord.isUniform = true →
        (let l := c.is.eff.headD 0
         c.inBounds l a.coord 2 = true ∧ (c.operand l a.coord 2 0).poison = false ∧
         c.cptRecord a.src = .ok x ∧ c.cptRecord a.dst = .ok y ∧
         s.cptCheck c.accessor a.dir x.1 y.1 (Elem.zero, coordOf (c.operand l a.coord 2 0).value) { code := 0x0E, detail := 1, operand := fIndex } =
           .ok ms) →
        let cls := if ∃ m ∈ ms, m.src.port.isSome = true ∨ m.dst.port.isSome = true then EngClass.fx
          else if a.dir = .into then .ci else .co
        ∃ t, exec (.cpt a) s = .next t ∧ c.Accepts t cls a.scope ms ∧
          s.BytesKept t c.g.core (fun _ => False) ∧ s.PadsKept t (fun _ _ _ => False)) ∧
      (s.RunsOutside c → ∃ t g, exec .seal s = .next t ∧ c.Closed t ∧ c.Alone t ∧ c.KeepsFile t ∧ s.SameMemory t ∧
        t.groups.find? c.gid = some g ∧ (∀ b ∈ g.ci ++ g.co ++ g.fx, b.isOpen = false) ∧
        g.ci.map (·.running) = c.g.ci.map (·.running) ∧ g.co.map (·.running) = c.g.co.map (·.running) ∧
        g.fx.map (·.running) = c.g.fx.map (·.running)) ∧
      (∀ a : WaitArgs,
        (s.counter c.g a.cls ≤ a.thresh.toNat → (∀ x ∈ c.g.pending, x.cls ≠ a.cls) →
          exec (.wait a) s = .next (c.advance false c.is.lanes)) ∧
        (a.thresh.toNat < s.counter c.g a.cls → ∃ t, exec (.wait a) s = .next t ∧
          c.Leaves t fun _ f => { f with wait := some (.engine a.cls a.thresh.toNat) }))) ∧
  (∀ (s : State) (gid id core : Nat) (g : Group) (k : Core) (c : Copy), s.groups.find? gid = some g →
      s.copyOf (.group gid) id = some (core, k, c) → c.lost = none → c.cut = [] → s.padOwes id = false →
      s.gatesClosed (s.gates (c.moves.map (·.src))) = true →
      ∃ t g', exec (.copyComplete (.group gid) id) s = .next t ∧ t.groups.find? gid = some g' ∧
        (t.core core).copies = (s.core core).copies.filter (fun x => x.id != id) ∧
        (∀ b ∈ g'.batches c.cls, id ∉ b.running) ∧ g'.fibres = g.fibres ∧ g.SameFile g' ∧ c.Copied s t core) ∧
  (∀ (s : State) (id core : Nat) (k : Core) (st : Stream) (c : Copy), k.stream = some st →
      s.copyOf (.stoker core) id = some (core, k, c) → s.core core = k →
      (k.copies.filter fun x => x.party == c.party && x.cls == c.cls).head? = some c →
      c.lost = none → c.cut = [] → s.padOwes id = false → s.gatesClosed (s.gates (c.moves.map (·.src))) = true →
      ∃ t st', exec (.copyComplete (.stoker core) id) s = .next t ∧ (t.core core).stream = some st' ∧
        (t.core core).copies = k.copies.filter (fun x => x.id != id) ∧ t.groups = s.groups ∧
        st'.ci = st.ci.filter (· != id) ∧ st'.co = st.co.filter (· != id) ∧ st'.s = st.s ∧ st'.pc = st.pc ∧
        st'.slots = st.slots ∧ st'.loops = st.loops ∧ c.Copied s t core)

/-- The stream of a core (R37, R84, R351 to R356): `stoke` starts it with the k registers in its scalars or waits for
the one that runs, `loop` opens a loop or passes over its body, `shpld` fills a slot, copies and matrix commands join
their queues, and `sfin` ends it when its counters stand at 0. -/
def Obligations.StreamInstructionsComplete : Prop :=
  ∀ s : State,
    (∀ (c : Ctx) (off : BitVec 44), s.RunsOutside c → c.t.isMatrix = true →
      targetOk c.gr (c.is.pc.toNat + 8 * off.toInt) = true →
      ((s.core c.g.core).stream = none → ∃ t st, exec (.stoke off) s = .next t ∧ c.Closed t ∧ c.Alone t ∧
        c.KeepsFile t ∧ s.SameMemory t ∧ (t.core c.g.core).stream = some st ∧ st.owner = c.gid ∧
        st.pc = BitVec.ofNat 52 (c.is.pc.toNat + 8 * off.toInt).toNat ∧ st.pred = 0 ∧ st.loops = [] ∧
        st.slots.cells = [] ∧ st.ci = [] ∧ st.co = [] ∧ st.stopped = false ∧
        ∀ i < 32, st.s.get SReg.zero i =
          if i < 16 then { bits := (c.g.elem (.k i) 0).bits.setWidth 64, plo := (c.g.elem (.k i) 0).poison, phi := (c.g.elem (.k i) 0).poison }
          else SReg.zero) ∧
      ((s.core c.g.core).stream ≠ none → ∃ t, exec (.stoke off) s = .next t ∧
        ∀ l ∈ c.is.lanes, ∃ f, t.fibre? c.gid l = some f ∧ f.pc = c.is.pc ∧ f.wait = some .stoke)) ∧
    (∀ c : SCtx, s.Streams c →
      (c.st.ci = [] → c.st.co = [] → (s.core c.core).matq = [] → c.st.pending = [] →
        exec .sfin s = .next (s.modCore c.core fun k => { k with stream := none })) ∧
      (c.st.ci ≠ [] ∨ c.st.co ≠ [] ∨ (s.core c.core).matq ≠ [] →
        ∃ t st, exec .sfin s = .next t ∧ (t.core c.core).stream = some st ∧ st.pc = c.st.pc ∧
          st.wait = some .sfin) ∧
      (∀ a : LoopArgs, a.level.toNat = c.st.loops.length → sReady [a.count] false = true →
        (c.operand a.count .n32 0).2 = false →
        let last := c.is.pc.toNat + 8 * a.body.toNat
        let n := (c.operand a.count .n32 0).1.toNat
        (∀ x ∈ c.st.loops.head?, last ≤ x.last.toNat) →
        ∃ t st, exec (.loop a) s = .next t ∧ (t.core c.core).stream = some st ∧ st.s = c.st.s ∧
          st.pc = (if n = 0 then BitVec.ofNat 52 last + 8 else c.is.pc + 8) ∧
          st.loops = (if n = 0 then c.st.loops else
            { first := c.is.pc + 8, last := BitVec.ofNat 52 last, left := n } :: c.st.loops)) ∧
      (∀ (a : ShpldArgs) (p : Place) (bs : List Byte) (h : Shape), sReady [a.index] false = true →
        (let x : MArgs := { ty := .b32, scope := .core, cache := .dflt, order := .relaxed, cap := a.cap, data := .zero
                            index := a.index, shift := a.shift, imm := a.imm }
         s.Leads c.accessor { c.accessOf x Cap.ld { rd := true } with size := 64, align := 64 } p) →
        (c.g.cap a.cap).space = 1 ∨ (c.g.cap a.cap).space = 2 → s.readLost p = none →
        ((s.ownFirst c.core p 64).engineRead p 64).1 = (bs, false) → loadShape bs c.g.cap = .ok h →
        ∃ t st, exec (.shpld a) s = .next t ∧ c.Moved t st ∧ st.slots.find? a.slot.toNat = some h ∧
          ∀ i, i ≠ a.slot.toNat → st.slots.find? i = c.st.slots.find? i) ∧
      (∀ (a : CptArgs) (x y : Shape) (ms : List Move),
        (if a.dir = .into then c.st.ci else c.st.co).length < 16 → sReady [a.coord] false = true →
        (c.operand a.coord .n64 0).2 = false → c.st.slots.find? a.src.toNat = some x →
        c.st.slots.find? a.dst.toNat = some y →
        s.cptCheck c.accessor a.dir x y (Elem.zero, coordOf (c.operand a.coord .n64 0).1)
          { code := 0x0E, detail := 5, operand := fIndex } = .ok ms →
        ∃ t st id, exec (.cpt a) s = .next t ∧ c.Moved t st ∧
          (if a.dir = .into then st.ci else st.co) = (if a.dir = .into then c.st.ci else c.st.co) ++ [id] ∧
          (t.core c.core).copies = (s.core c.core).copies ++
            [{ id, party := .stoker c.core, team := c.g.team, cls := if a.dir = .into then .ci else .co
               scope := a.scope, moves := ms, lost := none, cut := [] }]) ∧
      (∀ (a : WaitArgs), a.cls ≠ .vm → a.cls ≠ .fx →
        (c.counter a.cls ≤ a.thresh.toNat → (∀ x ∈ c.st.pending, x.cls ≠ a.cls) → exec (.wait a) s = .next c.advance) ∧
        (a.thresh.toNat < c.counter a.cls → ∃ t st, exec (.wait a) s = .next t ∧
          (t.core c.core).stream = some st ∧ st.pc = c.st.pc ∧
          st.wait = some (.engine a.cls a.thresh.toNat))) ∧
      (∀ (a : MmaArgs) (conv : Bool) (m : MatPlan), (s.core c.core).matq.length < 8 → c.matCheck a conv = .ok m →
        ∃ t st cmd, exec (if conv then .mconv a else .mma a) s = .next t ∧ c.Moved t st ∧
          (t.core c.core).matq = (s.core c.core).matq ++ [cmd] ∧ cmd.tile = a.tile.toNat ∧ cmd.mode = a.mode ∧
          cmd.m = m.a.trows ∧ cmd.n = m.b.tcols ∧ cmd.k = m.k ∧ cmd.fmtA = m.a.fmt ∧ cmd.fmtB = m.b.fmt ∧
          cmd.masked = m.masked ∧ cmd.gamma = m.gamma))

/-- Accumulator tiles (R67, R83, R325, R357): `accrd` and `accwr` move a row between a tile and a register, and the oldest
matrix command writes every element of its tile, under the tag of its pair of formats; an element of an integer tile is
the sum of products added to what stood there, modulo 2^32. -/
def Obligations.TilesAreReadAndWritten : Prop :=
  ∀ s : State,
    (∀ (c : Ctx) (a : TArgs), s.RunsIn c → c.Proper → s.upsets.tile = [] →
      (∀ l ∈ c.is.eff, (a.data.isReg && !a.data.isUniform) = true ∧ c.inBounds l a.data 1 = true ∧
        c.tileReady l a = true) →
      let k := s.core c.g.core
      ((∀ l ∈ c.is.eff, c.mayWrite l a.data 1 = true) → (k.tileTag a.tile.toNat).valid = true →
        (a.ty = .b32 ∨ (k.tileTag a.tile.toNat).fmt = a.ty) →
        exec (.accrd a) s = .next (c.regDone a.data fun l =>
          { elems := [k.tiles.get Elem.zero (c.tileKeyOf a l)]
            tag := if a.ty = .b32 then Tag.of .b32 else k.tileTag a.tile.toNat })) ∧
      (∀ tag : Tag, (∀ l ∈ c.is.eff, c.readable l a.data 1 = true ∧ c.g.tag (c.reg l a.data) l = tag) →
        tag.valid = true → tag.fmt = a.ty →
        ∃ t, exec (.accwr a) s = .next t ∧ c.Moved t ∧ c.Alone t ∧ c.KeepsFile t ∧ s.SameMemory t ∧
          (t.core c.g.core).tileTag a.tile.toNat = tag ∧
          (∀ i, i ≠ a.tile.toNat → (t.core c.g.core).tileTag i = k.tileTag i) ∧
          (∀ l ∈ c.is.eff, (t.core c.g.core).tiles.get Elem.zero (c.tileKeyOf a l) = c.g.elem (c.reg l a.data) l) ∧
          ∀ i, (∀ l ∈ c.is.eff, i ≠ c.tileKeyOf a l) →
            (t.core c.g.core).tiles.get Elem.zero i = k.tiles.get Elem.zero i)) ∧
    (∀ (core : Nat) (m : MatCmd) (r : List MatCmd), (s.core core).matq = m :: r → s.gatesClosed m.gates = true → s.padOwes m.id = false →
      s.upsets.tile = [] → s.upsets.matrix = [] → m.m ≤ 64 → m.n ≤ 64 →
      ∃ t, exec (.matrixCommandComplete core) s = .next t ∧ (t.core core).matq = r ∧ s.SameMemory t ∧
        t.groups = s.groups ∧
        (∀ f, pairFormat m.fmtA m.fmtB = some f → (t.core core).tileTag m.tile = Tag.of f) ∧
        (∀ i j, i < m.m → j < m.n → (t.core core).tiles.get Elem.zero (tileKey m.tile i j) =
          m.element i j ((s.core core).tiles.get Elem.zero (tileKey m.tile i j))) ∧
        ∀ x, (∀ i j, i < m.m → j < m.n → x ≠ tileKey m.tile i j) →
          (t.core core).tiles.get Elem.zero x = (s.core core).tiles.get Elem.zero x) ∧
    (∀ (m : MatCmd) (i j : Nat) (old : Elem) (x y : Nat → Nat), pairFormat m.fmtA m.fmtB = some .s32 →
      m.masked.getD (i * m.n + j) false = false → m.rowA i = (List.range m.k).map (fun k => some (x k)) →
      m.colB j = (List.range m.k).map (fun k => some (y k)) →
      (m.element i j old).bits = BitVec.ofInt 32 ((if m.mode = .ovr then 0 else old.bits.toInt) +
        ((List.range m.k).map fun k => intOf m.fmtA (x k) * intOf m.fmtB (y k)).sum))

/-! ## Class 9: system (R86 to R89, R212 to R217, R359 to R364) -/

/-- `tstamp` reads TIME, `ctrrd` a counter and `srd` a special register (R212, R359 to R361): the value the tables name
stands in the destination. The counters read as they stood when the front-end cycle began, in whatever state that found
them (R44). A read of ENERGY_LO also latches the upper half of its count for the group (R215). -/
def Obligations.CountersAndSpecialRegistersRead : Prop :=
  ∀ (s : State) (c : Ctx), s.RunsIn c →
    let k := s.core c.g.core
    let cl := s.cluster (clusterOf c.g.core)
    let core := s.coreCounter c.g.core c.gr.part
    let group := s.groupCounter c.g c.gr
    (∀ (ty : Ty) (dst : Opnd), ty.regs = 2 → (∀ l ∈ c.is.eff, c.regReady l dst 2 = true) →
      ∀ v, c.counter 0x001 = some v →
        exec (.tstamp ty dst) s = .next (c.regDone dst fun _ => VRes.of ty v false (Tag.of ty))) ∧
    (∀ a : DImmArgs, (∀ l ∈ c.is.eff, c.regReady l a.dst a.ty.regs = true) → a.imm ≠ 0x020 →
      ∀ v, c.counter a.imm.toNat = some v →
        exec (.ctrrd a) s = .next (c.regDone a.dst fun _ => VRes.of a.ty v false (Tag.of a.ty))) ∧
    (∀ a : DImmArgs, (∀ l ∈ c.is.eff, c.regReady l a.dst a.ty.regs = true) → a.imm = 0x020 → c.g.flights = [] →
      ∀ lo hi, c.counter 0x020 = some lo → c.counter 0x022 = some hi →
      ∃ t g, exec (.ctrrd a) s = .next t ∧ t.groups.find? c.gid = some g ∧ c.Moved t ∧ c.FileBut t a.dst a.ty.regs ∧
        g.energyHi = (hi >>> 32).setWidth 32 ∧
        ∀ l ∈ c.is.eff.head?, (g.elem (c.reg l a.dst) l).bits = lo.setWidth 32) ∧
    (core 0x000 = some cl.cycles ∧ core 0x001 = some (BitVec.ofNat 64 s.clock.time) ∧
      group 0x002 = some (BitVec.ofNat 64 c.g.vm.length) ∧ group 0x003 = some (BitVec.ofNat 64 c.g.ci.length) ∧
      group 0x004 = some (BitVec.ofNat 64 c.g.co.length) ∧ group 0x006 = some (BitVec.ofNat 64 c.g.fx.length) ∧
      core 0x008 = some (BitVec.ofNat 64 (8 - k.matq.length)) ∧
      core 0x016 = some (s.part c.gr.part).hpdrop ∧ core 0x017 = some cl.droopEv ∧
      core 0x018 = some cl.stretch ∧ core 0x019 = some cl.halved ∧
      core 0x020 = some ((s.part c.gr.part).energy &&& 0xFFFFFFFF) ∧ core 0x022 = some (s.part c.gr.part).energy ∧
      c.counter 0x021 = some (c.g.energyHi.setWidth 64) ∧
      (∀ i < 8, core (0x040 + i) = some ((s.rails.get 0 i).setWidth 64)) ∧
      c.counter 0x007 = none ∧ ∀ i, 0x110 ≤ i → c.counter i = none) ∧
    (∀ u : State, k.sampled = coreSelectors.filterMap (u.coreCounter c.g.core c.gr.part) →
      ∀ i ∈ coreSelectors, c.counter i = u.coreCounter c.g.core c.gr.part i) ∧
    (∀ (u : State) (g : Group) (gr : Grid), c.g.sampled = groupSelectors.filterMap (u.groupCounter g gr) →
      ∀ i ∈ groupSelectors, c.counter i = u.groupCounter g gr i) ∧
    (k.sampled = [] → c.g.sampled = [] → ∀ i, c.counter i = (group i).or (core i)) ∧
    (∀ a : DImmArgs, (∀ l ∈ c.is.eff, c.regReady l a.dst a.ty.regs = true) →
      ∀ v : Nat → Dword, (∀ l ∈ c.is.eff, c.specialReg l a.imm.toNat = some (a.ty.regs, v l)) →
        exec (.srd a) s = .next (c.regDone a.dst fun l => VRes.of a.ty (v l) false (Tag.of a.ty))) ∧
    (∀ l f, c.fibre? l = some f →
      c.specialReg l 0 = some (1, f.trapCause.setWidth 64) ∧ c.specialReg l 1 = some (2, f.trapPc) ∧
      c.specialReg l 2 = some (2, f.trapAddr) ∧ c.specialReg l 3 = some (2, f.trapInfo) ∧
      c.specialReg l 4 = some (1, f.trapMask.setWidth 64) ∧ c.specialReg l 5 = some (1, f.wbase.setWidth 64) ∧
      c.specialReg l 6 = some (2, f.strand.setWidth 64) ∧ c.specialReg l 0x10 = some (2, c.gr.kernel.trapBase) ∧
      c.specialReg l 0x11 = some (1, (gridCtxid c.t.grid).setWidth 64) ∧
      c.specialReg l 0x12 = some (1, BitVec.ofNat 64 (c.gr.cls % 4)) ∧
      c.specialReg l 0x13 = some (1, c.gr.preemptCut.setWidth 64) ∧
      c.specialReg l 0x20 = some (1, BitVec.ofNat 64 (cl.ratio % 4)) ∧
      c.specialReg l 0x48 = some (1, BitVec.ofNat 64 (k.grant % 8)) ∧
      c.specialReg l 0x49 = some (1, cl.droopCfg.setWidth 64) ∧
      ∀ i, 7 ≤ i → i < 0x10 → c.specialReg l i = none)

/-- `swr` writes TRAPPC and TRAPMASK in a handler and is illegal elsewhere (R87, R89, R361); `tlbinv` puts an
invalidation under way and waits for it (R196, R362); `errinj` leaves an error at its place where the partition allows
it, and is illegal elsewhere (R364). -/
def Obligations.SystemWritesComplete : Prop :=
  ∀ (s : State) (c : Ctx),
    (∀ a : SImmArgs, s.RunsOutside c → (∀ l ∈ c.is.eff, a.src.isReg = true ∧
        c.sourceReady none l { o := a.src, ty := a.ty, field := fS1 } = true ∧
        (c.operand l a.src a.ty.regs 0).poison = false) →
      (c.handler = true → a.imm = 1 → a.ty.regs = 2 → ∃ t, exec (.swr a) s = .next t ∧
        c.Leaves t fun l f => { f.advance c.is.pc true with
          trapPc := (c.operand l a.src 2 0).value &&& 0x000FFFFFFFFFFFF8, pcWritten := true }) ∧
      (c.handler = true → a.imm = 4 → a.ty.regs = 1 → ∃ t, exec (.swr a) s = .next t ∧
        c.Leaves t fun l f => { f.advance c.is.pc true with
          trapMask := (c.operand l a.src 1 0).low.bits &&& 1 }) ∧
      (c.handler = false → a.imm = 1 ∨ a.imm = 4 → exec (.swr a) s =
        .next ((c.advance true []).takeFaults c.gid c.is.pc
          (c.is.lanes.map fun l => (l, { code := 0x01, addr := c.is.word }))))) ∧
    (∀ (a : SImmArgs) (l n : Nat), s.RunsIn c → n = a.imm.toNat % 16 → (n < 4 ∨ n = 15) → a.src.isUniform = true →
      c.is.eff.head? = some l → c.inBounds l a.src 2 = true → (c.operand l a.src 2 0).poison = false →
      let size := 2 ^ ([16, 21, 28, 33].getD n 0)
      ∃ t id, exec (.tlbinv a) s = .next t ∧
        (c.Leaves t fun _ f => { f.advance c.is.pc false with wait := some (.tlbinv id) }) ∧
        (t.part c.gr.part).invals = (s.part c.gr.part).invals ++ [{
          id, byHost := false
          range := if n = 15 then none
            else some ((c.operand l a.src 2 0).value.toNat % 2 ^ 52 / size * size, size) }]) ∧
    (∀ (a : ErrinjArgs) (p : Nat → Place), s.RunsOutside c → (s.part c.gr.part).errinj = true →
      c.Reaches a.cap a.index a.shift a.imm 1 (fun _ => Cap.st) { w := true } p →
      (∀ l ∈ c.is.eff, s.placeLost (p l) = none) →
      ∃ t, exec (.errinj a) s = .next t ∧ c.Closed t ∧ c.Alone t ∧ c.KeepsFile t ∧
        s.BytesKept t c.g.core (fun _ => False) ∧ s.PadsKept t (fun _ _ _ => False) ∧
        ∀ l ∈ c.is.eff,
          (∀ pa, p l = .mem pa → isDevice pa = true → a.kind = .ue → c.is.eff = [l] →
            t.poison.contains (pa / 32 * 2) = true ∧ t.poison.contains (pa / 32 * 2 + 1) = true) ∧
          (∀ pa, p l = .mem pa → isDevice pa = true → a.kind = .ce → t.ceMarks.contains (pa / 32) = true) ∧
          (∀ team x off, p l = .pad team off → s.teams.find? team = some x →
            let at_ := s.padLoc x off
            (a.kind = .ue → (t.core at_.core).pad.ue.contains (padKey at_.bank at_.row) = true) ∧
            (a.kind = .ce → (t.core at_.core).pad.ce.contains (padKey at_.bank at_.row) = true))) ∧
    (∀ a : ErrinjArgs, s.RunsOutside c → (s.part c.gr.part).errinj = false →
      exec (.errinj a) s = .next ((c.advance true []).takeFaults c.gid c.is.pc
        (c.is.lanes.map fun l => (l, { code := 0x01, addr := c.is.word }))))

/-! ## Events of the memories and of translation (R30, R34, R35, R72, R104 to R107, R112, R127 to R131, R195 to R197,
R208, R226) -/

/-- The core's own events: a waiting group enters the active set, and an evicted one leaves it, its replayed batches back
at their strands (R34, R35), with every near valid bit clear both times (R75); a load lands its results, with their tag, and nothing else, once the banks have served its reads (R72, R125); an access without a result
is performed, its parity rows current (R128, R208); the FIFO and L1 give a home the bytes that the core has written and no others (R106); a parity word
takes its oldest delta (R127); a bank that has met its errors is retired, and a second one loses its group (R131); the
windows of the Folio follow the timer (R112). -/
def Obligations.CoreEventsComplete : Prop :=
  ∀ s : State,
    (∀ gid g, s.groups.find? gid = some g → s.firstToEnter g.core = some gid → (s.activeOn g.core).length < 16 →
      ∃ t h, exec (.activeSetEntry gid) s = .next t ∧ t.groups.find? gid = some h ∧ h.active = true ∧
        h.lastHdr = s.cyclesOf g.core ∧ g.SameFile { h with nearValid := g.nearValid } ∧
        (∀ n ∈ h.nearValid, g.width ≤ n % 64) ∧ h.fibres = g.fibres ∧ s.SameMemory t ∧
        ∀ j, j ≠ gid → t.groups.find? j = s.groups.find? j) ∧
    (∀ gid g out x, s.groups.find? gid = some g → s.firstToEnter g.core = some gid →
      16 ≤ (s.activeOn g.core).length → out ≠ gid →
      ((s.activeOn g.core).find? fun p => s.mayLeave p.2) = some (out, x) →
      ∃ t h y, exec (.activeSetEntry gid) s = .next t ∧ t.groups.find? gid = some h ∧ h.active = true ∧
        t.groups.find? out = some y ∧ y.active = false ∧ s.SameMemory t) ∧
    (∀ gid g, s.groups.find? gid = some g → s.evictionDue gid g = true →
      ∃ t h, exec (.eviction gid) s = .next t ∧ t.groups.find? gid = some h ∧ h.active = false ∧
        (∀ l, h.fibres.find? l = (g.fibres.find? l).map fun f => if l ∈ g.replayable then f.rollback else f) ∧
        (t.core g.core).actEvict = (s.core g.core).actEvict + 1 ∧
        (∀ n ∈ h.nearValid, g.width ≤ n % 64) ∧ s.SameMemory t ∧
        ∀ j, j ≠ gid → t.groups.find? j = s.groups.find? j) ∧
    (∀ gid id g f, s.groups.find? gid = some g → g.flights.find? (fun x => x.id == id) = some f →
      s.gatesClosed f.gates = true → s.padOwes id = false → (∀ w ∈ f.writes, w.lane < 64) →
      ∃ t h, exec (.loadComplete gid id) s = .next t ∧ t.groups.find? gid = some h ∧
        (∀ w ∈ f.writes, (∀ i, w.reg ≠ .s i) →
          (∀ x ∈ f.writes, x.reg = w.reg → (x.lane = w.lane ∨ ∃ i, w.reg = .k i) → x.elem = w.elem) →
          h.elem w.reg w.lane = w.elem ∧ h.nearOk w.reg w.lane = (g.active || g.nearOk w.reg w.lane) ∧
          ((∀ i, w.reg ≠ .k i) → h.tag w.reg w.lane = f.tag)) ∧
        (∀ r l, l < 64 → (∀ w ∈ f.writes, ¬ (w.reg = r ∧ (w.lane = l ∨ ∃ i, r = .k i))) →
          h.elem r l = g.elem r l ∧ h.nearOk r l = g.nearOk r l) ∧
        (∀ r l, l < 64 → (∀ w ∈ f.writes, ¬ (w.reg = r ∧ w.lane / 8 = l / 8)) → h.tag r l = g.tag r l) ∧
        (∀ x ∈ h.flights, x.id ≠ id) ∧ h.fibres = g.fibres ∧ s.SameMemory t ∧
        ∀ j, j ≠ gid → t.groups.find? j = s.groups.find? j) ∧
    (∀ gid id g, s.groups.find? gid = some g → (∃ u ∈ g.vm, u.id = id ∧ u.done = false) →
      (∀ f ∈ g.flights, f.id ≠ id) → s.padOwes id = false →
      ∃ t h, exec (.accessPerformed gid id) s = .next t ∧ t.groups.find? gid = some h ∧
        (∀ u ∈ h.vm, u.id = id → u.done = true) ∧
        (∀ u ∈ g.vm, u.id ≠ id → u.done = false → u ∈ h.vm) ∧
        (∀ u r, h.vm = u :: r → u.done = false) ∧ g.SameFile h ∧ h.fibres = g.fibres ∧ s.SameMemory t ∧
        ∀ j, j ≠ gid → t.groups.find? j = s.groups.find? j) ∧
    (∀ core e r, (s.core core).fifo = e :: r →
      ∃ t, exec (.fifoDrain core) s = .next t ∧ (t.core core).fifo = r ∧ t.groups = s.groups ∧
        s.BytesKept t core (fun _ => False) ∧ s.PadsKept t (fun _ _ _ => False) ∧
        ∀ b x (j : Nat) (w : L1Word), e = .block b → (s.core core).l1.find? b = some x → x.words[j]? = some w →
          s.reachable (16 * (b + j)) = true → ∀ i : Nat, i < 16 → w.mine.getLsbD i = true →
            t.byteAt (16 * (b + j) + i) = (w.data >>> (8 * i)).setWidth 8) ∧
    (∀ core b x, (s.core core).l1.find? b = some x →
      ∃ t, exec (.l1Eviction core b) s = .next t ∧ (t.core core).l1.find? b = none ∧ t.groups = s.groups ∧
        s.BytesKept t core (fun _ => False) ∧ s.PadsKept t (fun _ _ _ => False) ∧
        ∀ (j : Nat) (w : L1Word), .block b ∈ (s.core core).fifo → x.words[j]? = some w →
          s.reachable (16 * (b + j)) = true → ∀ i : Nat, i < 16 → w.mine.getLsbD i = true →
            t.byteAt (16 * (b + j) + i) = (w.data >>> (8 * i)).setWidth 8) ∧
    (∀ core n row d r, (s.core core).pad.updates.get [] n = (row, d) :: r →
      ∃ t, exec (.parityUpdate core n) s = .next t ∧
        let p := (s.core core).pad
        let p' := (t.core core).pad
        p'.updates.get [] n = r ∧ t.mem = s.mem ∧ t.groups = s.groups ∧
        p'.words.get 0 (padKey (64 + n) row) =
          (if p.retired.contains (64 + n) then p.words.get 0 (padKey (64 + n) row)
            else p.words.get 0 (padKey (64 + n) row) ^^^ d) ∧
        (∀ key, key ≠ padKey (64 + n) row → p'.words.get 0 key = p.words.get 0 key) ∧
        ∀ k, k ≠ core → t.core k = s.core k) ∧
    (∀ core bank, (s.core core).pad.mayRetire bank = true →
      ∃ t, exec (.bankRetire core bank) s = .next t ∧
        let p := (s.core core).pad
        let p' := (t.core core).pad
        let n := groupOfBank bank
        p'.retired.contains bank = true ∧ p'.bankState bank ≠ 0 ∧ p'.words = p.words ∧ t.mem = s.mem ∧
        ((∃ b ∈ banksOf n, b ≠ bank ∧ p.retired.contains b = true) → p'.lost.contains n = true) ∧
        ((∀ b ∈ banksOf n, b ≠ bank → p.retired.contains b = false) → p'.lost = p.lost) ∧
        ∀ k, k ≠ core → t.core k = s.core k) ∧
    (∀ die bank, s.windowDue die bank = true → (s.die die).windows.length = 8 →
      ∃ t, exec (.folioRefreshWindow die bank) s = .next t ∧
        (t.die die).windows.getD bank false = s.windowNow bank ∧
        (∀ i, i ≠ bank → (t.die die).windows.getD i false = (s.die die).windows.getD i false) ∧
        (s.windowNow bank = true → ∀ sec ∈ s.upsets.folio, sec * 32 / Config.bankGroupBytes = die * 8 + bank →
          t.folioPoison.contains sec = true) ∧
        (∀ sec, s.folioPoison.contains sec = true → t.folioPoison.contains sec = true) ∧
        t.folio = s.folio ∧ t.mem = s.mem ∧ t.groups = s.groups ∧ t.cores = s.cores)

/-- Translation: a page walk, one of the 32 that a die makes at once, caches the leaf that it finds, and nothing where it finds none, and tells every group that
waits for the page (R195); an invalidation takes its place, and once no access is in flight drops what it covers, lets
its `tlbinv` go on, and clears BUSY (R196); PGRESUME lets the fibres parked on a page of its range replay and
invalidates nothing (R226). -/
def Obligations.TranslationEventsComplete : Prop :=
  ∀ s : State,
    (∀ die id w, ((s.die die).walks.take 32).find? (fun x => x.id == id) = some w →
      let va := w.page * 2 ^ 16
      let r := (s.walk (s.die die).wcache w.part va).1
      (∀ pa, r ≠ .dead pa) →
      ∃ t, exec (.pageWalkComplete die id) s = .next t ∧ s.SameMemory t ∧
        (∀ x ∈ (t.die die).walks, x.id ≠ id) ∧
        (∀ level e, r = .leaf level e →
          let entry : TlbEntry :=
            { part := w.part, base := va / levelSize level * levelSize level, size := levelSize level, entry := e }
          ∀ k ∈ w.cores, entry ∈ (t.core k).tlb ∧ entry ∈ (t.cluster (clusterOf k)).tlb) ∧
        ((∀ level e, r ≠ .leaf level e) → ∀ k, (t.core k).tlb = (s.core k).tlb ∧
          (t.cluster k).tlb = (s.cluster k).tlb) ∧
        ∀ gid g l f ps, s.groups.find? gid = some g → dieOf g.core = die → s.partOf g = w.part →
          g.fibres.find? l = some f → f.wait = some (.walk ps) → ps.contains w.page = true →
          ∃ h, t.groups.find? gid = some h ∧ ∃ x ∈ h.walks, x.page = w.page ∧
            (x.bad = false ↔ ∃ level e, r = .leaf level e)) ∧
    (∀ part value, (s.part part).invreq.getLsbD 63 = true ∨ invSizeOk value = false →
      exec (.invreq part value) s = .next s) ∧
    (∀ part value, (s.part part).invreq.getLsbD 63 = false → invSizeOk value = true →
      ∃ t id, exec (.invreq part value) s = .next t ∧ (t.part part).invreq.getLsbD 63 = true ∧
        (t.part part).invals = (s.part part).invals ++ [{ id, range := invRangeOf value, byHost := true }] ∧
        t.groups = s.groups ∧ t.cores = s.cores ∧ s.SameMemory t) ∧
    (∀ part v rest, (s.part part).invals = v :: rest → s.quiet part = true →
      ∃ t, exec (.invalidationComplete part) s = .next t ∧ (t.part part).invals = rest ∧ s.SameMemory t ∧
        (t.part part).invreq.getLsbD 63 = (!v.byHost && (s.part part).invreq.getLsbD 63) ∧
        (∀ k, ∀ e ∈ (t.core k).tlb, e ∈ (s.core k).tlb ∧
          ¬ (e.part = part ∧ rangeMeets v.range e.base e.size = true)) ∧
        (∀ k, ∀ e ∈ (t.cluster k).tlb, e ∈ (s.cluster k).tlb ∧
          ¬ (e.part = part ∧ rangeMeets v.range e.base e.size = true)) ∧
        (∀ k, ∀ e ∈ (t.die k).wcache, e ∈ (s.die k).wcache ∧
          ¬ (e.part = part ∧ rangeMeets v.range (e.base * levelSize e.level) (levelSize e.level) = true)) ∧
        ∀ gid g, s.groups.find? gid = some g → ∀ l, t.fibre? gid l = (s.fibre? gid l).map fun f =>
          if s.partOf g = part then
            let f := f.resumePage v.range
            if f.wait = some (.tlbinv v.id) then { f with wait := none } else f
          else f) ∧
    (∀ part value, invSizeOk value = false → exec (.pgresume part value) s = .next s) ∧
    (∀ part value, invSizeOk value = true →
      ∃ t, exec (.pgresume part value) s = .next t ∧ t.cores = s.cores ∧ t.clusters = s.clusters ∧
        t.dies = s.dies ∧ s.SameMemory t ∧ (t.part part).pgresume.getLsbD 63 = false ∧
        ∀ gid g, s.groups.find? gid = some g → ∀ l, t.fibre? gid l = (s.fibre? gid l).map fun f =>
          if s.partOf g = part then
            if f.parked = some 0x0B ∧ rangeHas (invRangeOf value) (f.trapAddr.toNat % 2 ^ 52) = true then
              { f with parked := none }
            else f
          else f)

/-! ## Groups, teams and grids (R10, R11, R14, R77, R188, R228, R229, R383 to R388) -/

/-- A group ends when no fibre is left and its counters stand at zero, its team with its last group, the team's stores
then at their homes; copy faults that no `wait` has raised kill the team (R11, R14, R350). A kill ends every fibre of the
team and stops its streams, and the third kill of one team kills the context (R228). A grid without teams is complete:
its completion word stands at DONEADDR and its tag is no longer outstanding (R10, R385). The scheduler takes an element
of the launch queue and admits its grid, refuses it, or lets a marker wait (R188, R383). A placed team starts its groups
with every fibre at the kernel's entry (R14, R77, R384). -/
def Obligations.WorkEventsComplete : Prop :=
  ∀ s : State,
    (∀ gid g t gr, s.groups.find? gid = some g → s.owners g = some (t, gr) → s.groupDone gid g t = true →
      t.kill = none → (g.pending = [] ∨ t.killed = true) →
      ∃ u, exec (.groupEnd gid) s = .next u ∧ u.groups.find? gid = none ∧
        (∀ j h, j ≠ gid → s.groups.find? j = some h → ∃ h', u.groups.find? j = some h' ∧ h.SameFile h') ∧
        ((∃ x ∈ s.groups.cells, x.1 ≠ gid ∧ x.2.team = g.team) → u.teams.find? g.team ≠ none) ∧
        ((∀ x ∈ s.groups.cells, x.2.team = g.team → x.1 = gid) →
          u.teams.find? g.team = none ∧ (∀ k ∈ t.cores, (u.core k).fifo = []) ∧
          (t.killed = true → gr.restartable = true → gr.status ≠ .killed →
            ∃ gr', u.grids.find? t.grid = some gr' ∧ gr'.unplaced.contains t.index = true))) ∧
    (∀ gid g t gr, s.groups.find? gid = some g → s.owners g = some (t, gr) → s.groupDone gid g t = true →
      t.kill = none → g.pending ≠ [] → t.killed = false →
      ∃ u t' rs, exec (.groupEnd gid) s = .next u ∧ u.teams.find? g.team = some t' ∧ t'.kill = some rs ∧
        rs.length = g.pending.length) ∧
    (∀ team t rs gr, s.teams.find? team = some t → t.kill = some rs → s.grids.find? t.grid = some gr →
      ∃ u t' gr', exec (.teamKill team) s = .next u ∧
        u.teams.find? team = some t' ∧ t'.kill = none ∧ t'.killed = true ∧
        (∀ j h, s.groups.find? j = some h → h.team = team →
          ∃ h', u.groups.find? j = some h' ∧ h'.fibres.cells = []) ∧
        (∀ k ∈ t.cores, ∀ st, (s.core k).stream = some st → st.owner ∈ s.groupsOf team →
          ∃ st', (u.core k).stream = some st' ∧ st'.stopped = true) ∧
        u.grids.find? t.grid = some gr' ∧ gr'.kills.get 0 t.index = gr.kills.get 0 t.index + 1 ∧
        (2 ≤ gr.kills.get 0 t.index → gr'.status = .killed ∧ gr'.unplaced = [] ∧ gr'.image = [])) ∧
    (∀ key gr, s.grids.find? key = some gr → s.teamsOf key = [] → gr.unplaced = [] → gr.image = [] →
      (gr.status = .killed ∨ s.hasChildren key = false) →
      ∃ u, exec (.gridComplete key) s = .next u ∧ u.grids.find? key = none ∧
        (∀ j, j ≠ key → u.grids.find? j = (s.grids.find? j).map fun x => x.afterDone gr.part gr.tag) ∧ gr.tag ∉ (u.part gr.part).tags ∧
        ∀ pa, gr.doneAddr ≠ 0 → isDevice pa = true → pa % 8 = 0 →
          s.walkPa gr.part (gr.doneAddr.toNat % 2 ^ 52) { w := true } { code := 0 } = .ok pa →
          u.numberAt (.mem pa) 8 =
            (completionWord (if gr.status = .killed then 2 else 1) gr.tag).toNat) ∧
    (∀ part x, s.takeElement part = some x → ∃ u, exec (.launchTake part) s = .next u ∧
      ∀ v t bs, x = (v, some t) → t.bytes = some bs → t.ok = true →
        (pktKind bs = 4 → u.grids = v.grids ∧ (u.part part).markers = (v.part part).markers ++
          [{ id := t.num, tag := pktTag bs, done := pktWord bs 8
             before := (v.part part).pending.filter (· < t.num) }]) ∧
        (∀ k caps, pktKind bs ≠ 4 → v.judgeLaunch part bs (t.ctx != 0) = .ok (k, caps) →
          ∃ key gr, u.grids.find? key = some gr ∧ gr.part = part ∧ gr.kernel = k ∧ gr.caps = caps ∧
            gr.status = .admitted ∧ gr.unplaced = List.range (recField bs 0x10 4) ∧ gr.tag = pktTag bs ∧
            gr.doneAddr = pktWord bs 0x28 ∧ ∀ j, j ≠ key → u.grids.find? j = v.grids.find? j) ∧
        (∀ code, pktKind bs ≠ 4 → v.judgeLaunch part bs (t.ctx != 0) = .error code →
          ∀ j, u.grids.find? j = v.grids.find? j ∨
            ∃ g, v.grids.find? j = some g ∧ u.grids.find? j = some { g with afterTag := none })) ∧
    (∀ key gr i rest cores u, s.grids.find? key = some gr → s.placeNext key gr = true → gr.status ≠ .saved →
      gr.coresident = false → gr.unplaced = i :: rest → cores.length = gr.kernel.cores →
      s.placeTeams key [(i, cores)] = some u →
      exec (.teamPlacement key cores) s = .next u ∧
      (∃ gr', u.grids.find? key = some gr' ∧ gr'.status = .running ∧ i ∉ gr'.unplaced) ∧
      ∃ team t, u.teams.find? team = some t ∧ t.grid = key ∧ t.index = i ∧ t.cores = cores ∧ t.killed = false ∧
        ∀ gid ∈ t.groups, ∃ g, u.groups.find? gid = some g ∧ g.team = team ∧
          (∀ l < g.width, g.fibres.find? l = some (Fibre.start gr.kernel.entry 0 0)) ∧
          g.elem (.k 0) 0 = { bits := BitVec.ofNat 32 i, poison := false } ∧
          g.elem (.k 1) 0 = { bits := BitVec.ofNat 32 gr.teams, poison := false } ∧
          g.elem (.k 2) 0 = { bits := BitVec.ofNat 32 g.index, poison := false } ∧
          g.elem (.k 3) 0 = { bits := BitVec.ofNat 32 g.role, poison := false }) ∧
    (∀ key gr cores u, s.grids.find? key = some gr → s.placeNext key gr = true → gr.status ≠ .saved →
      gr.coresident = true → cores.length = gr.kernel.cores * gr.unplaced.length →
      s.placeTeams key (gr.unplaced.zip (runsOf gr.kernel.cores gr.unplaced.length cores)) = some u →
      exec (.teamPlacement key cores) s = .next u)

/-! ## The host's window, registers and memory (R111, R118, R187, R215, R364, R377 to R382, R385, R392 to R394) -/

/-- TAIL moves, or is refused (R377); a whole packet at HEAD is taken: a LAUNCH or a MARKER becomes outstanding and is
appended to the launch queue (R379, R380), a FEED appends its record to its work queue (R382), a FOLIO write is accepted
or refused whole (R382). A FOLIO write carries its sectors from the partition's memory to its Folio (R111, R385). A marker is
complete when the earlier packets are (R382). -/
def Obligations.WindowEventsComplete : Prop :=
  ∀ (s : State) (part : Nat),
    let p := s.part part
    (∀ v : Word, v.toNat % 64 ≠ 0 ∨ 32768 < countDiff v p.feedHead →
      ∃ t, exec (.feedtail part v) s = .next t ∧ (t.part part).feedTail = p.feedTail ∧
        (t.part part).feedHead = p.feedHead) ∧
    (∀ v : Word, v.toNat % 64 = 0 → countDiff v p.feedHead ≤ 32768 →
      ∃ t, exec (.feedtail part v) s = .next t ∧ (t.part part).feedTail = v) ∧
    (∀ bs, (p.ready 1 = some bs ∨ (p.ready 4 = some bs ∧ s.doneOk part (pktWord bs 8) = true)) →
      s.launchRoom part = true →
      ∃ t, exec (if p.ready 1 = some bs then .launch part else .marker part) s = .next t ∧
        (t.part part).pending = p.pending ++ [s.nextId] ∧
        ((s.blockAt p.qtable).reserve.toNat, s.nextId) ∈ (t.part part).packetOf ∧
        (pktTag bs ≠ 0 → pktTag bs ∈ (t.part part).tags) ∧
        (p.avail = bs.length → (t.part part).feedHead = p.feedTail)) ∧
    (∀ bs, p.ready 4 = some bs → s.doneOk part (pktWord bs 8) = false →
      ∃ t, exec (.marker part) s = .next t ∧ (t.part part).pending = p.pending.filter (· ≠ 0) ∧
        (p.avail = bs.length → (t.part part).feedHead = p.feedTail)) ∧
    (∀ bs, p.ready 2 = some bs → s.judgeFeed part bs = .refused →
      ∃ t, exec (.feed part) s = .next t ∧ (p.avail = bs.length → (t.part part).feedHead = p.feedTail)) ∧
    (∀ bs, p.ready 2 = some bs → s.judgeFeed part bs = .room →
      ∃ t, exec (.feed part) s = .next t ∧ (p.avail = bs.length → (t.part part).feedHead = p.feedTail) ∧
        let a := p.qtable + 64 * recField bs 8 4
        let q := s.blockAt a
        let n := 2 ^ q.esz
        let slot := p.qtable + q.slotAddr q.reserve
        (s.queue a).producers = [] → (s.queue a).consumers = [] → (s.queue a).committed = [] → q.tail = q.reserve →
        part < 8 → isDevice a = true → (slot + n ≤ a ∨ a + 64 ≤ slot) → (∀ i < n, s.reachable (slot + i) = true) →
        s.apart 0 slot n → p.avail = bs.length →
          (t.blockAt a).reserve = q.reserve + 1 ∧ (t.blockAt a).tail = q.tail + 1 ∧
          t.homeBytes slot n = (bs.drop 16).take n) ∧
    (∀ bs, p.ready 3 = some bs → s.folioRefusal part bs = none →
      ∃ t, exec (.folio part) s = .next t ∧ (t.part part).pending = p.pending ++ [s.nextId] ∧
        (t.part part).folios = p.folios ++
          [{ id := s.nextId, tag := pktTag bs, dest := (pktWord bs 8).toNat, src := (pktWord bs 0x10).toNat
             len := (pktWord bs 0x18).toNat, done := pktWord bs 0x20 }]) ∧
    (∀ bs code, p.ready 3 = some bs → s.folioRefusal part bs = some code →
      ∃ t, exec (.folio part) s = .next t ∧ (t.part part).folios = p.folios ∧ t.folio = s.folio) ∧
    (∀ id w, p.folios.find? (fun x => x.id == id) = some w →
      ∃ t, exec (.folioWriteComplete part id) s = .next t ∧
        (t.part part).folios = p.folios.filter (fun x => x.id != id) ∧ id ∉ (t.part part).pending ∧
        ∀ i pa, i < w.len / 32 → s.walkPa part (w.src + 32 * i) { rd := true } { code := 0 } = .ok pa →
          (∀ k < w.len / 32, k ≠ i →
            p.folioAddr (w.dest + 32 * k) + 32 ≤ p.folioAddr (w.dest + 32 * i) ∨
            p.folioAddr (w.dest + 32 * i) + 32 ≤ p.folioAddr (w.dest + 32 * k)) →
          ∀ j < 32, t.folio.read (p.folioAddr (w.dest + 32 * i) + j) = s.byteAt (pa + j)) ∧
    (∀ id m, p.markers.find? (fun x => x.id == id) = some m → m.before = [] →
      ∃ t, exec (.markerComplete part id) s = .next t ∧ (∀ x ∈ (t.part part).markers, x.id ≠ id) ∧
        id ∉ (t.part part).pending ∧ m.tag ∉ (t.part part).tags ∧
        ∀ pa, m.done ≠ 0 → isDevice pa = true → pa % 8 = 0 →
          s.walkPa part (m.done.toNat % 2 ^ 52) { w := true } { code := 0 } = .ok pa →
          t.numberAt (.mem pa) 8 = (completionWord 1 m.tag).toNat)

/-- What the host does: it writes ERRINJEN and the window's bytes, and other offsets ignore it (R364, R377, R393);
ENERGY_LO reads the low half and latches the high one, which ENERGY_HI reads (R215); the other registers of BAR0 read as
they stand (R198, R393); RESETREQ takes a rung unless BUSY is set or its target names nothing (R394); memory reads, writes and AtomicOps act at the home, a poisoned read with its indication
(R118, R392). -/
def Obligations.HostEventsComplete : Prop :=
  ∀ (s : State) (part : Nat),
    let p := s.part part
    (∀ (v : Word), ∃ t, exec (.registerWrite part 0x110 v) s = .next t ∧ (t.part part).errinj = v.getLsbD 0 ∧
      s.SameMemory t ∧ t.groups = s.groups) ∧
    (∀ (offset : Nat) (v : Word), 0x8000 ≤ offset → offset + 4 ≤ 0x10000 →
      ∃ t, exec (.registerWrite part offset v) s = .next t ∧
        (∀ j < 4, (t.part part).feed.read (offset - 0x8000 + j) = BitVec.ofNat 8 (v.toNat / 256 ^ j)) ∧
        (∀ a, (a < offset - 0x8000 ∨ offset - 0x8000 + 4 ≤ a) → (t.part part).feed.read a = p.feed.read a) ∧
        (t.part part).feedTail = p.feedTail ∧ s.SameMemory t ∧ t.groups = s.groups) ∧
    (∀ (offset : Nat) (v : Word), ownEvent offset v = false → offset ≠ 0x110 →
      (offset < 0x8000 ∨ 0x10000 < offset + 4) → exec (.registerWrite part offset v) s = .next s) ∧
    (∃ t, exec (.energyLoRead part) s = .next t ∧ (t.part part).energyHi = (p.energy >>> 32).setWidth 32 ∧
      (t.part part).energy = p.energy ∧ t.outbox = s.outbox ++ [.readReply (leBytes 4 (p.energy.setWidth 32 : Word).toNat) false] ∧
      s.SameMemory t ∧ t.groups = s.groups) ∧
    (∀ v : Word, ∀ x ∈ [(1, Instr.resetreqQueue part v), (2, .resetreqContext part v), (3, .resetreqEngine part v),
        (4, .resetreqPartition part v)], v.toNat % 8 = x.1 →
      let target := v.toNat / 16 % 65536
      let goal := if x.1 = 4 then 0 else target
      (p.resetreq.getLsbD 31 = true ∨ s.targetOk part x.1 target = false → exec x.2 s = .next s) ∧
      (p.resetreq.getLsbD 31 = false → s.targetOk part x.1 target = true →
        ∃ t, exec x.2 s = .next t ∧ (t.part part).resetreq.getLsbD 31 = true ∧
          (∃ r ∈ (t.part part).rungs, r.level = x.1 ∧ r.target = goal ∧ r.byHost = true) ∧
          (p.rungIs x.1 goal = false → (t.part part).rungs = p.rungs ++
            [{ level := x.1, target := goal, since := s.time, byHost := true }]) ∧
          s.SameMemory t ∧ t.groups = s.groups)) ∧
    (∀ x ∈ [(0x100, halfOf p.invreq false), (0x104, halfOf p.invreq true), (0x108, halfOf p.pgresume false),
        (0x10C, halfOf p.pgresume true), (0x110, if p.errinj then 1 else 0), (0x120, p.feedTail), (0x124, p.feedHead),
        (0x130, p.resetreq), (0x204, p.energyHi), (0x300, halfOf s.clock.timestat false),
        (0x304, halfOf s.clock.timestat true), (0x10F0, BitVec.ofNat 32 (leNat (listBytes [p.cores.length,
          p.slices0.length, p.slices1.length, p.folio.length] 4))), (0x10F4, 0xFFFFFFFF), (0x0FC, 0), (0x7FFC, 0)],
      exec (.hostMemoryRead part (.register x.1) 4) s =
        .next { s with outbox := s.outbox ++ [.readReply (leBytes 4 x.2.toNat) false] }) ∧
    (∀ pa size, beyond pa size = false →
      ∃ t m, exec (.hostMemoryRead part (.memory pa) size) s = .next t ∧
        m = Message.readReply (s.homeBytes pa size) (s.firstPoison pa size).isSome ∧ m ∈ t.outbox ∧
        (s.firstPoison pa size = none → t.mem = s.mem ∧ t.outbox = s.outbox ++ [m]) ∧ t.groups = s.groups) ∧
    (∀ pa (bs : List Byte), beyond pa bs.length = false →
      ∃ t, exec (.hostMemoryWrite pa bs) s = .next t ∧ t.groups = s.groups ∧
        (∀ (i : Nat) (b : Byte), bs[i]? = some b → (∀ a, pa ≤ a → a < pa + bs.length → s.reachable (a / 16 * 16) = true) →
          t.byteAt (pa + i) = b) ∧
        ∀ a, (a < pa ∨ pa + bs.length ≤ a) → t.byteAt a = s.byteAt a) ∧
    (∀ (op : HostOp) (pa : Nat) (wide : Bool) (x y : Dword),
      let n := if wide then 8 else 4
      pa % n = 0 → beyond pa n = false → s.reachable (pa / 16 * 16) = true →
      let old := leNat (s.homeBytes pa n)
      ∃ t, exec (.hostAtomicOp op pa wide x y) s = .next t ∧
        t.outbox = s.outbox ++ [.atomicReply (BitVec.ofNat 64 old) (s.homePoison pa n)] ∧
        t.numberAt (.mem pa) n = (if s.homePoison pa n then old else match op with
          | .fetchAdd => (old + x.toNat) % 2 ^ (8 * n)
          | .swap => x.toNat % 2 ^ (8 * n)
          | .cas => if old = x.toNat % 2 ^ (8 * n) then y.toNat % 2 ^ (8 * n) else old) ∧
        (∀ a, (a < pa ∨ pa + n ≤ a) → t.byteAt a = s.byteAt a) ∧ t.groups = s.groups)

/-! ## Pre-emption and the reset ladder (R217, R229 to R234, R389, R394, R400, R401) -/

/-- A slice that has run out pre-empts its grid for one of its class or is loaded again (R389); class 0 takes room by
force (R388); a team that needs no longer than the cut drains, unless its grid is restartable and the scheduler flushes
it (R230); at the cut every team drains no longer and its copy batches are closed (R231); once every team is still
the grid is saved and its teams leave their cores (R233); a tail that runs too long counts and takes rung 2 (R232); a
saved grid returns (R233, R389). The watchdog goes on counting after a kill (R235). -/
def Obligations.PreemptionEventsComplete : Prop :=
  ∀ (s : State) (key : Nat) (g : Grid), s.grids.find? key = some g →
    let len := (s.part g.part).slice
    let begins := fun (t : State) (forced : Bool) =>
      (∃ g', t.grids.find? key = some g' ∧
        g'.preempt = some { since := s.time, cut := none, lanes := [], forced, escalations := 0 }) ∧
      ∀ team x, s.teams.find? team = some x → x.grid = key → ∃ x', t.teams.find? team = some x' ∧
        ((g.restartable = true ∧ x'.killed = true) ∨
          (x'.killed = x.killed ∧ (g.drains x s.time (s.drainLimit g.part) = true → x'.drain = true)))
    (s.sliceDue key g = true → s.peerWaits key g = false →
      ∃ t g', exec (.sliceExpiry key) s = .next t ∧ t.grids.find? key = some g' ∧ g'.slice = len - g.debt ∧
        g'.debt = g.debt - min g.debt len ∧ g'.preempt = none ∧ t.groups = s.groups ∧ t.teams = s.teams) ∧
    (s.sliceDue key g = true → s.peerWaits key g = true →
      ∃ t, exec (.sliceExpiry key) s = .next t ∧ begins t false) ∧
    (g.cls ≠ 0 → g.preempt = none → g.status ≠ .killed → s.resident key = true → s.forcesRoom g.part = true →
      ∃ t, exec (.preemptRequest key) s = .next t ∧ begins t true) ∧
    (∀ p, g.preempt = some p → p.cut = none → g.status ≠ .killed → p.since + g.preemptCut.toNat ≤ s.time →
      ∃ t, exec (.preemptCut key) s = .next t ∧
        (∃ g', t.grids.find? key = some g' ∧ g'.preempt = some { p with cut := some s.time, lanes := t.laneCounts key }) ∧
        ∀ team x, s.teams.find? team = some x → x.grid = key →
          (∃ x', t.teams.find? team = some x' ∧ x'.drain = false) ∧
          ∀ gid h, s.groups.find? gid = some h → h.team = team →
            ∃ h', t.groups.find? gid = some h' ∧ ∀ b ∈ h'.ci ++ h'.co ++ h'.fx, b.isOpen = false) ∧
    (∀ p, g.preempt = some p → g.status ≠ .killed → s.allStill key g = true →
      ∃ t g', exec (.saveImage key) s = .next t ∧ t.teamsOf key = [] ∧
        (∀ x ∈ t.groups.cells, x.2.team ∉ s.teamsOf key) ∧ t.grids.find? key = some g' ∧ g'.preempt = none ∧
        (∀ team x, s.teams.find? team = some x → x.grid = key →
          g'.status = .saved ∧ ∃ m ∈ g'.image, m.id = team ∧ m.team.index = x.index ∧ m.team.z = x.z) ∧
        (s.teamsOf key = [] → g.image = [] → g'.status = .admitted)) ∧
    (∀ p, g.preempt = some p → s.watchdogDue key g = true →
      ∃ t g', exec (.watchdogEscalation key) s = .next t ∧ t.grids.find? key = some g' ∧
        g'.wdog = min (g.wdog + 1) 0xFFFFFFFF ∧ g'.preempt = some { p with escalations := p.escalations + 1 } ∧
        (∃ r ∈ (t.part g.part).rungs, r.level = 2 ∧ r.target = key % 65536) ∧
        ((s.part g.part).rungIs 2 (key % 65536) = false → (t.part g.part).rungs = (s.part g.part).rungs ++
          [{ level := 2, target := key % 65536, since := s.time, byHost := false }]) ∧ t.groups = s.groups) ∧
    (∀ cores u, g.status = .saved → s.placeNext key g = true → cores.length = g.image.length →
      s.restoreTeams key (g.image.zip cores) = some u →
      ∃ t g', exec (.contextRestore key cores) s = .next t ∧ t.grids.find? key = some g' ∧ g'.status = .running ∧
        g'.image = [] ∧ t.teams = u.teams ∧ t.groups = u.groups ∧ t.mem = u.mem)

/-- Rung 1 breaks a queue, whose lists are then empty; rung 2 kills a context; rung 3 resets the engines of a core and
kills the contexts there; rung 4 resets a partition and rung 5 the device, where an update is installed; a rung that is
late hands over to the next, and a late device rung leaves the module held; RESET starts the ladder at its rung (R229,
R234, R394, R400, R401). -/
def Obligations.ResetLadderCompletes : Prop :=
  ∀ (s : State) (part : Nat),
    let p := s.part part
    (∀ queue, (p.rungIs 1 queue = true ∨ s.unanswered (p.queuePlace queue) = true) →
      ∃ t, exec (.queueRung part queue) s = .next t ∧
        (t.queue (p.queuePlace queue).queueKey).producers = [] ∧
        (t.queue (p.queuePlace queue).queueKey).consumers = [] ∧
        (t.part part).rungs = ((p.rungOf 1 queue).map p.rungs.erase).getD p.rungs ∧
        .interrupt part 2 ∈ t.outbox ∧ t.groups = s.groups ∧ t.grids = s.grids) ∧
    (∀ ctx r, s.grids.find? (gridKey part ctx) = none → p.rungOf 2 ctx = some r →
      ∃ t, exec (.contextRung part ctx) s = .next t ∧ (t.part part).rungs = p.rungs.erase r ∧ t.groups = s.groups) ∧
    (∀ ctx g, s.grids.find? (gridKey part ctx) = some g → g.status ≠ .killed →
      (p.rungIs 2 ctx = true ∨ s.idleTooLong (gridKey part ctx) g = true) →
      ∃ t g', exec (.contextRung part ctx) s = .next t ∧ t.grids.find? (gridKey part ctx) = some g' ∧
        g'.status = .killed ∧ g'.unplaced = [] ∧ g'.image = [] ∧ (t.part part).rungIs 2 ctx = true ∧ .interrupt part 2 ∈ t.outbox ∧
        ∀ team x gid h, s.teams.find? team = some x → x.grid = gridKey part ctx → s.groups.find? gid = some h →
          h.team = team → ∃ h', t.groups.find? gid = some h' ∧ h'.fibres.cells = []) ∧
    (∀ core c, p.rungIs 3 core = true → p.cores[core]? = some c →
      ((s.core c).copies ≠ [] ∨ (s.core c).matq ≠ [] ∨
        ∃ k ∈ s.contextsOn c, ∃ gr, s.grids.find? k = some gr ∧ gr.status ≠ .killed) →
      ∃ t, exec (.engineRung part core) s = .next t ∧ (t.core c).copies = [] ∧ (t.core c).matq = [] ∧
        (∀ st, (t.core c).stream = some st → st.stopped = true) ∧
        ∀ k ∈ s.contextsOn c, ∀ gr, s.grids.find? k = some gr →
          ∃ gr', t.grids.find? k = some gr' ∧ gr'.status = .killed) ∧
    (∀ core r, p.rungOf 3 core = some r → p.cores[core]? = none →
      ∃ t, exec (.engineRung part core) s = .next t ∧ (t.part part).rungs = p.rungs.erase r ∧ t.groups = s.groups) ∧
    (p.rungIs 4 0 = true →
      ∃ t, exec (.partitionRung part) s = .next t ∧ (t.part part).rungs = [] ∧
        (∀ x ∈ t.grids.cells, x.2.part ≠ part) ∧ (t.part part).feedTail = 0 ∧ (t.part part).feedHead = 0 ∧
        (t.part part).map = p.map ∧ .interrupt part 2 ∈ t.outbox ∧
        ∀ k ∈ p.cores, (t.core k).stream = none ∧ (t.core k).copies = [] ∧ (t.core k).l1.cells = [] ∧
          (t.core k).pad.retired = (s.core k).pad.retired) ∧
    (s.deviceRung ≠ none →
      ∃ t, exec .deviceRung s = .next t ∧ t.deviceRung = none ∧ t.held = false ∧ t.groups.cells = [] ∧
        t.teams.cells = [] ∧ t.grids.cells = [] ∧ t.update = none ∧ t.fuses = s.fuses ∧
        t.firmware = (match s.update with
          | some u => if u.valid = true ∧ s.rollback ≤ u.version then u.version else s.firmware
          | none => s.firmware)) ∧
    (∀ r, s.rungLate part = some r →
      ∃ t, exec (.rungTimeout part) s = .next t ∧ (r.byHost = true → (t.part part).resetreq.getLsbD 31 = false) ∧
        (r.level = 4 → (t.part part).rungs = p.rungs.erase r ∧ t.deviceRung ≠ none) ∧
        (r.level ≠ 4 → ∃ x ∈ (t.part part).rungs, x.level = r.level + 1 ∧ x.target = s.nextTarget part r) ∧
        t.groups = s.groups) ∧
    (∀ since, s.rungLate part = none → s.deviceRung = some since → since + rungLimit 5 ≤ s.time →
      ∃ t, exec (.rungTimeout part) s = .next t ∧ t.held = true ∧ t.deviceRung = none ∧ t.groups = s.groups) ∧
    (∀ target, ∃ t, exec (.reset 5 part target) s = .next t ∧ t.held = false ∧
      t.deviceRung = some (s.deviceRung.getD s.time) ∧ t.groups = s.groups) ∧
    (∀ n target, 1 ≤ n → n ≤ 4 → s.held = false → s.targetOk part n target = true →
      let goal := if n = 4 then 0 else target
      ∃ t, exec (.reset n part target) s = .next t ∧ t.groups = s.groups ∧
        let lower := fun (r : Rung) => r.byHost && decide (r.level < n)
        (∃ r ∈ (t.part part).rungs, r.level = n ∧ r.target = goal ∧
          (p.rungs.any lower = true → r.byHost = true)) ∧
        (∀ r ∈ (t.part part).rungs, r.byHost = true → n ≤ r.level) ∧
        (t.part part).resetreq = p.resetreq ∧
        (p.rungIs n goal = false → (t.part part).rungs =
          (p.rungs.map fun r => { r with byHost := r.byHost && !lower r }) ++
          [{ level := n, target := goal, since := s.time, byHost := p.rungs.any lower }]))

/-! ## The fabric, power, time and management (R115, R213 to R216, R387, R395 to R404, R406) -/

/-- A peer's accesses act at the home (R395); a port that goes down poisons the reads in flight through it and loses the
writes (R396); the damper samples the rails, adds energy and moves GRANT within 1 to 4 (R214, R216, R402); a droop
alarm starts its sequence (R404); a round of slack control sends its slack, waits for the reports of that round, and may move the clock bin (R397). -/
def Obligations.FabricAndPowerComplete : Prop :=
  ∀ s : State,
    (∀ port pa size, s.ports.getD port false = true → pa < hostBase → beyond pa size = false →
      ∃ t, exec (.peerRequest port (.load pa size)) s = .next t ∧ t.mem = s.mem ∧ t.groups = s.groups ∧
        t.outbox = s.outbox ++ [.peerReply port (s.homeBytes pa size) (s.homePoison pa size)]) ∧
    (∀ port pa (bs : List Byte), s.ports.getD port false = true → pa < hostBase → beyond pa bs.length = false →
      ∃ t, exec (.peerRequest port (.store pa bs)) s = .next t ∧ t.groups = s.groups ∧
        (∀ (i : Nat) (b : Byte), bs[i]? = some b → t.byteAt (pa + i) = b) ∧
        ∀ a, (a < pa ∨ pa + bs.length ≤ a) → t.byteAt a = s.byteAt a) ∧
    (∀ port pa ty op (x : Dword), s.ports.getD port false = true → pa < hostBase → beyond pa (tyBytes ty) = false →
      let n := tyBytes ty
      let old := leNat (s.homeBytes pa n)
      ∃ t, exec (.peerRequest port (.atomic pa ty op x)) s = .next t ∧ t.groups = s.groups ∧
        t.outbox = s.outbox ++ [.peerReply port (leBytes n old) (s.homePoison pa n)] ∧
        t.numberAt (.mem pa) n = (if s.homePoison pa n then old
          else atomOp op ty old (x.toNat % 256 ^ n) % 256 ^ n) ∧
        ∀ a, (a < pa ∨ pa + n ≤ a) → t.byteAt a = s.byteAt a) ∧
    (∀ port pa ty (x y : Dword), s.ports.getD port false = true → pa < hostBase → beyond pa (tyBytes ty) = false →
      let n := tyBytes ty
      let old := leNat (s.homeBytes pa n)
      ∃ t, exec (.peerRequest port (.cas pa ty x y)) s = .next t ∧ t.groups = s.groups ∧
        t.outbox = s.outbox ++ [.peerReply port (leBytes n old) (s.homePoison pa n)] ∧
        t.numberAt (.mem pa) n = (if !s.homePoison pa n && old == x.toNat % 256 ^ n then y.toNat % 256 ^ n
          else old) ∧
        ∀ a, (a < pa ∨ pa + n ≤ a) → t.byteAt a = s.byteAt a) ∧
    (∀ port, s.ports.getD port false = true →
      ∃ t, exec (.portDown port) s = .next t ∧ t.ports.getD port false = false ∧
        (∀ i, i ≠ port → t.ports.getD i false = s.ports.getD i false) ∧
        (∀ gid h, t.groups.find? gid = some h → ∀ f ∈ h.flights, ∀ w ∈ f.writes, w.port = some port →
          w.elem.poison = true) ∧
        (∀ k, ∀ c ∈ (t.core k).copies, ∀ m ∈ c.moves, m.dst.port = some port → c.lost ≠ none ∧ port ∈ c.cut) ∧ t.mem = s.mem) ∧
    (∀ port, port < 8 → s.ports.length = 8 → s.ports.getD port false = false →
      ∃ t, exec (.portUp port) s = .next t ∧ t.ports.getD port false = true ∧
        (∀ i, i ≠ port → t.ports.getD i false = s.ports.getD i false) ∧ t.groups = s.groups ∧ t.mem = s.mem) ∧
    (∀ codes r, ∃ t, exec (.damperInterval codes r) s = .next t ∧
      let w := inputPower codes
      (∀ i < 8, t.rails.get 0 i = railSample (s.rails.get 0 i) (codes.getD i 0)) ∧
      (∀ i p, s.parts.find? i = some p → (t.part i).energy = p.energy + BitVec.ofNat 64 (p.energyOf i r)) ∧
      (∀ k, 1 ≤ (s.core k).grant → (s.core k).grant ≤ 4 →
        1 ≤ (t.core k).grant ∧ (t.core k).grant ≤ 4 ∧
        (15000 < w → (t.core k).grant ≤ (s.core k).grant) ∧
        (w < 14400 → (s.core k).grant ≤ (t.core k).grant) ∧
        (14400 ≤ w → w ≤ 15000 → (t.core k).grant = (s.core k).grant)) ∧
      (∀ k < 32, (t.cluster k).ratio = (s.cluster k).ratio ∧ (t.cluster k).rate = 0 ∧ (t.cluster k).vector = 0) ∧ t.groups = s.groups) ∧
    (∀ cluster code, (s.cluster cluster).stall = some (0, code) →
      ∃ t, exec (.laneRatioStallEnd cluster) s = .next t ∧ (t.cluster cluster).stall = none ∧
        (t.cluster cluster).ratio = (if code = 2 ∧ s.matrixOn cluster = true then (s.cluster cluster).ratio
          else code) ∧ t.groups = s.groups) ∧
    (∀ cluster < 32, (s.cluster cluster).droopCfg.getLsbD 31 = true →
      (1 < (s.cluster cluster).stretchLeft → exec (.droopAlarm cluster) s = .next s) ∧
      ((s.cluster cluster).stretchLeft ≤ 1 → ∃ t, exec (.droopAlarm cluster) s = .next t ∧
        (t.cluster cluster).stretchLeft = 8 ∧ (t.cluster cluster).droopEv = (s.cluster cluster).droopEv + 1 ∧
        t.groups = s.groups)) ∧
    (∀ cluster, (s.cluster cluster).stretchLeft = 1 → ∃ t, exec (.stretchEnd cluster) s = .next t ∧
      (t.cluster cluster).stretchLeft = 0 ∧ (t.cluster cluster).halvedLeft = 65 ∧ t.groups = s.groups) ∧
    (∀ cluster, (s.cluster cluster).halvedLeft = 1 → ∃ t, exec (.halvedEnd cluster) s = .next t ∧
      (t.cluster cluster).halvedLeft = 0 ∧ t.groups = s.groups) ∧
    (∀ part c, (s.part part).group = some c → c.round < s.time / roundNs →
      let bin := (s.cluster ((dedup ((s.part part).cores.map clusterOf)).headD 0)).bin
      let excess := (c.excessOf c.round c.slack :: c.excess).take 8
      let new := binAfter excess c.since bin
      ∃ t c', exec (.slackRound part) s = .next t ∧ t.outbox = s.outbox ++ [.slack part c.round c.slack] ∧
        (t.part part).group = some c' ∧ c'.members = c.members ∧ c'.slack = 0 ∧ c'.round = c.round + 1 ∧
        (c.last = none → c.complete c.round = false →
          c'.last = some c.slack ∧ c'.reports = c.reports ∧ t.clusters = s.clusters) ∧
        (c.last = none → c.complete c.round = true → c'.last = none ∧ c'.excess = excess ∧
          (∀ k ∈ (s.part part).cores, new ≠ bin → (t.cluster (clusterOf k)).bin = new) ∧
          (new = bin → t.clusters = s.clusters))) ∧
    (∀ part member round slack c, (s.part part).group = some c → member ∈ c.members →
      ∃ t c', exec (.slackReport part member ⟨round, slack⟩) s = .next t ∧ (t.part part).group = some c' ∧
        (c.last = none → (round, member, slack) ∈ c'.reports ∧
          ∀ r ∈ c'.reports, r.1 = round → r.2.1 = member → r.2.2 = slack) ∧
        (let c₁ : Collective := { c with
          reports := c.reports.filter (fun r : Nat × Nat × Nat => !(r.1 == round && r.2.1 == member)) ++
            [(round, member, slack)] }
        ∀ own, c.last = some own → c₁.complete (c.round - 1) = true →
          c'.last = none ∧ c'.excess = (c₁.excessOf (c.round - 1) own :: c.excess).take 8) ∧ t.groups = s.groups)

/-- Time sources move TIME's rate and lock, and never TIME itself (R213, R398); a scrub repairs or poisons a sector
(R406); the physical function configures a partition (R387, R389, R397); Yilup and SPDM answer (R400, R401). -/
def Obligations.ManagementEventsComplete : Prop :=
  ∀ s : State,
    (s.clock.src ≠ 0 → s.clock.src ≠ 1 → ∀ o : Int, exec (.ptmMeasurement o) s = .next s) ∧
    (s.clock.src = 0 ∨ s.clock.src = 1 → ∀ o : Int, ∃ t, exec (.ptmMeasurement o) s = .next t ∧ t.clock.time = s.clock.time ∧ t.clock.src = 1 ∧
      t.clock.offset = o ∧ -100 ≤ t.clock.rate ∧ t.clock.rate ≤ 100 ∧
      (-100 ≤ o → o ≤ 100 → t.clock.rate = -o) ∧ (o < -100 ∨ 100 < o → t.clock.lock = false) ∧
      (t.clock.lock = true ↔ t.clock.good = 16) ∧ t.clock.step = (if o < -1000000 then o.natAbs else 0)) ∧
    (∀ n, ∃ t, exec (.timeOfDayMessage n) s = .next t ∧ t.clock.tod = some n ∧ t.clock.time = s.clock.time) ∧
    (s.clock.tod = none → exec .ppsPulse s = .next s) ∧
    (∀ n, s.clock.tod = some n → ∃ t, exec .ppsPulse s = .next t ∧ t.clock.tod = none ∧ t.clock.time = s.clock.time ∧
      (s.clock.src = 0 ∨ s.clock.src = 2 → t.clock.src = 2 ∧
        t.clock.offset = (s.time : Int) - n * 1000000000) ∧
      (s.clock.src ≠ 0 → s.clock.src ≠ 2 → t.clock = { s.clock with tod := none })) ∧
    (∃ t, exec .timeSourceLoss s = .next t ∧ t.clock.src = 0 ∧ t.clock.rate = 0 ∧ t.clock.lock = s.clock.lock ∧
      t.clock.time = s.clock.time) ∧
    (∀ sec, sec * 32 < Config.hbmBytes →
      exec (.patrolScrub sec .clean) s = .next s ∧
      (∃ t, exec (.patrolScrub sec .corrected) s = .next t ∧ sec ∉ t.ceMarks ∧ t.mem = s.mem ∧
        t.poison = s.poison) ∧
      ∃ t, exec (.patrolScrub sec .uncorrectable) s = .next t ∧ t.poison.contains (2 * sec) = true ∧
        t.poison.contains (2 * sec + 1) = true ∧ t.mem = s.mem ∧
        ∀ w, w / 2 ≠ sec → t.poison.contains w = s.poison.contains w) ∧
    (∀ n < 6, exec (.clerkRestart n) s = .next s) ∧
    (∀ part < 8,
      (∀ ns, 100000 ≤ ns → ns ≤ 100000000 → ∃ t, exec (.partitionConfiguration part (.slice ns)) s = .next t ∧
        (t.part part).slice = ns ∧ t.groups = s.groups) ∧
      (∀ q, workQueueOk q = true → ∃ t, exec (.partitionConfiguration part (.workQueue q)) s = .next t ∧
        q ∈ (t.part part).workQs ∧ (∀ w ∈ (t.part part).workQs, w.index = q.index → w = q) ∧
        t.groups = s.groups ∧
        ((∀ w ∈ (s.part part).workQs, w.index ≠ q.index) → isDevice ((s.part part).qtable + 64 * q.index) = true →
          let b := t.blockAt ((s.part part).qtable + 64 * q.index)
          b.esz = q.eszlog ∧ b.caplog = q.caplog ∧ b.kind = 1 ∧ b.blk = true ∧ b.md = true ∧ b.state = 0 ∧
          b.check = b.checkWord ∧ b.head = 0 ∧ b.tail = 0)) ∧
      (∀ ms, ∃ t, exec (.partitionConfiguration part (.collective ms)) s = .next t ∧ t.groups = s.groups ∧
        (ms = [] → (t.part part).group = none) ∧
        (ms ≠ [] → ∃ c, (t.part part).group = some c ∧ c.members = ms ∧ c.reports = [])) ∧
      (∀ m, s.mapOk part m = true → ∃ t r, exec (.partitionConfiguration part (.partMap m)) s = .next t ∧
        (t.part part).map = m ∧ (t.part part).cores = (s.part part).cores ∧ r ∈ (t.part part).rungs ∧
        r.level = 4 ∧ t.groups = s.groups) ∧
      ∃ t, exec (.partitionConfiguration part .deviceRung) s = .next t ∧
        t.deviceRung = some (s.deviceRung.getD s.time) ∧ t.groups = s.groups) ∧
    (∃ t, exec .status s = .next t ∧ t.outbox = s.outbox ++ [.status s.held s.rungNow s.clock.timestat
      ((List.range 8).map fun i => s.rails.get 0 i)] ∧ t.mem = s.mem ∧ t.groups = s.groups) ∧
    (s.held = true → exec .log s = .next s ∧ (∀ c, exec (.map c) s = .next s) ∧
      ∀ i, exec (.update i) s = .next s) ∧
    (s.held = false →
      (∃ t, exec .log s = .next t ∧ t.outbox = s.outbox ++ [.log s.errors] ∧ t.groups = s.groups) ∧
      (∃ t, exec (.map .read) s = .next t ∧
        t.outbox = s.outbox ++ [.partMap (s.parts.cells.map fun x => x.2.map)] ∧ t.parts = s.parts) ∧
      (∀ part m, ∃ t, exec (.map (.set part m)) s = .next t ∧
        t.outbox = s.outbox ++ [.accepted (s.mapOk part m)] ∧
        (s.mapOk part m = true → (t.part part).map = m) ∧ (s.mapOk part m = false → t.parts = s.parts)) ∧
      ∀ i, ∃ t, exec (.update i) s = .next t ∧
        t.outbox = s.outbox ++ [.accepted (i.valid && decide (s.rollback ≤ i.version))] ∧
        t.update = (if i.valid = true ∧ s.rollback ≤ i.version then some i else s.update) ∧
        t.firmware = s.firmware) ∧
    (∃ t, exec .spdmAlgorithms s = .next t ∧ t.mem = s.mem ∧ t.groups = s.groups ∧
      t.outbox = s.outbox ++ [.algorithms .falcon1024 .shake256 true]) ∧
    (∀ n, 1 ≤ n → n ≤ 5 → ∃ t, exec (.spdmMeasurements n) s = .next t ∧
      t.outbox = s.outbox ++ [.spdm 5 (Config.digest n (s.measured n))]) ∧
    (∀ x ∈ [(Instr.spdmVersion, 0), (.spdmCapabilities, 1)],
      ∃ t ws, exec x.1 s = .next t ∧ t.outbox = s.outbox ++ [.spdm x.2 ws] ∧ t.mem = s.mem ∧ t.groups = s.groups) ∧
    ∀ n, ∀ x ∈ [(Instr.spdmCertificates n, 3), (.spdmChallenge n, 4), (.spdmMeasurements n, 5)],
      ∃ t ws, exec x.1 s = .next t ∧ t.outbox = s.outbox ++ [.spdm x.2 ws] ∧ t.mem = s.mem ∧ t.groups = s.groups

/-! ## Encoding (R236 to R259) -/

/-- Decode and encode agree, for every instruction form: the word of a well-formed instruction that its entry admits
decodes to it, and an instruction that a word decodes to is well-formed, admitted, and encodes to that word. An
unallocated opcode is a word whose opcode no table of the chapter has (R237, R259). -/
def Obligations.DecodeEncodeAgree : Prop :=
  ∀ (i : Instr) (w : Dword),
    (i.wf = true → i.legal = true → encode i = some w →
      (∀ v, i = .unallocatedOpcode v → parse (opcodeOf v) (v.toNat % 2 ^ 54) = .unallocated) →
      decode w = .ok i) ∧
    (decode w = .ok i → i.wf = true ∧ i.legal = true ∧ encode i = some w)

/-- The worked words of the encoding chapter decode to their lines, and the words that it says are illegal to no
instruction (R236 to R259). -/
def Obligations.WorkedWordsDecode : Prop :=
  decode 0x3044_0003_00AA_1000 = .ok (.add
    { ty := .s32, rnd := .rne, sat := false, neg1 := false, neg2 := false, func := 0
      dst := .v 12, s1 := .v 10, s2 := .u 4, s3 := .v 0 }) ∧
  decode 0xC08C_0140_5000_3F00 = .ok (.fmulImm
    { ty := .f32, rnd := .rne, sat := false, dst := .v 20, s1 := .v 20, s2 := .v 0, imm := 0x3F00 }) ∧
  decode 0x0181_E07C_C180_0000 = .ok (.strand { vlo := 30, vhi := 31, klo := 24, khi := 24, pmask := 0 }) ∧
  decode 0x8011_1007_C1E4_0100 = .ok (.cp
    { dir := .into, size := .b16, scope := .core, scap := 1, dcap := 0
      sidx := .v 31, didx := .v 30, soff := 256, doff := 256 }) ∧
  decode 0x80C8_0000_0000_0000 = .ok (.wait { cls := .ci, thresh := 0 }) ∧
  decode 0x8180_8254_DD34_0000 = .ok (.mma
    { tile := 0, mode := .sacc, causal := false, aslot := 1, bslot := 2
      gamma := .u 27, coord := .u 26, ta := false, tb := false }) ∧
  decode 0x0048_4040_0000_0000 = .ok (.pb { pred := 2, comp := false, count := 1, pattern := 1 }) ∧
  decode 0 = .ok .nop ∧
  (∀ i, decode 0x3046_0003_00AA_1000 ≠ .ok i) ∧
  (∀ i, decode (0x3044_0003_00AA_1000 ||| 0x0000_8000_0000_0000) ≠ .ok i) ∧
  decode (BitVec.ofNat 64 (0x2C8 * 2 ^ 54)) = .ok (.unallocatedOpcode (BitVec.ofNat 64 (0x2C8 * 2 ^ 54))) ∧
  decode (BitVec.ofNat 64 (2 ^ 64 - 1)) = .ok (.unallocatedOpcode (BitVec.ofNat 64 (2 ^ 64 - 1)))

/-! ## The step -/

/-- A step executes the instruction that is fetched. The batch or stream that is chosen stands at a word that decodes
to an instruction: the step counts the issue, executes the instruction, and then notes when a float result is ready
(R16, R24, R44, R218, R316). A batch that leads a pack first puts its mates behind it, and the
second batch of a pack counts it in PACKED (R19, R212). -/
def Obligations.StepExecutes : Prop :=
  ∀ s : State, s.held = false →
    (∀ slot r mates w i, s.next = .issue (.batch slot r mates) →
      s.Fetches r.b.g.core r.gr (r.b.g.walksFor r.b.lanes) r.b.f.pc w → r.b.g.unheaded r.b.lanes w = [] →
      encodingFault false w = none → decode w = .ok i →
      let u := if mates = [] then s.popSchedule else s.popSchedule.modCore r.b.g.core fun k =>
        { k with packing := mates.map (Runner.pending slot) }
      step s = match exec i (u.issuing r slot i w) with
        | .next t => .next (((({ t with issue := none } : State).noteBusy r.b i).noteOld r.b slot).endAtReach r.b r.gr
            slot)
        | x => x) ∧
    (∀ core gid ls slot rest r w i, s.next = .pack core → (s.core core).packing = (gid, ls, slot) :: rest →
      let u := s.modCore core fun k => { k with packing := rest }
      (u.runners core).find? (fun r => r.is gid ls && u.instrReady r.gr r.b) = some r →
      let v := u.modCore core fun k => k.countPack slot
      v.Fetches r.b.g.core r.gr (r.b.g.walksFor r.b.lanes) r.b.f.pc w → r.b.g.unheaded r.b.lanes w = [] →
      encodingFault false w = none → decode w = .ok i →
      step s = match exec i (v.issuing r slot i w) with
        | .next t => .next ((((({ t with issue := none } : State).noteBusy r.b i).noteOld r.b slot).endAtReach r.b r.gr
            slot).endPack core slot)
        | x => x) ∧
    (∀ core st g t gr w i, s.next = .issue (.stream core) → (s.core core).stream = some st →
      s.groups.find? st.owner = some g → s.owners g = some (t, gr) →
      s.Fetches core gr st.walks st.pc w → encodingFault true w = none → decode w = .ok i →
      step s = match exec i (s.popSchedule.streaming core st g.team w i.copyPort) with
        | .next t => .next { t with issue := none }
        | x => x) ∧
    (∀ e, s.next = .event e → step s = exec e (match s.popSchedule.completes e with
        | some t => s.popSchedule.live t
        | none => s.popSchedule)) ∧
    (∀ e rest, s.next = .input → s.inputs = e :: rest →
      step s = match exec e { s.popSchedule with inputs := rest } with
        | .refused _ => .next { s.popSchedule with inputs := rest }
        | x => x)

/-- Every step keeps memory and the Folio in their canonical form: addresses in ascending order, and no byte listed
that reads as an unlisted one does. -/
def Obligations.StepKeepsInvariant : Prop :=
  ∀ s t : State, s.Inv → step s = .next t → t.Inv

/-- What reset leaves: the values that R130, R212, R216, R398, R403 and R404 give, memory in its canonical form, the
launch queue opened with the layout of R188, and nothing under way. -/
def Obligations.ResetLeaves : Prop :=
  let s := State.reset
  s.Inv ∧ s.groups.cells = [] ∧ s.teams.cells = [] ∧ s.grids.cells = [] ∧ s.held = false ∧
  s.clock.lock = false ∧ s.clock.src = 0 ∧ s.clock.offset = 0 ∧
  (∀ i, s.rails.get 0 i = 0) ∧
  (∀ k, (s.core k).grant = 4 ∧ (s.core k).cIssued = 0 ∧ (s.core k).packed = 0 ∧ (s.core k).latchReplay = 0 ∧
    (s.core k).actEvict = 0 ∧ (s.core k).parServed = 0 ∧ (s.core k).parStale = 0 ∧ (s.core k).stream = none ∧
    (s.core k).matq = [] ∧ (s.core k).copies = []) ∧
  (∀ i, (s.cluster i).cycles = 0 ∧ (s.cluster i).droopEv = 0 ∧ (s.cluster i).stretch = 0 ∧ (s.cluster i).halved = 0 ∧
    (s.cluster i).droopCfg = 0x80000019) ∧
  (∀ p, (s.part p).hpdrop = 0 ∧ (s.part p).energy = 0 ∧ (s.part p).errinj = false) ∧
  (let q := s.blockAt (s.part 0).qtable
   q.state = 0 ∧ q.kind = 2 ∧ q.esz = 4 ∧ q.caplog = 8 ∧ q.blk = false ∧ q.md = true ∧ q.corrupt = none)

/-! ## Writing a result -/

/-- What writing the result of a vector instruction does (R22, R29, R58, R77, R82, R294): the elements and the tags of
each lane of its effect stand in the destination, a k register takes those of the lowest, the latches shift by one or
two, and no other register, lane, group or byte changes; the tags of a column in which no lane is written stay as they
were. -/
def Obligations.ResultsAreWritten : Prop :=
  ∀ (s : State) (c : Ctx) (dst : Opnd) (n : Nat) (r : Nat → VRes), s.RunsIn c → c.Proper → c.g.flights = [] →
    (n = 1 ∨ n = 2) → (∀ l ∈ c.is.eff, (r l).elems.length = n) → dst.isDst = true →
    (∀ t, t = c.vecDone dst r ∨ t = c.regDone dst r →
      c.Moved t ∧ c.Alone t ∧ s.SameMemory t ∧ c.FileBut t dst n ∧
      ∃ g, t.groups.find? c.gid = some g ∧
        (dst.isUniform = false → ∀ l < 64, ∀ x, (l ∈ c.is.eff → ∀ j < n, x ≠ (c.reg l dst).succ j) →
          g.elem x l = c.g.elem x l ∧ g.nearOk x l = c.g.nearOk x l) ∧
        (dst.isUniform = false → ∀ l < 64, ∀ x,
          (∀ m ∈ c.is.eff, m / 8 = l / 8 → ∀ j < n, x ≠ (c.reg m dst).succ j) → g.tag x l = c.g.tag x l) ∧
        (dst.isReg = true → dst.isUniform = false → ∀ l ∈ c.is.eff, ∀ j < n,
          g.elem ((c.reg l dst).succ j) l = (r l).elems.getD j Elem.zero ∧
          g.nearOk ((c.reg l dst).succ j) l = (c.g.active || c.g.nearOk ((c.reg l dst).succ j) l) ∧
          ∀ a, (∀ l ∈ c.is.eff, (r l).tagAt j = a) → g.tag ((c.reg l dst).succ j) l = a) ∧
        (dst.isUniform = true → ∀ l ∈ c.is.eff.head?, ∀ j < n, ∀ m,
          g.elem ((c.reg l dst).succ j) m = (r l).elems.getD j Elem.zero)) ∧
    ((c.regDone dst r).cores = s.cores) ∧
    (c.is.slot < (s.core c.g.core).slots.length →
      let old := ((s.core c.g.core).slot c.is.slot).latch
      let new := (((c.vecDone dst r).core c.g.core).slot c.is.slot).latch
      (∀ j < n, ∃ x, new[j]? = some x ∧ ∀ l ∈ c.is.eff,
        x.elems.get Elem.zero (c.g.position l) = (r l).elems.getD j Elem.zero ∧
        ∀ a, (∀ l ∈ c.is.eff, (r l).tagAt j = a) → x.tags.get Tag.start (c.g.position l / 8) = a) ∧
      (∀ j, n + j < 4 → new[n + j]? = old[j]?) ∧
      (c.vecDone dst r).groups = (c.regDone dst r).groups)
end

