-- ==== Sys2Proof/Laws/Tab.lean ====
section
/-! SUPPORT. Laws of tables: a read after a write, two writes to one key, and the canonical form, which every
write keeps. -/

namespace Sys2Proof.Machine

variable {α : Type}

/-! ## Reads after writes -/

theorem Tab.find?_go_insert_same (k : Nat) (v : α) (l : List (Nat × α)) :
    Tab.find?.go k (Tab.insert.go k v l) = some v := by
  induction l with
  | nil => simp [Tab.insert.go, Tab.find?.go]
  | cons c r ih =>
    obtain ⟨i, w⟩ := c
    simp only [Tab.insert.go]
    split
    · simp [Tab.find?.go]
    · split
      · simp [Tab.find?.go]
      · rename_i h
        simp [Tab.find?.go, Ne.symm h, ih]

theorem Tab.find?_go_insert_other {k j : Nat} (h : j ≠ k) (v : α) (l : List (Nat × α)) :
    Tab.find?.go j (Tab.insert.go k v l) = Tab.find?.go j l := by
  induction l with
  | nil => simp [Tab.insert.go, Tab.find?.go, Ne.symm h]
  | cons c r ih =>
    obtain ⟨i, w⟩ := c
    simp only [Tab.insert.go]
    split
    · simp [Tab.find?.go, Ne.symm h]
    · split
      · subst_vars
        simp [Tab.find?.go, Ne.symm h]
      · simp [Tab.find?.go, ih]

theorem Tab.find?_insert_same (t : Tab α) (k : Nat) (v : α) : (t.insert k v).find? k = some v :=
  Tab.find?_go_insert_same k v t.cells

theorem Tab.find?_insert_other (t : Tab α) {k j : Nat} (h : j ≠ k) (v : α) :
    (t.insert k v).find? j = t.find? j :=
  Tab.find?_go_insert_other h v t.cells

theorem Tab.find?_insert (t : Tab α) (k j : Nat) (v : α) :
    (t.insert k v).find? j = if j = k then some v else t.find? j := by
  split
  · subst_vars
    exact t.find?_insert_same _ v
  · exact t.find?_insert_other ‹_› v

theorem Tab.find?_go_filter (p : Nat → Bool) (j : Nat) (l : List (Nat × α)) :
    Tab.find?.go j (l.filter fun c => p c.1) = if p j then Tab.find?.go j l else none := by
  induction l with
  | nil => simp [Tab.find?.go]
  | cons c r ih =>
    obtain ⟨i, w⟩ := c
    by_cases hi : i = j
    · subst hi
      by_cases hp : p i <;> simp [hp, Tab.find?.go, ih]
    · by_cases hp : p i <;> simp [hp, Tab.find?.go, ih, hi]

theorem Tab.find?_erase (t : Tab α) (k j : Nat) :
    (t.erase k).find? j = if j = k then none else t.find? j := by
  have h := Tab.find?_go_filter (fun i => i != k) j t.cells
  by_cases hj : j = k <;> simp [hj] at h ⊢ <;> exact h

theorem Tab.get_insert (t : Tab α) (d : α) (k j : Nat) (v : α) :
    (t.insert k v).get d j = if j = k then v else t.get d j := by
  unfold Tab.get
  rw [Tab.find?_insert]
  split <;> rfl

@[simp] theorem Tab.get_insert_same (t : Tab α) (d : α) (k : Nat) (v : α) : (t.insert k v).get d k = v := by
  simp [Tab.get_insert]

theorem Tab.get_put [DecidableEq α] (t : Tab α) (d : α) (k j : Nat) (v : α) :
    (t.put d k v).get d j = if j = k then v else t.get d j := by
  unfold Tab.put
  split
  · subst_vars
    unfold Tab.get
    rw [Tab.find?_erase]
    split <;> rfl
  · exact Tab.get_insert t d k j v

theorem Tab.insert_go_insert (k : Nat) (v w : α) (l : List (Nat × α)) :
    Tab.insert.go k w (Tab.insert.go k v l) = Tab.insert.go k w l := by
  induction l with
  | nil => simp [Tab.insert.go]
  | cons c r ih =>
    obtain ⟨i, x⟩ := c
    by_cases h1 : k < i
    · simp [Tab.insert.go, h1]
    · by_cases h2 : k = i
      · simp [Tab.insert.go, h2]
      · simp [Tab.insert.go, h1, h2, ih]

/-- The later of two writes to one key is the one that stays. -/
@[simp] theorem Tab.insert_insert (t : Tab α) (k : Nat) (v w : α) :
    (t.insert k v).insert k w = t.insert k w := by
  simp [Tab.insert, Tab.insert_go_insert]

theorem Tab.mem_insert_go {k : Nat} {v : α} {l : List (Nat × α)} {c : Nat × α}
    (h : c ∈ Tab.insert.go k v l) : c = (k, v) ∨ c ∈ l := by
  induction l with
  | nil => simpa [Tab.insert.go] using h
  | cons x r ih =>
    obtain ⟨i, w⟩ := x
    simp only [Tab.insert.go] at h
    split at h
    · simpa using h
    · split at h
      · rcases List.mem_cons.1 h with h | h
        · exact .inl h
        · exact .inr (List.mem_cons_of_mem _ h)
      · rcases List.mem_cons.1 h with h | h
        · exact .inr (by simp [h])
        · exact (ih h).imp id (List.mem_cons_of_mem _)

/-! ## The canonical form -/

theorem sortedKeys_tail {c : Nat × α} {r : List (Nat × α)} (h : sortedKeys (c :: r) = true) :
    sortedKeys r = true := by
  cases r with
  | nil => rfl
  | cons d q =>
    obtain ⟨i, v⟩ := c
    obtain ⟨j, w⟩ := d
    simp [sortedKeys] at h
    exact h.2

theorem sortedKeys_head {i : Nat} {v : α} {r : List (Nat × α)} (h : sortedKeys ((i, v) :: r) = true) :
    ∀ c ∈ r, i < c.1 := by
  induction r generalizing i v with
  | nil => simp
  | cons d q ih =>
    obtain ⟨j, w⟩ := d
    have hj : i < j := by simp [sortedKeys] at h; exact h.1
    have ht := sortedKeys_tail h
    intro c hc
    rcases List.mem_cons.1 hc with rfl | hc
    · exact hj
    · exact Nat.lt_trans hj (ih ht c hc)

theorem sortedKeys_cons {i : Nat} {v : α} {r : List (Nat × α)} (h : ∀ c ∈ r, i < c.1)
    (hr : sortedKeys r = true) : sortedKeys ((i, v) :: r) = true := by
  cases r with
  | nil => rfl
  | cons d q =>
    obtain ⟨j, w⟩ := d
    simp [sortedKeys, hr]
    exact h (j, w) (by simp)

theorem sortedKeys_insert {k : Nat} {v : α} {l : List (Nat × α)} (h : sortedKeys l = true) :
    sortedKeys (Tab.insert.go k v l) = true := by
  induction l with
  | nil => rfl
  | cons c r ih =>
    obtain ⟨i, w⟩ := c
    have hh := sortedKeys_head h
    have ht := sortedKeys_tail h
    simp only [Tab.insert.go]
    split
    · rename_i hk
      refine sortedKeys_cons (fun c hc => ?_) h
      rcases List.mem_cons.1 hc with rfl | hc
      · exact hk
      · exact Nat.lt_trans hk (hh c hc)
    · split
      · subst_vars
        exact sortedKeys_cons hh ht
      · rename_i h1 h2
        refine sortedKeys_cons (fun c hc => ?_) (ih ht)
        rcases Tab.mem_insert_go hc with rfl | hc
        · omega
        · exact hh c hc

theorem sortedKeys_filter (p : Nat × α → Bool) {l : List (Nat × α)} (h : sortedKeys l = true) :
    sortedKeys (l.filter p) = true := by
  induction l with
  | nil => rfl
  | cons c r ih =>
    obtain ⟨i, w⟩ := c
    have hh := sortedKeys_head h
    have ht := sortedKeys_tail h
    by_cases hp : p (i, w)
    · simp only [List.filter_cons, hp, if_true]
      exact sortedKeys_cons (fun c hc => hh c (List.mem_filter.1 hc).1) (ih ht)
    · simpa [List.filter_cons, hp] using ih ht

/-- Every write keeps the canonical form. -/
theorem Tab.wf_put [DecidableEq α] {t : Tab α} {d : α} (h : t.wf d = true) (k : Nat) (v : α) :
    (t.put d k v).wf d = true := by
  simp only [Tab.wf, Bool.and_eq_true, List.all_eq_true, decide_eq_true_eq] at h ⊢
  unfold Tab.put
  split
  · exact ⟨sortedKeys_filter _ h.1, fun c hc => h.2 c (List.mem_filter.1 hc).1⟩
  · rename_i hv
    refine ⟨sortedKeys_insert h.1, fun c hc => ?_⟩
    rcases Tab.mem_insert_go hc with rfl | hc
    · exact hv
    · exact h.2 c hc

theorem Memory.wf_write {m : Memory} (h : m.wf = true) (a : Nat) (b : Byte) : (m.write a b).wf = true :=
  Tab.wf_put h a b

/-- A read after a write. -/
theorem Memory.read_write (m : Memory) (a j : Nat) (b : Byte) :
    (m.write a b).read j = if j = a then b else m.read j :=
  Tab.get_put m Memory.default a j b

@[simp] theorem Memory.read_write_same (m : Memory) (a : Nat) (b : Byte) : (m.write a b).read a = b := by
  simp [Memory.read_write]

theorem Memory.read_write_other (m : Memory) {a j : Nat} (h : j ≠ a) (b : Byte) :
    (m.write a b).read j = m.read j := by
  simp [Memory.read_write, h]

/-- Memory after reset has the canonical form. -/
theorem Memory.wf_reset : Memory.reset.wf = true := by decide

/-- A fold of writes keeps the canonical form. -/
theorem Memory.wf_foldl {β : Type} (f : Memory → β → Memory) (hf : ∀ m b, m.wf = true → (f m b).wf = true)
    (l : List β) {m : Memory} (h : m.wf = true) : (l.foldl f m).wf = true := by
  induction l generalizing m with
  | nil => exact h
  | cons b r ih => exact ih (hf m b h)

/-! ## Sets of numbers -/

@[simp] theorem mem_ninsert (k j : Nat) (l : List Nat) : j ∈ ninsert k l ↔ j = k ∨ j ∈ l := by
  induction l with
  | nil => simp [ninsert]
  | cons i r ih =>
    simp only [ninsert]
    split
    · simp
    · split
      · subst_vars
        simp
      · simp only [List.mem_cons, ih]
        tauto

@[simp] theorem mem_nerase (k j : Nat) (l : List Nat) : j ∈ nerase k l ↔ j ∈ l ∧ j ≠ k := by
  simp [nerase]

theorem mem_nset (b : Bool) (k j : Nat) (l : List Nat) :
    j ∈ nset b k l ↔ (b = true ∧ j = k) ∨ (j ∈ l ∧ (b = true ∨ j ≠ k)) := by
  cases b <;> simp [nset]

end Sys2Proof.Machine
end

