-- ==== Sys2Proof/Laws/State.lean ====
section
/-! SUPPORT. What each update of the state does to each of its fields, and reads of a part after an update. -/

namespace Sys2Proof.Machine

/-! ## setCore -/

section

variable (s : State) (i : Nat) (x : Core)

@[simp] theorem State.setCore_inputs : (s.setCore i x).inputs = s.inputs := rfl
@[simp] theorem State.setCore_schedule : (s.setCore i x).schedule = s.schedule := rfl
@[simp] theorem State.setCore_issue : (s.setCore i x).issue = s.issue := rfl
@[simp] theorem State.setCore_seq : (s.setCore i x).seq = s.seq := rfl
@[simp] theorem State.setCore_nextId : (s.setCore i x).nextId = s.nextId := rfl
@[simp] theorem State.setCore_free : (s.setCore i x).free = s.free := rfl
@[simp] theorem State.setCore_nominal : (s.setCore i x).nominal = s.nominal := rfl
@[simp] theorem State.setCore_clock : (s.setCore i x).clock = s.clock := rfl
@[simp] theorem State.setCore_fuses : (s.setCore i x).fuses = s.fuses := rfl
@[simp] theorem State.setCore_held : (s.setCore i x).held = s.held := rfl
@[simp] theorem State.setCore_deviceRung : (s.setCore i x).deviceRung = s.deviceRung := rfl
@[simp] theorem State.setCore_update : (s.setCore i x).update = s.update := rfl
@[simp] theorem State.setCore_firmware : (s.setCore i x).firmware = s.firmware := rfl
@[simp] theorem State.setCore_rollback : (s.setCore i x).rollback = s.rollback := rfl
@[simp] theorem State.setCore_rails : (s.setCore i x).rails = s.rails := rfl
@[simp] theorem State.setCore_errors : (s.setCore i x).errors = s.errors := rfl
@[simp] theorem State.setCore_upsets : (s.setCore i x).upsets = s.upsets := rfl
@[simp] theorem State.setCore_outbox : (s.setCore i x).outbox = s.outbox := rfl
@[simp] theorem State.setCore_mem : (s.setCore i x).mem = s.mem := rfl
@[simp] theorem State.setCore_memTags : (s.setCore i x).memTags = s.memTags := rfl
@[simp] theorem State.setCore_poison : (s.setCore i x).poison = s.poison := rfl
@[simp] theorem State.setCore_ceMarks : (s.setCore i x).ceMarks = s.ceMarks := rfl
@[simp] theorem State.setCore_folio : (s.setCore i x).folio = s.folio := rfl
@[simp] theorem State.setCore_folioPoison : (s.setCore i x).folioPoison = s.folioPoison := rfl
@[simp] theorem State.setCore_cores : (s.setCore i x).cores = s.cores.insert i x := rfl
@[simp] theorem State.setCore_clusters : (s.setCore i x).clusters = s.clusters := rfl
@[simp] theorem State.setCore_dies : (s.setCore i x).dies = s.dies := rfl
@[simp] theorem State.setCore_slices : (s.setCore i x).slices = s.slices := rfl
@[simp] theorem State.setCore_parts : (s.setCore i x).parts = s.parts := rfl
@[simp] theorem State.setCore_ports : (s.setCore i x).ports = s.ports := rfl
@[simp] theorem State.setCore_grids : (s.setCore i x).grids = s.grids := rfl
@[simp] theorem State.setCore_teams : (s.setCore i x).teams = s.teams := rfl
@[simp] theorem State.setCore_groups : (s.setCore i x).groups = s.groups := rfl
@[simp] theorem State.setCore_queues : (s.setCore i x).queues = s.queues := rfl

end

/-! ## setCluster -/

section

variable (s : State) (i : Nat) (x : Cluster)

@[simp] theorem State.setCluster_inputs : (s.setCluster i x).inputs = s.inputs := rfl
@[simp] theorem State.setCluster_schedule : (s.setCluster i x).schedule = s.schedule := rfl
@[simp] theorem State.setCluster_issue : (s.setCluster i x).issue = s.issue := rfl
@[simp] theorem State.setCluster_seq : (s.setCluster i x).seq = s.seq := rfl
@[simp] theorem State.setCluster_nextId : (s.setCluster i x).nextId = s.nextId := rfl
@[simp] theorem State.setCluster_free : (s.setCluster i x).free = s.free := rfl
@[simp] theorem State.setCluster_nominal : (s.setCluster i x).nominal = s.nominal := rfl
@[simp] theorem State.setCluster_clock : (s.setCluster i x).clock = s.clock := rfl
@[simp] theorem State.setCluster_fuses : (s.setCluster i x).fuses = s.fuses := rfl
@[simp] theorem State.setCluster_held : (s.setCluster i x).held = s.held := rfl
@[simp] theorem State.setCluster_deviceRung : (s.setCluster i x).deviceRung = s.deviceRung := rfl
@[simp] theorem State.setCluster_update : (s.setCluster i x).update = s.update := rfl
@[simp] theorem State.setCluster_firmware : (s.setCluster i x).firmware = s.firmware := rfl
@[simp] theorem State.setCluster_rollback : (s.setCluster i x).rollback = s.rollback := rfl
@[simp] theorem State.setCluster_rails : (s.setCluster i x).rails = s.rails := rfl
@[simp] theorem State.setCluster_errors : (s.setCluster i x).errors = s.errors := rfl
@[simp] theorem State.setCluster_upsets : (s.setCluster i x).upsets = s.upsets := rfl
@[simp] theorem State.setCluster_outbox : (s.setCluster i x).outbox = s.outbox := rfl
@[simp] theorem State.setCluster_mem : (s.setCluster i x).mem = s.mem := rfl
@[simp] theorem State.setCluster_memTags : (s.setCluster i x).memTags = s.memTags := rfl
@[simp] theorem State.setCluster_poison : (s.setCluster i x).poison = s.poison := rfl
@[simp] theorem State.setCluster_ceMarks : (s.setCluster i x).ceMarks = s.ceMarks := rfl
@[simp] theorem State.setCluster_folio : (s.setCluster i x).folio = s.folio := rfl
@[simp] theorem State.setCluster_folioPoison : (s.setCluster i x).folioPoison = s.folioPoison := rfl
@[simp] theorem State.setCluster_cores : (s.setCluster i x).cores = s.cores := rfl
@[simp] theorem State.setCluster_clusters : (s.setCluster i x).clusters = s.clusters.insert i x := rfl
@[simp] theorem State.setCluster_dies : (s.setCluster i x).dies = s.dies := rfl
@[simp] theorem State.setCluster_slices : (s.setCluster i x).slices = s.slices := rfl
@[simp] theorem State.setCluster_parts : (s.setCluster i x).parts = s.parts := rfl
@[simp] theorem State.setCluster_ports : (s.setCluster i x).ports = s.ports := rfl
@[simp] theorem State.setCluster_grids : (s.setCluster i x).grids = s.grids := rfl
@[simp] theorem State.setCluster_teams : (s.setCluster i x).teams = s.teams := rfl
@[simp] theorem State.setCluster_groups : (s.setCluster i x).groups = s.groups := rfl
@[simp] theorem State.setCluster_queues : (s.setCluster i x).queues = s.queues := rfl

end

/-! ## setDie -/

section

variable (s : State) (i : Nat) (x : Die)

@[simp] theorem State.setDie_inputs : (s.setDie i x).inputs = s.inputs := rfl
@[simp] theorem State.setDie_schedule : (s.setDie i x).schedule = s.schedule := rfl
@[simp] theorem State.setDie_issue : (s.setDie i x).issue = s.issue := rfl
@[simp] theorem State.setDie_seq : (s.setDie i x).seq = s.seq := rfl
@[simp] theorem State.setDie_nextId : (s.setDie i x).nextId = s.nextId := rfl
@[simp] theorem State.setDie_free : (s.setDie i x).free = s.free := rfl
@[simp] theorem State.setDie_nominal : (s.setDie i x).nominal = s.nominal := rfl
@[simp] theorem State.setDie_clock : (s.setDie i x).clock = s.clock := rfl
@[simp] theorem State.setDie_fuses : (s.setDie i x).fuses = s.fuses := rfl
@[simp] theorem State.setDie_held : (s.setDie i x).held = s.held := rfl
@[simp] theorem State.setDie_deviceRung : (s.setDie i x).deviceRung = s.deviceRung := rfl
@[simp] theorem State.setDie_update : (s.setDie i x).update = s.update := rfl
@[simp] theorem State.setDie_firmware : (s.setDie i x).firmware = s.firmware := rfl
@[simp] theorem State.setDie_rollback : (s.setDie i x).rollback = s.rollback := rfl
@[simp] theorem State.setDie_rails : (s.setDie i x).rails = s.rails := rfl
@[simp] theorem State.setDie_errors : (s.setDie i x).errors = s.errors := rfl
@[simp] theorem State.setDie_upsets : (s.setDie i x).upsets = s.upsets := rfl
@[simp] theorem State.setDie_outbox : (s.setDie i x).outbox = s.outbox := rfl
@[simp] theorem State.setDie_mem : (s.setDie i x).mem = s.mem := rfl
@[simp] theorem State.setDie_memTags : (s.setDie i x).memTags = s.memTags := rfl
@[simp] theorem State.setDie_poison : (s.setDie i x).poison = s.poison := rfl
@[simp] theorem State.setDie_ceMarks : (s.setDie i x).ceMarks = s.ceMarks := rfl
@[simp] theorem State.setDie_folio : (s.setDie i x).folio = s.folio := rfl
@[simp] theorem State.setDie_folioPoison : (s.setDie i x).folioPoison = s.folioPoison := rfl
@[simp] theorem State.setDie_cores : (s.setDie i x).cores = s.cores := rfl
@[simp] theorem State.setDie_clusters : (s.setDie i x).clusters = s.clusters := rfl
@[simp] theorem State.setDie_dies : (s.setDie i x).dies = s.dies.insert i x := rfl
@[simp] theorem State.setDie_slices : (s.setDie i x).slices = s.slices := rfl
@[simp] theorem State.setDie_parts : (s.setDie i x).parts = s.parts := rfl
@[simp] theorem State.setDie_ports : (s.setDie i x).ports = s.ports := rfl
@[simp] theorem State.setDie_grids : (s.setDie i x).grids = s.grids := rfl
@[simp] theorem State.setDie_teams : (s.setDie i x).teams = s.teams := rfl
@[simp] theorem State.setDie_groups : (s.setDie i x).groups = s.groups := rfl
@[simp] theorem State.setDie_queues : (s.setDie i x).queues = s.queues := rfl

end

/-! ## setSlice -/

section

variable (s : State) (i : Nat) (x : Slice)

@[simp] theorem State.setSlice_inputs : (s.setSlice i x).inputs = s.inputs := rfl
@[simp] theorem State.setSlice_schedule : (s.setSlice i x).schedule = s.schedule := rfl
@[simp] theorem State.setSlice_issue : (s.setSlice i x).issue = s.issue := rfl
@[simp] theorem State.setSlice_seq : (s.setSlice i x).seq = s.seq := rfl
@[simp] theorem State.setSlice_nextId : (s.setSlice i x).nextId = s.nextId := rfl
@[simp] theorem State.setSlice_free : (s.setSlice i x).free = s.free := rfl
@[simp] theorem State.setSlice_nominal : (s.setSlice i x).nominal = s.nominal := rfl
@[simp] theorem State.setSlice_clock : (s.setSlice i x).clock = s.clock := rfl
@[simp] theorem State.setSlice_fuses : (s.setSlice i x).fuses = s.fuses := rfl
@[simp] theorem State.setSlice_held : (s.setSlice i x).held = s.held := rfl
@[simp] theorem State.setSlice_deviceRung : (s.setSlice i x).deviceRung = s.deviceRung := rfl
@[simp] theorem State.setSlice_update : (s.setSlice i x).update = s.update := rfl
@[simp] theorem State.setSlice_firmware : (s.setSlice i x).firmware = s.firmware := rfl
@[simp] theorem State.setSlice_rollback : (s.setSlice i x).rollback = s.rollback := rfl
@[simp] theorem State.setSlice_rails : (s.setSlice i x).rails = s.rails := rfl
@[simp] theorem State.setSlice_errors : (s.setSlice i x).errors = s.errors := rfl
@[simp] theorem State.setSlice_upsets : (s.setSlice i x).upsets = s.upsets := rfl
@[simp] theorem State.setSlice_outbox : (s.setSlice i x).outbox = s.outbox := rfl
@[simp] theorem State.setSlice_mem : (s.setSlice i x).mem = s.mem := rfl
@[simp] theorem State.setSlice_memTags : (s.setSlice i x).memTags = s.memTags := rfl
@[simp] theorem State.setSlice_poison : (s.setSlice i x).poison = s.poison := rfl
@[simp] theorem State.setSlice_ceMarks : (s.setSlice i x).ceMarks = s.ceMarks := rfl
@[simp] theorem State.setSlice_folio : (s.setSlice i x).folio = s.folio := rfl
@[simp] theorem State.setSlice_folioPoison : (s.setSlice i x).folioPoison = s.folioPoison := rfl
@[simp] theorem State.setSlice_cores : (s.setSlice i x).cores = s.cores := rfl
@[simp] theorem State.setSlice_clusters : (s.setSlice i x).clusters = s.clusters := rfl
@[simp] theorem State.setSlice_dies : (s.setSlice i x).dies = s.dies := rfl
@[simp] theorem State.setSlice_slices : (s.setSlice i x).slices = s.slices.insert i x := rfl
@[simp] theorem State.setSlice_parts : (s.setSlice i x).parts = s.parts := rfl
@[simp] theorem State.setSlice_ports : (s.setSlice i x).ports = s.ports := rfl
@[simp] theorem State.setSlice_grids : (s.setSlice i x).grids = s.grids := rfl
@[simp] theorem State.setSlice_teams : (s.setSlice i x).teams = s.teams := rfl
@[simp] theorem State.setSlice_groups : (s.setSlice i x).groups = s.groups := rfl
@[simp] theorem State.setSlice_queues : (s.setSlice i x).queues = s.queues := rfl

end

/-! ## setPart -/

section

variable (s : State) (i : Nat) (x : Part)

@[simp] theorem State.setPart_inputs : (s.setPart i x).inputs = s.inputs := rfl
@[simp] theorem State.setPart_schedule : (s.setPart i x).schedule = s.schedule := rfl
@[simp] theorem State.setPart_issue : (s.setPart i x).issue = s.issue := rfl
@[simp] theorem State.setPart_seq : (s.setPart i x).seq = s.seq := rfl
@[simp] theorem State.setPart_nextId : (s.setPart i x).nextId = s.nextId := rfl
@[simp] theorem State.setPart_free : (s.setPart i x).free = s.free := rfl
@[simp] theorem State.setPart_nominal : (s.setPart i x).nominal = s.nominal := rfl
@[simp] theorem State.setPart_clock : (s.setPart i x).clock = s.clock := rfl
@[simp] theorem State.setPart_fuses : (s.setPart i x).fuses = s.fuses := rfl
@[simp] theorem State.setPart_held : (s.setPart i x).held = s.held := rfl
@[simp] theorem State.setPart_deviceRung : (s.setPart i x).deviceRung = s.deviceRung := rfl
@[simp] theorem State.setPart_update : (s.setPart i x).update = s.update := rfl
@[simp] theorem State.setPart_firmware : (s.setPart i x).firmware = s.firmware := rfl
@[simp] theorem State.setPart_rollback : (s.setPart i x).rollback = s.rollback := rfl
@[simp] theorem State.setPart_rails : (s.setPart i x).rails = s.rails := rfl
@[simp] theorem State.setPart_errors : (s.setPart i x).errors = s.errors := rfl
@[simp] theorem State.setPart_upsets : (s.setPart i x).upsets = s.upsets := rfl
@[simp] theorem State.setPart_outbox : (s.setPart i x).outbox = s.outbox := rfl
@[simp] theorem State.setPart_mem : (s.setPart i x).mem = s.mem := rfl
@[simp] theorem State.setPart_memTags : (s.setPart i x).memTags = s.memTags := rfl
@[simp] theorem State.setPart_poison : (s.setPart i x).poison = s.poison := rfl
@[simp] theorem State.setPart_ceMarks : (s.setPart i x).ceMarks = s.ceMarks := rfl
@[simp] theorem State.setPart_folio : (s.setPart i x).folio = s.folio := rfl
@[simp] theorem State.setPart_folioPoison : (s.setPart i x).folioPoison = s.folioPoison := rfl
@[simp] theorem State.setPart_cores : (s.setPart i x).cores = s.cores := rfl
@[simp] theorem State.setPart_clusters : (s.setPart i x).clusters = s.clusters := rfl
@[simp] theorem State.setPart_dies : (s.setPart i x).dies = s.dies := rfl
@[simp] theorem State.setPart_slices : (s.setPart i x).slices = s.slices := rfl
@[simp] theorem State.setPart_parts : (s.setPart i x).parts = s.parts.insert i x := rfl
@[simp] theorem State.setPart_ports : (s.setPart i x).ports = s.ports := rfl
@[simp] theorem State.setPart_grids : (s.setPart i x).grids = s.grids := rfl
@[simp] theorem State.setPart_teams : (s.setPart i x).teams = s.teams := rfl
@[simp] theorem State.setPart_groups : (s.setPart i x).groups = s.groups := rfl
@[simp] theorem State.setPart_queues : (s.setPart i x).queues = s.queues := rfl

end

/-! ## setGroup -/

section

variable (s : State) (i : Nat) (x : Group)

@[simp] theorem State.setGroup_inputs : (s.setGroup i x).inputs = s.inputs := rfl
@[simp] theorem State.setGroup_schedule : (s.setGroup i x).schedule = s.schedule := rfl
@[simp] theorem State.setGroup_issue : (s.setGroup i x).issue = s.issue := rfl
@[simp] theorem State.setGroup_seq : (s.setGroup i x).seq = s.seq := rfl
@[simp] theorem State.setGroup_nextId : (s.setGroup i x).nextId = s.nextId := rfl
@[simp] theorem State.setGroup_free : (s.setGroup i x).free = s.free := rfl
@[simp] theorem State.setGroup_nominal : (s.setGroup i x).nominal = s.nominal := rfl
@[simp] theorem State.setGroup_clock : (s.setGroup i x).clock = s.clock := rfl
@[simp] theorem State.setGroup_fuses : (s.setGroup i x).fuses = s.fuses := rfl
@[simp] theorem State.setGroup_held : (s.setGroup i x).held = s.held := rfl
@[simp] theorem State.setGroup_deviceRung : (s.setGroup i x).deviceRung = s.deviceRung := rfl
@[simp] theorem State.setGroup_update : (s.setGroup i x).update = s.update := rfl
@[simp] theorem State.setGroup_firmware : (s.setGroup i x).firmware = s.firmware := rfl
@[simp] theorem State.setGroup_rollback : (s.setGroup i x).rollback = s.rollback := rfl
@[simp] theorem State.setGroup_rails : (s.setGroup i x).rails = s.rails := rfl
@[simp] theorem State.setGroup_errors : (s.setGroup i x).errors = s.errors := rfl
@[simp] theorem State.setGroup_upsets : (s.setGroup i x).upsets = s.upsets := rfl
@[simp] theorem State.setGroup_outbox : (s.setGroup i x).outbox = s.outbox := rfl
@[simp] theorem State.setGroup_mem : (s.setGroup i x).mem = s.mem := rfl
@[simp] theorem State.setGroup_memTags : (s.setGroup i x).memTags = s.memTags := rfl
@[simp] theorem State.setGroup_poison : (s.setGroup i x).poison = s.poison := rfl
@[simp] theorem State.setGroup_ceMarks : (s.setGroup i x).ceMarks = s.ceMarks := rfl
@[simp] theorem State.setGroup_folio : (s.setGroup i x).folio = s.folio := rfl
@[simp] theorem State.setGroup_folioPoison : (s.setGroup i x).folioPoison = s.folioPoison := rfl
@[simp] theorem State.setGroup_cores : (s.setGroup i x).cores = s.cores := rfl
@[simp] theorem State.setGroup_clusters : (s.setGroup i x).clusters = s.clusters := rfl
@[simp] theorem State.setGroup_dies : (s.setGroup i x).dies = s.dies := rfl
@[simp] theorem State.setGroup_slices : (s.setGroup i x).slices = s.slices := rfl
@[simp] theorem State.setGroup_parts : (s.setGroup i x).parts = s.parts := rfl
@[simp] theorem State.setGroup_ports : (s.setGroup i x).ports = s.ports := rfl
@[simp] theorem State.setGroup_grids : (s.setGroup i x).grids = s.grids := rfl
@[simp] theorem State.setGroup_teams : (s.setGroup i x).teams = s.teams := rfl
@[simp] theorem State.setGroup_groups : (s.setGroup i x).groups = s.groups.insert i x := rfl
@[simp] theorem State.setGroup_queues : (s.setGroup i x).queues = s.queues := rfl

end

/-! ## setTeam -/

section

variable (s : State) (i : Nat) (x : Team)

@[simp] theorem State.setTeam_inputs : (s.setTeam i x).inputs = s.inputs := rfl
@[simp] theorem State.setTeam_schedule : (s.setTeam i x).schedule = s.schedule := rfl
@[simp] theorem State.setTeam_issue : (s.setTeam i x).issue = s.issue := rfl
@[simp] theorem State.setTeam_seq : (s.setTeam i x).seq = s.seq := rfl
@[simp] theorem State.setTeam_nextId : (s.setTeam i x).nextId = s.nextId := rfl
@[simp] theorem State.setTeam_free : (s.setTeam i x).free = s.free := rfl
@[simp] theorem State.setTeam_nominal : (s.setTeam i x).nominal = s.nominal := rfl
@[simp] theorem State.setTeam_clock : (s.setTeam i x).clock = s.clock := rfl
@[simp] theorem State.setTeam_fuses : (s.setTeam i x).fuses = s.fuses := rfl
@[simp] theorem State.setTeam_held : (s.setTeam i x).held = s.held := rfl
@[simp] theorem State.setTeam_deviceRung : (s.setTeam i x).deviceRung = s.deviceRung := rfl
@[simp] theorem State.setTeam_update : (s.setTeam i x).update = s.update := rfl
@[simp] theorem State.setTeam_firmware : (s.setTeam i x).firmware = s.firmware := rfl
@[simp] theorem State.setTeam_rollback : (s.setTeam i x).rollback = s.rollback := rfl
@[simp] theorem State.setTeam_rails : (s.setTeam i x).rails = s.rails := rfl
@[simp] theorem State.setTeam_errors : (s.setTeam i x).errors = s.errors := rfl
@[simp] theorem State.setTeam_upsets : (s.setTeam i x).upsets = s.upsets := rfl
@[simp] theorem State.setTeam_outbox : (s.setTeam i x).outbox = s.outbox := rfl
@[simp] theorem State.setTeam_mem : (s.setTeam i x).mem = s.mem := rfl
@[simp] theorem State.setTeam_memTags : (s.setTeam i x).memTags = s.memTags := rfl
@[simp] theorem State.setTeam_poison : (s.setTeam i x).poison = s.poison := rfl
@[simp] theorem State.setTeam_ceMarks : (s.setTeam i x).ceMarks = s.ceMarks := rfl
@[simp] theorem State.setTeam_folio : (s.setTeam i x).folio = s.folio := rfl
@[simp] theorem State.setTeam_folioPoison : (s.setTeam i x).folioPoison = s.folioPoison := rfl
@[simp] theorem State.setTeam_cores : (s.setTeam i x).cores = s.cores := rfl
@[simp] theorem State.setTeam_clusters : (s.setTeam i x).clusters = s.clusters := rfl
@[simp] theorem State.setTeam_dies : (s.setTeam i x).dies = s.dies := rfl
@[simp] theorem State.setTeam_slices : (s.setTeam i x).slices = s.slices := rfl
@[simp] theorem State.setTeam_parts : (s.setTeam i x).parts = s.parts := rfl
@[simp] theorem State.setTeam_ports : (s.setTeam i x).ports = s.ports := rfl
@[simp] theorem State.setTeam_grids : (s.setTeam i x).grids = s.grids := rfl
@[simp] theorem State.setTeam_teams : (s.setTeam i x).teams = s.teams.insert i x := rfl
@[simp] theorem State.setTeam_groups : (s.setTeam i x).groups = s.groups := rfl
@[simp] theorem State.setTeam_queues : (s.setTeam i x).queues = s.queues := rfl

end

/-! ## setGrid -/

section

variable (s : State) (i : Nat) (x : Grid)

@[simp] theorem State.setGrid_inputs : (s.setGrid i x).inputs = s.inputs := rfl
@[simp] theorem State.setGrid_schedule : (s.setGrid i x).schedule = s.schedule := rfl
@[simp] theorem State.setGrid_issue : (s.setGrid i x).issue = s.issue := rfl
@[simp] theorem State.setGrid_seq : (s.setGrid i x).seq = s.seq := rfl
@[simp] theorem State.setGrid_nextId : (s.setGrid i x).nextId = s.nextId := rfl
@[simp] theorem State.setGrid_free : (s.setGrid i x).free = s.free := rfl
@[simp] theorem State.setGrid_nominal : (s.setGrid i x).nominal = s.nominal := rfl
@[simp] theorem State.setGrid_clock : (s.setGrid i x).clock = s.clock := rfl
@[simp] theorem State.setGrid_fuses : (s.setGrid i x).fuses = s.fuses := rfl
@[simp] theorem State.setGrid_held : (s.setGrid i x).held = s.held := rfl
@[simp] theorem State.setGrid_deviceRung : (s.setGrid i x).deviceRung = s.deviceRung := rfl
@[simp] theorem State.setGrid_update : (s.setGrid i x).update = s.update := rfl
@[simp] theorem State.setGrid_firmware : (s.setGrid i x).firmware = s.firmware := rfl
@[simp] theorem State.setGrid_rollback : (s.setGrid i x).rollback = s.rollback := rfl
@[simp] theorem State.setGrid_rails : (s.setGrid i x).rails = s.rails := rfl
@[simp] theorem State.setGrid_errors : (s.setGrid i x).errors = s.errors := rfl
@[simp] theorem State.setGrid_upsets : (s.setGrid i x).upsets = s.upsets := rfl
@[simp] theorem State.setGrid_outbox : (s.setGrid i x).outbox = s.outbox := rfl
@[simp] theorem State.setGrid_mem : (s.setGrid i x).mem = s.mem := rfl
@[simp] theorem State.setGrid_memTags : (s.setGrid i x).memTags = s.memTags := rfl
@[simp] theorem State.setGrid_poison : (s.setGrid i x).poison = s.poison := rfl
@[simp] theorem State.setGrid_ceMarks : (s.setGrid i x).ceMarks = s.ceMarks := rfl
@[simp] theorem State.setGrid_folio : (s.setGrid i x).folio = s.folio := rfl
@[simp] theorem State.setGrid_folioPoison : (s.setGrid i x).folioPoison = s.folioPoison := rfl
@[simp] theorem State.setGrid_cores : (s.setGrid i x).cores = s.cores := rfl
@[simp] theorem State.setGrid_clusters : (s.setGrid i x).clusters = s.clusters := rfl
@[simp] theorem State.setGrid_dies : (s.setGrid i x).dies = s.dies := rfl
@[simp] theorem State.setGrid_slices : (s.setGrid i x).slices = s.slices := rfl
@[simp] theorem State.setGrid_parts : (s.setGrid i x).parts = s.parts := rfl
@[simp] theorem State.setGrid_ports : (s.setGrid i x).ports = s.ports := rfl
@[simp] theorem State.setGrid_grids : (s.setGrid i x).grids = s.grids.insert i x := rfl
@[simp] theorem State.setGrid_teams : (s.setGrid i x).teams = s.teams := rfl
@[simp] theorem State.setGrid_groups : (s.setGrid i x).groups = s.groups := rfl
@[simp] theorem State.setGrid_queues : (s.setGrid i x).queues = s.queues := rfl

end

/-! ## setQueue -/

section

variable (s : State) (i : Nat) (x : QHome)

@[simp] theorem State.setQueue_inputs : (s.setQueue i x).inputs = s.inputs := rfl
@[simp] theorem State.setQueue_schedule : (s.setQueue i x).schedule = s.schedule := rfl
@[simp] theorem State.setQueue_issue : (s.setQueue i x).issue = s.issue := rfl
@[simp] theorem State.setQueue_seq : (s.setQueue i x).seq = s.seq := rfl
@[simp] theorem State.setQueue_nextId : (s.setQueue i x).nextId = s.nextId := rfl
@[simp] theorem State.setQueue_free : (s.setQueue i x).free = s.free := rfl
@[simp] theorem State.setQueue_nominal : (s.setQueue i x).nominal = s.nominal := rfl
@[simp] theorem State.setQueue_clock : (s.setQueue i x).clock = s.clock := rfl
@[simp] theorem State.setQueue_fuses : (s.setQueue i x).fuses = s.fuses := rfl
@[simp] theorem State.setQueue_held : (s.setQueue i x).held = s.held := rfl
@[simp] theorem State.setQueue_deviceRung : (s.setQueue i x).deviceRung = s.deviceRung := rfl
@[simp] theorem State.setQueue_update : (s.setQueue i x).update = s.update := rfl
@[simp] theorem State.setQueue_firmware : (s.setQueue i x).firmware = s.firmware := rfl
@[simp] theorem State.setQueue_rollback : (s.setQueue i x).rollback = s.rollback := rfl
@[simp] theorem State.setQueue_rails : (s.setQueue i x).rails = s.rails := rfl
@[simp] theorem State.setQueue_errors : (s.setQueue i x).errors = s.errors := rfl
@[simp] theorem State.setQueue_upsets : (s.setQueue i x).upsets = s.upsets := rfl
@[simp] theorem State.setQueue_outbox : (s.setQueue i x).outbox = s.outbox := rfl
@[simp] theorem State.setQueue_mem : (s.setQueue i x).mem = s.mem := rfl
@[simp] theorem State.setQueue_memTags : (s.setQueue i x).memTags = s.memTags := rfl
@[simp] theorem State.setQueue_poison : (s.setQueue i x).poison = s.poison := rfl
@[simp] theorem State.setQueue_ceMarks : (s.setQueue i x).ceMarks = s.ceMarks := rfl
@[simp] theorem State.setQueue_folio : (s.setQueue i x).folio = s.folio := rfl
@[simp] theorem State.setQueue_folioPoison : (s.setQueue i x).folioPoison = s.folioPoison := rfl
@[simp] theorem State.setQueue_cores : (s.setQueue i x).cores = s.cores := rfl
@[simp] theorem State.setQueue_clusters : (s.setQueue i x).clusters = s.clusters := rfl
@[simp] theorem State.setQueue_dies : (s.setQueue i x).dies = s.dies := rfl
@[simp] theorem State.setQueue_slices : (s.setQueue i x).slices = s.slices := rfl
@[simp] theorem State.setQueue_parts : (s.setQueue i x).parts = s.parts := rfl
@[simp] theorem State.setQueue_ports : (s.setQueue i x).ports = s.ports := rfl
@[simp] theorem State.setQueue_grids : (s.setQueue i x).grids = s.grids := rfl
@[simp] theorem State.setQueue_teams : (s.setQueue i x).teams = s.teams := rfl
@[simp] theorem State.setQueue_groups : (s.setQueue i x).groups = s.groups := rfl
@[simp] theorem State.setQueue_queues : (s.setQueue i x).queues = s.queues.insert i x := rfl

end

@[simp] theorem State.modCore_eq (s : State) (i : Nat) (f : Core → Core) :
    s.modCore i f = s.setCore i (f (s.core i)) := rfl

@[simp] theorem State.modCluster_eq (s : State) (i : Nat) (f : Cluster → Cluster) :
    s.modCluster i f = s.setCluster i (f (s.cluster i)) := rfl

@[simp] theorem State.modDie_eq (s : State) (i : Nat) (f : Die → Die) :
    s.modDie i f = s.setDie i (f (s.die i)) := rfl

@[simp] theorem State.modSlice_eq (s : State) (i : Nat) (f : Slice → Slice) :
    s.modSlice i f = s.setSlice i (f (s.slice i)) := rfl

@[simp] theorem State.modPart_eq (s : State) (i : Nat) (f : Part → Part) :
    s.modPart i f = s.setPart i (f (s.part i)) := rfl

/-! ## modGroup -/

section

variable (s : State) (i : Nat) (f : Group → Group)

@[simp] theorem State.modGroup_inputs : (s.modGroup i f).inputs = s.inputs := by
  unfold State.modGroup; split <;> rfl
@[simp] theorem State.modGroup_schedule : (s.modGroup i f).schedule = s.schedule := by
  unfold State.modGroup; split <;> rfl
@[simp] theorem State.modGroup_issue : (s.modGroup i f).issue = s.issue := by
  unfold State.modGroup; split <;> rfl
@[simp] theorem State.modGroup_seq : (s.modGroup i f).seq = s.seq := by
  unfold State.modGroup; split <;> rfl
@[simp] theorem State.modGroup_nextId : (s.modGroup i f).nextId = s.nextId := by
  unfold State.modGroup; split <;> rfl
@[simp] theorem State.modGroup_free : (s.modGroup i f).free = s.free := by
  unfold State.modGroup; split <;> rfl
@[simp] theorem State.modGroup_nominal : (s.modGroup i f).nominal = s.nominal := by
  unfold State.modGroup; split <;> rfl
@[simp] theorem State.modGroup_clock : (s.modGroup i f).clock = s.clock := by
  unfold State.modGroup; split <;> rfl
@[simp] theorem State.modGroup_fuses : (s.modGroup i f).fuses = s.fuses := by
  unfold State.modGroup; split <;> rfl
@[simp] theorem State.modGroup_held : (s.modGroup i f).held = s.held := by
  unfold State.modGroup; split <;> rfl
@[simp] theorem State.modGroup_deviceRung : (s.modGroup i f).deviceRung = s.deviceRung := by
  unfold State.modGroup; split <;> rfl
@[simp] theorem State.modGroup_update : (s.modGroup i f).update = s.update := by
  unfold State.modGroup; split <;> rfl
@[simp] theorem State.modGroup_firmware : (s.modGroup i f).firmware = s.firmware := by
  unfold State.modGroup; split <;> rfl
@[simp] theorem State.modGroup_rollback : (s.modGroup i f).rollback = s.rollback := by
  unfold State.modGroup; split <;> rfl
@[simp] theorem State.modGroup_rails : (s.modGroup i f).rails = s.rails := by
  unfold State.modGroup; split <;> rfl
@[simp] theorem State.modGroup_errors : (s.modGroup i f).errors = s.errors := by
  unfold State.modGroup; split <;> rfl
@[simp] theorem State.modGroup_upsets : (s.modGroup i f).upsets = s.upsets := by
  unfold State.modGroup; split <;> rfl
@[simp] theorem State.modGroup_outbox : (s.modGroup i f).outbox = s.outbox := by
  unfold State.modGroup; split <;> rfl
@[simp] theorem State.modGroup_mem : (s.modGroup i f).mem = s.mem := by
  unfold State.modGroup; split <;> rfl
@[simp] theorem State.modGroup_memTags : (s.modGroup i f).memTags = s.memTags := by
  unfold State.modGroup; split <;> rfl
@[simp] theorem State.modGroup_poison : (s.modGroup i f).poison = s.poison := by
  unfold State.modGroup; split <;> rfl
@[simp] theorem State.modGroup_ceMarks : (s.modGroup i f).ceMarks = s.ceMarks := by
  unfold State.modGroup; split <;> rfl
@[simp] theorem State.modGroup_folio : (s.modGroup i f).folio = s.folio := by
  unfold State.modGroup; split <;> rfl
@[simp] theorem State.modGroup_folioPoison : (s.modGroup i f).folioPoison = s.folioPoison := by
  unfold State.modGroup; split <;> rfl
@[simp] theorem State.modGroup_cores : (s.modGroup i f).cores = s.cores := by
  unfold State.modGroup; split <;> rfl
@[simp] theorem State.modGroup_clusters : (s.modGroup i f).clusters = s.clusters := by
  unfold State.modGroup; split <;> rfl
@[simp] theorem State.modGroup_dies : (s.modGroup i f).dies = s.dies := by
  unfold State.modGroup; split <;> rfl
@[simp] theorem State.modGroup_slices : (s.modGroup i f).slices = s.slices := by
  unfold State.modGroup; split <;> rfl
@[simp] theorem State.modGroup_parts : (s.modGroup i f).parts = s.parts := by
  unfold State.modGroup; split <;> rfl
@[simp] theorem State.modGroup_ports : (s.modGroup i f).ports = s.ports := by
  unfold State.modGroup; split <;> rfl
@[simp] theorem State.modGroup_grids : (s.modGroup i f).grids = s.grids := by
  unfold State.modGroup; split <;> rfl
@[simp] theorem State.modGroup_teams : (s.modGroup i f).teams = s.teams := by
  unfold State.modGroup; split <;> rfl
@[simp] theorem State.modGroup_queues : (s.modGroup i f).queues = s.queues := by
  unfold State.modGroup; split <;> rfl

@[simp] theorem State.modGroup_find (j : Nat) :
    (s.modGroup i f).groups.find? j = if j = i then (s.groups.find? j).map f else s.groups.find? j := by
  unfold State.modGroup
  split
  · rename_i h
    simp only [State.setGroup_groups, Tab.find?_insert]
    split
    · subst_vars
      simp [h]
    · rfl
  · split
    · subst_vars
      simp_all
    · rfl

end

/-! ## modTeam -/

section

variable (s : State) (i : Nat) (f : Team → Team)

@[simp] theorem State.modTeam_inputs : (s.modTeam i f).inputs = s.inputs := by
  unfold State.modTeam; split <;> rfl
@[simp] theorem State.modTeam_schedule : (s.modTeam i f).schedule = s.schedule := by
  unfold State.modTeam; split <;> rfl
@[simp] theorem State.modTeam_issue : (s.modTeam i f).issue = s.issue := by
  unfold State.modTeam; split <;> rfl
@[simp] theorem State.modTeam_seq : (s.modTeam i f).seq = s.seq := by
  unfold State.modTeam; split <;> rfl
@[simp] theorem State.modTeam_nextId : (s.modTeam i f).nextId = s.nextId := by
  unfold State.modTeam; split <;> rfl
@[simp] theorem State.modTeam_free : (s.modTeam i f).free = s.free := by
  unfold State.modTeam; split <;> rfl
@[simp] theorem State.modTeam_nominal : (s.modTeam i f).nominal = s.nominal := by
  unfold State.modTeam; split <;> rfl
@[simp] theorem State.modTeam_clock : (s.modTeam i f).clock = s.clock := by
  unfold State.modTeam; split <;> rfl
@[simp] theorem State.modTeam_fuses : (s.modTeam i f).fuses = s.fuses := by
  unfold State.modTeam; split <;> rfl
@[simp] theorem State.modTeam_held : (s.modTeam i f).held = s.held := by
  unfold State.modTeam; split <;> rfl
@[simp] theorem State.modTeam_deviceRung : (s.modTeam i f).deviceRung = s.deviceRung := by
  unfold State.modTeam; split <;> rfl
@[simp] theorem State.modTeam_update : (s.modTeam i f).update = s.update := by
  unfold State.modTeam; split <;> rfl
@[simp] theorem State.modTeam_firmware : (s.modTeam i f).firmware = s.firmware := by
  unfold State.modTeam; split <;> rfl
@[simp] theorem State.modTeam_rollback : (s.modTeam i f).rollback = s.rollback := by
  unfold State.modTeam; split <;> rfl
@[simp] theorem State.modTeam_rails : (s.modTeam i f).rails = s.rails := by
  unfold State.modTeam; split <;> rfl
@[simp] theorem State.modTeam_errors : (s.modTeam i f).errors = s.errors := by
  unfold State.modTeam; split <;> rfl
@[simp] theorem State.modTeam_upsets : (s.modTeam i f).upsets = s.upsets := by
  unfold State.modTeam; split <;> rfl
@[simp] theorem State.modTeam_outbox : (s.modTeam i f).outbox = s.outbox := by
  unfold State.modTeam; split <;> rfl
@[simp] theorem State.modTeam_mem : (s.modTeam i f).mem = s.mem := by
  unfold State.modTeam; split <;> rfl
@[simp] theorem State.modTeam_memTags : (s.modTeam i f).memTags = s.memTags := by
  unfold State.modTeam; split <;> rfl
@[simp] theorem State.modTeam_poison : (s.modTeam i f).poison = s.poison := by
  unfold State.modTeam; split <;> rfl
@[simp] theorem State.modTeam_ceMarks : (s.modTeam i f).ceMarks = s.ceMarks := by
  unfold State.modTeam; split <;> rfl
@[simp] theorem State.modTeam_folio : (s.modTeam i f).folio = s.folio := by
  unfold State.modTeam; split <;> rfl
@[simp] theorem State.modTeam_folioPoison : (s.modTeam i f).folioPoison = s.folioPoison := by
  unfold State.modTeam; split <;> rfl
@[simp] theorem State.modTeam_cores : (s.modTeam i f).cores = s.cores := by
  unfold State.modTeam; split <;> rfl
@[simp] theorem State.modTeam_clusters : (s.modTeam i f).clusters = s.clusters := by
  unfold State.modTeam; split <;> rfl
@[simp] theorem State.modTeam_dies : (s.modTeam i f).dies = s.dies := by
  unfold State.modTeam; split <;> rfl
@[simp] theorem State.modTeam_slices : (s.modTeam i f).slices = s.slices := by
  unfold State.modTeam; split <;> rfl
@[simp] theorem State.modTeam_parts : (s.modTeam i f).parts = s.parts := by
  unfold State.modTeam; split <;> rfl
@[simp] theorem State.modTeam_ports : (s.modTeam i f).ports = s.ports := by
  unfold State.modTeam; split <;> rfl
@[simp] theorem State.modTeam_grids : (s.modTeam i f).grids = s.grids := by
  unfold State.modTeam; split <;> rfl
@[simp] theorem State.modTeam_groups : (s.modTeam i f).groups = s.groups := by
  unfold State.modTeam; split <;> rfl
@[simp] theorem State.modTeam_queues : (s.modTeam i f).queues = s.queues := by
  unfold State.modTeam; split <;> rfl

@[simp] theorem State.modTeam_find (j : Nat) :
    (s.modTeam i f).teams.find? j = if j = i then (s.teams.find? j).map f else s.teams.find? j := by
  unfold State.modTeam
  split
  · rename_i h
    simp only [State.setTeam_teams, Tab.find?_insert]
    split
    · subst_vars
      simp [h]
    · rfl
  · split
    · subst_vars
      simp_all
    · rfl

end

/-! ## modGrid -/

section

variable (s : State) (i : Nat) (f : Grid → Grid)

@[simp] theorem State.modGrid_inputs : (s.modGrid i f).inputs = s.inputs := by
  unfold State.modGrid; split <;> rfl
@[simp] theorem State.modGrid_schedule : (s.modGrid i f).schedule = s.schedule := by
  unfold State.modGrid; split <;> rfl
@[simp] theorem State.modGrid_issue : (s.modGrid i f).issue = s.issue := by
  unfold State.modGrid; split <;> rfl
@[simp] theorem State.modGrid_seq : (s.modGrid i f).seq = s.seq := by
  unfold State.modGrid; split <;> rfl
@[simp] theorem State.modGrid_nextId : (s.modGrid i f).nextId = s.nextId := by
  unfold State.modGrid; split <;> rfl
@[simp] theorem State.modGrid_free : (s.modGrid i f).free = s.free := by
  unfold State.modGrid; split <;> rfl
@[simp] theorem State.modGrid_nominal : (s.modGrid i f).nominal = s.nominal := by
  unfold State.modGrid; split <;> rfl
@[simp] theorem State.modGrid_clock : (s.modGrid i f).clock = s.clock := by
  unfold State.modGrid; split <;> rfl
@[simp] theorem State.modGrid_fuses : (s.modGrid i f).fuses = s.fuses := by
  unfold State.modGrid; split <;> rfl
@[simp] theorem State.modGrid_held : (s.modGrid i f).held = s.held := by
  unfold State.modGrid; split <;> rfl
@[simp] theorem State.modGrid_deviceRung : (s.modGrid i f).deviceRung = s.deviceRung := by
  unfold State.modGrid; split <;> rfl
@[simp] theorem State.modGrid_update : (s.modGrid i f).update = s.update := by
  unfold State.modGrid; split <;> rfl
@[simp] theorem State.modGrid_firmware : (s.modGrid i f).firmware = s.firmware := by
  unfold State.modGrid; split <;> rfl
@[simp] theorem State.modGrid_rollback : (s.modGrid i f).rollback = s.rollback := by
  unfold State.modGrid; split <;> rfl
@[simp] theorem State.modGrid_rails : (s.modGrid i f).rails = s.rails := by
  unfold State.modGrid; split <;> rfl
@[simp] theorem State.modGrid_errors : (s.modGrid i f).errors = s.errors := by
  unfold State.modGrid; split <;> rfl
@[simp] theorem State.modGrid_upsets : (s.modGrid i f).upsets = s.upsets := by
  unfold State.modGrid; split <;> rfl
@[simp] theorem State.modGrid_outbox : (s.modGrid i f).outbox = s.outbox := by
  unfold State.modGrid; split <;> rfl
@[simp] theorem State.modGrid_mem : (s.modGrid i f).mem = s.mem := by
  unfold State.modGrid; split <;> rfl
@[simp] theorem State.modGrid_memTags : (s.modGrid i f).memTags = s.memTags := by
  unfold State.modGrid; split <;> rfl
@[simp] theorem State.modGrid_poison : (s.modGrid i f).poison = s.poison := by
  unfold State.modGrid; split <;> rfl
@[simp] theorem State.modGrid_ceMarks : (s.modGrid i f).ceMarks = s.ceMarks := by
  unfold State.modGrid; split <;> rfl
@[simp] theorem State.modGrid_folio : (s.modGrid i f).folio = s.folio := by
  unfold State.modGrid; split <;> rfl
@[simp] theorem State.modGrid_folioPoison : (s.modGrid i f).folioPoison = s.folioPoison := by
  unfold State.modGrid; split <;> rfl
@[simp] theorem State.modGrid_cores : (s.modGrid i f).cores = s.cores := by
  unfold State.modGrid; split <;> rfl
@[simp] theorem State.modGrid_clusters : (s.modGrid i f).clusters = s.clusters := by
  unfold State.modGrid; split <;> rfl
@[simp] theorem State.modGrid_dies : (s.modGrid i f).dies = s.dies := by
  unfold State.modGrid; split <;> rfl
@[simp] theorem State.modGrid_slices : (s.modGrid i f).slices = s.slices := by
  unfold State.modGrid; split <;> rfl
@[simp] theorem State.modGrid_parts : (s.modGrid i f).parts = s.parts := by
  unfold State.modGrid; split <;> rfl
@[simp] theorem State.modGrid_ports : (s.modGrid i f).ports = s.ports := by
  unfold State.modGrid; split <;> rfl
@[simp] theorem State.modGrid_teams : (s.modGrid i f).teams = s.teams := by
  unfold State.modGrid; split <;> rfl
@[simp] theorem State.modGrid_groups : (s.modGrid i f).groups = s.groups := by
  unfold State.modGrid; split <;> rfl
@[simp] theorem State.modGrid_queues : (s.modGrid i f).queues = s.queues := by
  unfold State.modGrid; split <;> rfl

@[simp] theorem State.modGrid_find (j : Nat) :
    (s.modGrid i f).grids.find? j = if j = i then (s.grids.find? j).map f else s.grids.find? j := by
  unfold State.modGrid
  split
  · rename_i h
    simp only [State.setGrid_grids, Tab.find?_insert]
    split
    · subst_vars
      simp [h]
    · rfl
  · split
    · subst_vars
      simp_all
    · rfl

end

theorem State.core_setCore (s : State) (i j : Nat) (x : Core) :
    (s.setCore i x).core j = if j = i then x else s.core j :=
  Tab.get_insert s.cores Core.reset i j x

@[simp] theorem State.core_setCore_same (s : State) (i : Nat) (x : Core) : (s.setCore i x).core i = x := by
  simp [State.core_setCore]

theorem State.cluster_setCluster (s : State) (i j : Nat) (x : Cluster) :
    (s.setCluster i x).cluster j = if j = i then x else s.cluster j :=
  Tab.get_insert s.clusters Cluster.reset i j x

@[simp] theorem State.cluster_setCluster_same (s : State) (i : Nat) (x : Cluster) : (s.setCluster i x).cluster i = x := by
  simp [State.cluster_setCluster]

theorem State.die_setDie (s : State) (i j : Nat) (x : Die) :
    (s.setDie i x).die j = if j = i then x else s.die j :=
  Tab.get_insert s.dies Die.reset i j x

@[simp] theorem State.die_setDie_same (s : State) (i : Nat) (x : Die) : (s.setDie i x).die i = x := by
  simp [State.die_setDie]

theorem State.slice_setSlice (s : State) (i j : Nat) (x : Slice) :
    (s.setSlice i x).slice j = if j = i then x else s.slice j :=
  Tab.get_insert s.slices Slice.reset i j x

@[simp] theorem State.slice_setSlice_same (s : State) (i : Nat) (x : Slice) : (s.setSlice i x).slice i = x := by
  simp [State.slice_setSlice]

theorem State.part_setPart (s : State) (i j : Nat) (x : Part) :
    (s.setPart i x).part j = if j = i then x else s.part j :=
  Tab.get_insert s.parts Part.reset i j x

@[simp] theorem State.part_setPart_same (s : State) (i : Nat) (x : Part) : (s.setPart i x).part i = x := by
  simp [State.part_setPart]

theorem State.queue_setQueue (s : State) (i j : Nat) (x : QHome) :
    (s.setQueue i x).queue j = if j = i then x else s.queue j :=
  Tab.get_insert s.queues QHome.reset i j x

@[simp] theorem State.queue_setQueue_same (s : State) (i : Nat) (x : QHome) : (s.setQueue i x).queue i = x := by
  simp [State.queue_setQueue]

@[simp] theorem State.setCore_cluster (s : State) (i j : Nat) (x : Core) : (s.setCore i x).cluster j = s.cluster j := rfl
@[simp] theorem State.setCore_die (s : State) (i j : Nat) (x : Core) : (s.setCore i x).die j = s.die j := rfl
@[simp] theorem State.setCore_slice (s : State) (i j : Nat) (x : Core) : (s.setCore i x).slice j = s.slice j := rfl
@[simp] theorem State.setCore_part (s : State) (i j : Nat) (x : Core) : (s.setCore i x).part j = s.part j := rfl
@[simp] theorem State.setCore_queue (s : State) (i j : Nat) (x : Core) : (s.setCore i x).queue j = s.queue j := rfl
@[simp] theorem State.setCluster_core (s : State) (i j : Nat) (x : Cluster) : (s.setCluster i x).core j = s.core j := rfl
@[simp] theorem State.setCluster_die (s : State) (i j : Nat) (x : Cluster) : (s.setCluster i x).die j = s.die j := rfl
@[simp] theorem State.setCluster_slice (s : State) (i j : Nat) (x : Cluster) : (s.setCluster i x).slice j = s.slice j := rfl
@[simp] theorem State.setCluster_part (s : State) (i j : Nat) (x : Cluster) : (s.setCluster i x).part j = s.part j := rfl
@[simp] theorem State.setCluster_queue (s : State) (i j : Nat) (x : Cluster) : (s.setCluster i x).queue j = s.queue j := rfl
@[simp] theorem State.setDie_core (s : State) (i j : Nat) (x : Die) : (s.setDie i x).core j = s.core j := rfl
@[simp] theorem State.setDie_cluster (s : State) (i j : Nat) (x : Die) : (s.setDie i x).cluster j = s.cluster j := rfl
@[simp] theorem State.setDie_slice (s : State) (i j : Nat) (x : Die) : (s.setDie i x).slice j = s.slice j := rfl
@[simp] theorem State.setDie_part (s : State) (i j : Nat) (x : Die) : (s.setDie i x).part j = s.part j := rfl
@[simp] theorem State.setDie_queue (s : State) (i j : Nat) (x : Die) : (s.setDie i x).queue j = s.queue j := rfl
@[simp] theorem State.setSlice_core (s : State) (i j : Nat) (x : Slice) : (s.setSlice i x).core j = s.core j := rfl
@[simp] theorem State.setSlice_cluster (s : State) (i j : Nat) (x : Slice) : (s.setSlice i x).cluster j = s.cluster j := rfl
@[simp] theorem State.setSlice_die (s : State) (i j : Nat) (x : Slice) : (s.setSlice i x).die j = s.die j := rfl
@[simp] theorem State.setSlice_part (s : State) (i j : Nat) (x : Slice) : (s.setSlice i x).part j = s.part j := rfl
@[simp] theorem State.setSlice_queue (s : State) (i j : Nat) (x : Slice) : (s.setSlice i x).queue j = s.queue j := rfl
@[simp] theorem State.setPart_core (s : State) (i j : Nat) (x : Part) : (s.setPart i x).core j = s.core j := rfl
@[simp] theorem State.setPart_cluster (s : State) (i j : Nat) (x : Part) : (s.setPart i x).cluster j = s.cluster j := rfl
@[simp] theorem State.setPart_die (s : State) (i j : Nat) (x : Part) : (s.setPart i x).die j = s.die j := rfl
@[simp] theorem State.setPart_slice (s : State) (i j : Nat) (x : Part) : (s.setPart i x).slice j = s.slice j := rfl
@[simp] theorem State.setPart_queue (s : State) (i j : Nat) (x : Part) : (s.setPart i x).queue j = s.queue j := rfl
@[simp] theorem State.setGroup_core (s : State) (i j : Nat) (x : Group) : (s.setGroup i x).core j = s.core j := rfl
@[simp] theorem State.setGroup_cluster (s : State) (i j : Nat) (x : Group) : (s.setGroup i x).cluster j = s.cluster j := rfl
@[simp] theorem State.setGroup_die (s : State) (i j : Nat) (x : Group) : (s.setGroup i x).die j = s.die j := rfl
@[simp] theorem State.setGroup_slice (s : State) (i j : Nat) (x : Group) : (s.setGroup i x).slice j = s.slice j := rfl
@[simp] theorem State.setGroup_part (s : State) (i j : Nat) (x : Group) : (s.setGroup i x).part j = s.part j := rfl
@[simp] theorem State.setGroup_queue (s : State) (i j : Nat) (x : Group) : (s.setGroup i x).queue j = s.queue j := rfl
@[simp] theorem State.setTeam_core (s : State) (i j : Nat) (x : Team) : (s.setTeam i x).core j = s.core j := rfl
@[simp] theorem State.setTeam_cluster (s : State) (i j : Nat) (x : Team) : (s.setTeam i x).cluster j = s.cluster j := rfl
@[simp] theorem State.setTeam_die (s : State) (i j : Nat) (x : Team) : (s.setTeam i x).die j = s.die j := rfl
@[simp] theorem State.setTeam_slice (s : State) (i j : Nat) (x : Team) : (s.setTeam i x).slice j = s.slice j := rfl
@[simp] theorem State.setTeam_part (s : State) (i j : Nat) (x : Team) : (s.setTeam i x).part j = s.part j := rfl
@[simp] theorem State.setTeam_queue (s : State) (i j : Nat) (x : Team) : (s.setTeam i x).queue j = s.queue j := rfl
@[simp] theorem State.setGrid_core (s : State) (i j : Nat) (x : Grid) : (s.setGrid i x).core j = s.core j := rfl
@[simp] theorem State.setGrid_cluster (s : State) (i j : Nat) (x : Grid) : (s.setGrid i x).cluster j = s.cluster j := rfl
@[simp] theorem State.setGrid_die (s : State) (i j : Nat) (x : Grid) : (s.setGrid i x).die j = s.die j := rfl
@[simp] theorem State.setGrid_slice (s : State) (i j : Nat) (x : Grid) : (s.setGrid i x).slice j = s.slice j := rfl
@[simp] theorem State.setGrid_part (s : State) (i j : Nat) (x : Grid) : (s.setGrid i x).part j = s.part j := rfl
@[simp] theorem State.setGrid_queue (s : State) (i j : Nat) (x : Grid) : (s.setGrid i x).queue j = s.queue j := rfl
@[simp] theorem State.setQueue_core (s : State) (i j : Nat) (x : QHome) : (s.setQueue i x).core j = s.core j := rfl
@[simp] theorem State.setQueue_cluster (s : State) (i j : Nat) (x : QHome) : (s.setQueue i x).cluster j = s.cluster j := rfl
@[simp] theorem State.setQueue_die (s : State) (i j : Nat) (x : QHome) : (s.setQueue i x).die j = s.die j := rfl
@[simp] theorem State.setQueue_slice (s : State) (i j : Nat) (x : QHome) : (s.setQueue i x).slice j = s.slice j := rfl
@[simp] theorem State.setQueue_part (s : State) (i j : Nat) (x : QHome) : (s.setQueue i x).part j = s.part j := rfl
@[simp] theorem State.modGroup_core (s : State) (i j : Nat) (f : Group → Group) :
    (s.modGroup i f).core j = s.core j := by
  unfold State.modGroup; split <;> rfl
@[simp] theorem State.modGroup_cluster (s : State) (i j : Nat) (f : Group → Group) :
    (s.modGroup i f).cluster j = s.cluster j := by
  unfold State.modGroup; split <;> rfl
@[simp] theorem State.modGroup_die (s : State) (i j : Nat) (f : Group → Group) :
    (s.modGroup i f).die j = s.die j := by
  unfold State.modGroup; split <;> rfl
@[simp] theorem State.modGroup_slice (s : State) (i j : Nat) (f : Group → Group) :
    (s.modGroup i f).slice j = s.slice j := by
  unfold State.modGroup; split <;> rfl
@[simp] theorem State.modGroup_part (s : State) (i j : Nat) (f : Group → Group) :
    (s.modGroup i f).part j = s.part j := by
  unfold State.modGroup; split <;> rfl
@[simp] theorem State.modGroup_queue (s : State) (i j : Nat) (f : Group → Group) :
    (s.modGroup i f).queue j = s.queue j := by
  unfold State.modGroup; split <;> rfl
@[simp] theorem State.modTeam_core (s : State) (i j : Nat) (f : Team → Team) :
    (s.modTeam i f).core j = s.core j := by
  unfold State.modTeam; split <;> rfl
@[simp] theorem State.modTeam_cluster (s : State) (i j : Nat) (f : Team → Team) :
    (s.modTeam i f).cluster j = s.cluster j := by
  unfold State.modTeam; split <;> rfl
@[simp] theorem State.modTeam_die (s : State) (i j : Nat) (f : Team → Team) :
    (s.modTeam i f).die j = s.die j := by
  unfold State.modTeam; split <;> rfl
@[simp] theorem State.modTeam_slice (s : State) (i j : Nat) (f : Team → Team) :
    (s.modTeam i f).slice j = s.slice j := by
  unfold State.modTeam; split <;> rfl
@[simp] theorem State.modTeam_part (s : State) (i j : Nat) (f : Team → Team) :
    (s.modTeam i f).part j = s.part j := by
  unfold State.modTeam; split <;> rfl
@[simp] theorem State.modTeam_queue (s : State) (i j : Nat) (f : Team → Team) :
    (s.modTeam i f).queue j = s.queue j := by
  unfold State.modTeam; split <;> rfl
@[simp] theorem State.modGrid_core (s : State) (i j : Nat) (f : Grid → Grid) :
    (s.modGrid i f).core j = s.core j := by
  unfold State.modGrid; split <;> rfl
@[simp] theorem State.modGrid_cluster (s : State) (i j : Nat) (f : Grid → Grid) :
    (s.modGrid i f).cluster j = s.cluster j := by
  unfold State.modGrid; split <;> rfl
@[simp] theorem State.modGrid_die (s : State) (i j : Nat) (f : Grid → Grid) :
    (s.modGrid i f).die j = s.die j := by
  unfold State.modGrid; split <;> rfl
@[simp] theorem State.modGrid_slice (s : State) (i j : Nat) (f : Grid → Grid) :
    (s.modGrid i f).slice j = s.slice j := by
  unfold State.modGrid; split <;> rfl
@[simp] theorem State.modGrid_part (s : State) (i j : Nat) (f : Grid → Grid) :
    (s.modGrid i f).part j = s.part j := by
  unfold State.modGrid; split <;> rfl
@[simp] theorem State.modGrid_queue (s : State) (i j : Nat) (f : Grid → Grid) :
    (s.modGrid i f).queue j = s.queue j := by
  unfold State.modGrid; split <;> rfl

end Sys2Proof.Machine
end

