-- ==== Sys2Proof/Laws/Course.lean ====
section
/-! SUPPORT. The course of an instruction: what a group instruction and a Stoker instruction come to when their
checks pass, and when they do not; the sources of a vector instruction. -/

namespace Sys2Proof.Machine

variable {β : Type}

/-! ## Contexts -/

theorem ctx?_party {s : State} {c : Ctx} (h : s.ctx? = some c) :
    s.issue = some c.is ∧ c.is.party = .group c.gid ∧ c.s = s ∧ s.groups.find? c.gid = some c.g ∧
      s.teams.find? c.g.team = some c.t ∧ s.grids.find? c.t.grid = some c.gr := by
  unfold State.ctx? at h
  cases hi : s.issue with
  | none => simp [hi] at h
  | some is =>
    simp only [hi, Option.bind_eq_bind, Option.bind_some] at h
    cases hp : is.party with
    | stoker k => simp [hp] at h
    | group gid =>
      simp only [hp] at h
      cases hg : s.groups.find? gid with
      | none => simp [hg] at h
      | some g =>
        cases ht : s.teams.find? g.team with
        | none => simp [hg, ht] at h
        | some t =>
          cases hr : s.grids.find? t.grid with
          | none => simp [hg, ht, hr] at h
          | some gr =>
            simp [hg, ht, hr] at h
            subst h
            exact ⟨rfl, hp, rfl, hg, ht, hr⟩

theorem sctx?_party {s : State} {c : SCtx} (h : s.sctx? = some c) :
    s.issue = some c.is ∧ c.is.party = .stoker c.core ∧ c.s = s ∧ (s.core c.core).stream = some c.st ∧
      s.groups.find? c.st.owner = some c.g ∧ s.teams.find? c.g.team = some c.t ∧
      s.grids.find? c.t.grid = some c.gr := by
  unfold State.sctx? at h
  cases hi : s.issue with
  | none => simp [hi] at h
  | some is =>
    simp only [hi, Option.bind_eq_bind, Option.bind_some] at h
    cases hp : is.party with
    | group k => simp [hp] at h
    | stoker core =>
      simp only [hp] at h
      cases hs : (s.core core).stream with
      | none => simp [hs] at h
      | some st =>
        cases hg : s.groups.find? st.owner with
        | none => simp [hs, hg] at h
        | some g =>
          cases ht : s.teams.find? g.team with
          | none => simp [hs, hg, ht] at h
          | some t =>
            cases hr : s.grids.find? t.grid with
            | none => simp [hs, hg, ht, hr] at h
            | some gr =>
              simp [hs, hg, ht, hr] at h
              subst h
              exact ⟨rfl, hp, rfl, hs, hg, ht, hr⟩

theorem stokerIssues_of_ctx {s : State} {c : Ctx} (h : s.ctx? = some c) : s.stokerIssues = false := by
  obtain ⟨hi, hp, -⟩ := ctx?_party h
  simp [State.stokerIssues, hi, hp]

theorem stokerIssues_of_sctx {s : State} {c : SCtx} (h : s.sctx? = some c) : s.stokerIssues = true := by
  obtain ⟨hi, hp, -⟩ := sctx?_party h
  simp [State.stokerIssues, hi, hp]

/-! ## All checks pass -/

theorem sortLanes_ok (ls : List Nat) (r : Nat → β) :
    sortLanes (ls.map fun l => (l, (.ok (r l) : Except Stop β))) =
      { good := ls.map fun l => (l, r l), bad := [], again := [], pages := [], dead := [] } := by
  induction ls with
  | nil => rfl
  | cons l t ih => simp [sortLanes, ih]

@[simp] theorem takeFaults_nil (s : State) (gid : Nat) (pc : Addr) : s.takeFaults gid pc [] = s := rfl

@[simp] theorem latchReplay_nil (c : Ctx) (s : State) : c.latchReplay s [] = s := rfl

@[simp] theorem markLost_nil (c : Ctx) (s : State) : c.markLost [] s = s := rfl

theorem finish_ok (c : Ctx) (closing : Bool) (ls : List Nat) (r : Nat → β)
    (effect : List (Nat × β) → State → State) (idle : State → State) (h : ls ≠ []) :
    c.finish closing (sortLanes (ls.map fun l => (l, (.ok (r l) : Except Stop β)))) effect idle =
      .next (effect (ls.map fun l => (l, r l)) (c.advance closing c.is.lanes)) := by
  rw [sortLanes_ok]
  have hl : (c.is.lanes.filter fun _ => true) = c.is.lanes := List.filter_true _
  cases ls with
  | nil => exact absurd rfl h
  | cons a t => simp [Ctx.finish, hl]

/-- The lanes of an instruction that is in no predicate block, or may stand in one, are those of its effect. -/
theorem checks_ok {c : Ctx} {kind : Kind} {check : Ctx → Nat → Except Stop β} {r : Nat → β}
    (hk : kind = .plain ∨ (c.covered = false ∧ c.is.eff = c.is.lanes))
    (h : ∀ l ∈ c.is.eff, check c l = .ok (r l)) :
    c.checks kind check = c.is.eff.map fun l => (l, (.ok (r l) : Except Stop β)) := by
  unfold Ctx.checks
  split
  · exact List.map_congr_left fun l hl => by rw [h l hl]
  · rename_i hn
    obtain ⟨hc, he⟩ := hk.resolve_left hn
    rw [he] at h ⊢
    refine List.map_congr_left fun l hl => ?_
    have : c.coveredLane l = false := by
      simpa using List.any_eq_false.1 hc l hl
    rw [h l hl, this]
    rfl

/-- A group instruction whose checks pass in every lane of its effect completes. -/
theorem groupStep_ok {s : State} {c : Ctx} {kind : Kind} {check : Ctx → Nat → Except Stop β}
    {effect : Ctx → List (Nat × β) → State → State} {idle : Ctx → State → State} {r : Nat → β}
    (hc : s.ctx? = some c) (hk : kind = .plain ∨ (c.covered = false ∧ c.is.eff = c.is.lanes)) (he : c.is.eff ≠ [])
    (h : ∀ l ∈ c.is.eff, check c l = .ok (r l)) :
    groupStep s kind check effect idle =
      .next (effect c (c.is.eff.map fun l => (l, r l)) (c.advance (kind == .closing) c.is.lanes)) := by
  simp only [groupStep, hc, checks_ok hk h, finish_ok c _ _ r _ _ he]

theorem groupOnly_eq {s : State} {c : Ctx} (kind : Kind) (check : Ctx → Nat → Except Stop β)
    (effect : Ctx → List (Nat × β) → State → State) (idle : Ctx → State → State) (hc : s.ctx? = some c) :
    groupOnly s kind check effect idle = groupStep s kind check effect idle := by
  simp [groupOnly, stokerIssues_of_ctx hc]

theorem groupOnly_ok {s : State} {c : Ctx} {kind : Kind} {check : Ctx → Nat → Except Stop β}
    {effect : Ctx → List (Nat × β) → State → State} {idle : Ctx → State → State} {r : Nat → β}
    (hc : s.ctx? = some c) (hk : kind = .plain ∨ (c.covered = false ∧ c.is.eff = c.is.lanes)) (he : c.is.eff ≠ [])
    (h : ∀ l ∈ c.is.eff, check c l = .ok (r l)) :
    groupOnly s kind check effect idle =
      .next (effect c (c.is.eff.map fun l => (l, r l)) (c.advance (kind == .closing) c.is.lanes)) :=
  (groupOnly_eq kind check effect idle hc).trans (groupStep_ok hc hk he h)

theorem streamStep_ok {s : State} {c : SCtx} {check : SCtx → Except Stop β}
    {effect : SCtx → β → State → State} {r : β} (hc : s.sctx? = some c) (h : check c = .ok r) :
    streamStep s check effect = .next (effect c r c.advance) := by
  simp [streamStep, hc, h]

theorem stokerOnly_ok {s : State} {c : SCtx} {check : SCtx → Except Stop β}
    {effect : SCtx → β → State → State} {r : β} (hc : s.sctx? = some c) (h : check c = .ok r) :
    stokerOnly s check effect = .next (effect c r c.advance) := by
  simp [stokerOnly, stokerIssues_of_sctx hc, streamStep_ok hc h]

/-! ## The other ends -/

/-- A group instruction that takes effect in no lane moves the batch on and does what its issue alone does (R22,
R208, R248). -/
theorem groupStep_skip {s : State} {c : Ctx} {check : Ctx → Nat → Except Stop β}
    {effect : Ctx → List (Nat × β) → State → State} {idle : Ctx → State → State} (hc : s.ctx? = some c)
    (he : c.is.eff = []) :
    groupStep s .plain check effect idle = .next (idle c (c.advance false c.is.lanes)) := by
  have hl : (c.is.lanes.filter fun _ => true) = c.is.lanes := List.filter_true _
  have hk : (Kind.plain == Kind.closing) = false := rfl
  simp [groupStep, hc, Ctx.checks, he, sortLanes, Ctx.finish, hl, hk]

theorem sortLanes_bad (ls : List Nat) (f : Nat → LaneFault) :
    sortLanes (ls.map fun l => (l, (.error (.fault (f l)) : Except Stop β))) =
      { good := [], bad := ls.map fun l => (l, f l), again := [], pages := [], dead := [] } := by
  induction ls with
  | nil => rfl
  | cons l t ih => simp [sortLanes, ih]

/-- An instruction of class 0 other than `nop`, or a closing one, is illegal in a lane that stands in a predicate
block (R248). -/
theorem checks_covered {c : Ctx} {kind : Kind} {check : Ctx → Nat → Except Stop β} (hk : kind ≠ .plain)
    (hcov : ∀ l ∈ c.is.lanes, c.coveredLane l = true) :
    c.checks kind check = c.is.lanes.map fun l => (l, (.error (.fault (illegal c.is.word)) : Except Stop β)) := by
  unfold Ctx.checks
  rw [if_neg hk]
  exact List.map_congr_left fun l hl => by rw [hcov l hl]; rfl

/-- A group instruction that faults in every lane of its batch. -/
theorem groupStep_faults {s : State} {c : Ctx} {kind : Kind} {check : Ctx → Nat → Except Stop β}
    {effect : Ctx → List (Nat × β) → State → State} {idle : Ctx → State → State} (hc : s.ctx? = some c)
    (hk : kind ≠ .plain) (hcov : ∀ l ∈ c.is.lanes, c.coveredLane l = true) :
    ∃ u : State, groupStep s kind check effect idle =
      .next (u.takeFaults c.gid c.is.pc (c.is.lanes.map fun l => (l, illegal c.is.word))) := by
  simp only [groupStep, hc, checks_covered hk hcov, sortLanes_bad, Ctx.finish]
  exact ⟨_, rfl⟩

/-- A group instruction is never refused while a group issues; it stops only at a page that leads to no
memory. -/
theorem groupStep_next_or_fault {s : State} {c : Ctx} (kind : Kind) (check : Ctx → Nat → Except Stop β)
    (effect : Ctx → List (Nat × β) → State → State) (idle : Ctx → State → State) (hc : s.ctx? = some c) :
    (∃ t, groupStep s kind check effect idle = .next t) ∨
      ∃ pa, groupStep s kind check effect idle = .fault (.noSuchMemory pa) := by
  simp only [groupStep, hc]
  unfold Ctx.finish
  split
  · exact .inr ⟨_, rfl⟩
  · split
    · exact .inl ⟨_, rfl⟩
    · exact .inl ⟨_, rfl⟩

theorem streamStep_next_or_fault {s : State} {c : SCtx} (check : SCtx → Except Stop β)
    (effect : SCtx → β → State → State) (hc : s.sctx? = some c) :
    (∃ t, streamStep s check effect = .next t) ∨
      ∃ pa, streamStep s check effect = .fault (.noSuchMemory pa) := by
  simp only [streamStep, hc]
  split <;> first
    | exact .inl ⟨_, rfl⟩
    | exact .inr ⟨_, rfl⟩

/-! ## Sources -/

@[simp] theorem require_true (f : LaneFault) : require true f = .ok () := rfl

theorem require_of {b : Bool} (f : LaneFault) (h : b = true) : require b f = .ok () := by simp [h]

theorem forM_ok {α : Type} (l : List α) (f : α → Except Stop Unit) (h : ∀ x ∈ l, f x = .ok ()) :
    l.forM f = .ok () := by
  induction l with
  | nil => rfl
  | cons x r ih =>
    have hr : r.forM f = .ok () := ih fun y hy => h y (List.mem_cons_of_mem _ hy)
    change (f x >>= fun _ => r.forM f) = .ok ()
    rw [h x (by simp)]
    exact hr

theorem mapM_ok {α γ : Type} (l : List α) (f : α → Except Stop γ) (g : α → γ)
    (h : ∀ x ∈ l, f x = .ok (g x)) : l.mapM f = .ok (l.map g) := by
  induction l with
  | nil => rfl
  | cons x r ih =>
    rw [List.mapM_cons, h x (by simp), ih fun y hy => h y (List.mem_cons_of_mem _ hy)]
    rfl

/-- A read of a readable operand gives its value. -/
theorem read_ok (c : Ctx) (l : Nat) (o : Opnd) (n field : Nat) (imm : Dword)
    (h : c.readable l o n = true) : c.read l o n field imm = .ok (c.operand l o n imm) := by
  cases o with
  | v i =>
    have : ((List.range n).map (c.reg l (.v i)).succ).all (fun r => c.g.nearOk r l) = true := by
      simp [List.all_eq_true, Ctx.reg, Reg.succ, Group.nearOk]
    simp only [Ctx.read, this, require_true]
    simp [Ctx.operand, Function.comp_def, bind, Except.bind, pure, Except.pure]
  | n i =>
    have : ((List.range n).map (c.reg l (.n i)).succ).all (fun r => c.g.nearOk r l) = true := by
      simp only [Ctx.readable, List.all_eq_true] at h
      simp only [List.all_map, List.all_eq_true]
      intro j hj
      exact h j hj
    simp only [Ctx.read, this, require_true]
    simp [Ctx.operand, Function.comp_def, bind, Except.bind, pure, Except.pure]
  | u i => rfl
  | b i =>
    simp only [Ctx.readable, Bool.and_eq_true, decide_eq_true_eq] at h
    have h2 : ((!((c.s.core c.g.core).slot c.is.slot).validFor c.gid c.is.lanes) ||
        decide (((c.s.core c.g.core).slot c.is.slot).latch.length < i + n)) = false := by
      simp [Slot.validFor, h.1]
      omega
    simp only [Ctx.read]
    rw [if_neg (by simpa using h2)]
    simp [Ctx.operand, Function.comp_def, pure, Except.pure]
  | _ => rfl

theorem accept_ok {x : Src} {ty : Ty} {loose : Bool} (field : Nat) (h : x.accepted ty loose = true) :
    x.accept ty loose field = .ok () := by simp [Src.accept, h]

theorem scaleOk_ok {x : Src} (field : Nat)
    (h : (x.tags.all fun t => t.scale == 127 || t.scale == 255) = true) : x.scaleOk field = .ok () := by
  have hn : (x.tags.find? fun t => t.scale != 127 && t.scale != 255) = none := by
    rw [List.find?_eq_none]
    intro t ht
    have := List.all_eq_true.1 h t ht
    simp at this ⊢
    tauto
  unfold Src.scaleOk
  rw [hn]

/-- The sources of a vector instruction that are ready are read as their values. -/
theorem sources_ok (c : Ctx) (l : Nat) (dst : Opnd) (dn : Nat) (imm : Option (BitVec 16))
    (qs : List SrcReq) (hd : c.dstReady l dst dn = true)
    (hq : ∀ q ∈ qs, c.sourceReady imm l q = true) :
    c.sources l dst dn imm qs = .ok (c.values imm qs l) := by
  simp only [Ctx.dstReady, Bool.and_eq_true] at hd
  obtain ⟨⟨hd1, hd2⟩, hd3⟩ := hd
  have hdst : c.dstOk l dst dn = .ok () := by simp [Ctx.dstOk, hd1, hd2]
  have hsurv : c.survivor l dst dn = .ok () := by
    unfold Ctx.survivor
    unfold Ctx.mayWrite at hd3
    cases hf : c.fibre? l with
    | none => rfl
    | some f => simp [hf] at hd3; simp [hd3]
  have hsplit : ∀ q ∈ qs, c.inBounds l q.o q.ty.regs = true ∧
      (q.o != .imm || (imm.isSome && immOk q.ty (imm.getD 0))) = true ∧
      c.readable l q.o q.ty.regs = true ∧
      (c.operand l q.o q.ty.regs (expandImm q.ty (imm.getD 0))).accepted q.ty q.loose = true ∧
      (!q.scaled || (c.operand l q.o q.ty.regs (expandImm q.ty (imm.getD 0))).tags.all
        fun t => t.scale == 127 || t.scale == 255) = true := by
    intro q h
    have := hq q h
    simp only [Ctx.sourceReady, Bool.and_eq_true] at this
    exact ⟨this.1.1.1.1, this.1.1.1.2, this.1.1.2, this.1.2, this.2⟩
  have h1 : (qs.forM fun q => require (c.inBounds l q.o q.ty.regs && (q.o != .imm || imm.isSome))
      (badOperand q.field)) = .ok () := forM_ok _ _ fun q h => by
    obtain ⟨a, b, -⟩ := hsplit q h
    refine require_of _ ?_
    rw [a]
    cases imm <;> simp_all
  have h2 : (qs.forM fun q => require (q.o != .imm || immOk q.ty (imm.getD 0)) (badOperand fImm)) = .ok () :=
    forM_ok _ _ fun q h => by
      obtain ⟨-, b, -⟩ := hsplit q h
      refine require_of _ ?_
      cases hi : (q.o != Opnd.imm)
      · rw [hi] at b
        simp only [Bool.false_or, Bool.and_eq_true] at b ⊢
        exact b.2
      · rfl
  have h3 : (qs.mapM fun q => c.source l q (expandImm q.ty (imm.getD 0))) = .ok (c.values imm qs l) :=
    mapM_ok _ _ _ fun q h => by
      obtain ⟨-, -, hr, ha, hs⟩ := hsplit q h
      unfold Ctx.source
      rw [read_ok c l q.o q.ty.regs q.field _ hr]
      simp only [bind, Except.bind, accept_ok q.field ha]
      cases hsc : q.scaled with
      | false => rfl
      | true =>
        rw [hsc] at hs
        simp only [Bool.not_true, Bool.false_or] at hs
        simp only [if_true, scaleOk_ok q.field hs]
        rfl
  unfold Ctx.sources
  simp only [bind, Except.bind, hdst, h1, h2, hsurv, h3]

/-- A vector instruction whose operands are ready completes with the results of its lanes. -/
theorem vecStep_ok {s : State} {c : Ctx} {dst : Opnd} {dn : Nat} {imm : Option (BitVec 16)}
    {qs : List SrcReq} {f : Ctx → Nat → List Src → Except Stop VRes} {idle : Ctx → State → State} {r : Nat → VRes}
    (hc : s.RunsIn c) (h : c.vecReady dst dn imm qs = true)
    (hf : ∀ l ∈ c.is.eff, f c l (c.values imm qs l) = .ok (r l)) :
    groupOnly s .plain (fun c l => do f c l (← c.sources l dst dn imm qs))
      (fun c rs s => c.writeVec dst rs s) idle = .next (c.vecDone dst r) := by
  refine groupOnly_ok hc.1 (.inl rfl) hc.2 fun l hl => ?_
  have hl' := List.all_eq_true.1 h l hl
  simp only [Bool.and_eq_true, List.all_eq_true] at hl'
  simp only [bind, Except.bind, sources_ok c l dst dn imm qs hl'.1 hl'.2]
  exact hf l hl

end Sys2Proof.Machine
end

