-- ==== Sys2Proof/Laws/Calm.lean ====
section
/-! SUPPORT. What the operations on memory, caches, scratchpads and queue homes leave alone, and that they keep the
canonical form of memory. -/

namespace Sys2Proof.Machine

theorem State.Calm.refl (s : State) : s.Calm s := by
  constructor <;> intros <;> first | rfl | assumption

theorem State.Calm.trans {s t u : State} (h : s.Calm t) (k : t.Calm u) : s.Calm u :=
  ⟨k.inputs.trans h.inputs, k.schedule.trans h.schedule, k.issue.trans h.issue, k.seq.trans h.seq,
    k.nextId.trans h.nextId, k.nominal.trans h.nominal, k.clock.trans h.clock, k.fuses.trans h.fuses,
    k.held.trans h.held,
    k.deviceRung.trans h.deviceRung, k.update.trans h.update, k.firmware.trans h.firmware,
    k.rollback.trans h.rollback, k.rails.trans h.rails, k.folio.trans h.folio,
    k.folioPoison.trans h.folioPoison, k.clusters.trans h.clusters, k.dies.trans h.dies,
    k.ports.trans h.ports, k.grids.trans h.grids, k.teams.trans h.teams, k.groups.trans h.groups,
    fun i => (k.stream i).trans (h.stream i), fun i => (k.slots i).trans (h.slots i),
    fun i => by have a := h.map i; have b := k.map i; rw [← a, ← b], fun w => k.wf (h.wf w)⟩

/-- A fold of calm steps is calm. -/
theorem State.Calm.foldl {β : Type} (f : State → β → State) (hf : ∀ (s : State) b, s.Calm (f s b)) (l : List β)
    (s : State) : s.Calm (l.foldl f s) := by
  induction l generalizing s with
  | nil => exact .refl s
  | cons b r ih => exact (hf s b).trans (ih (f s b))

/-- A change of a core that leaves its stream and its issue slots. -/
theorem State.calm_modCore (s : State) (i : Nat) (f : Core → Core) (h1 : ∀ k, (f k).stream = k.stream)
    (h2 : ∀ k, (f k).slots = k.slots) : s.Calm (s.modCore i f) := by
  refine ⟨rfl, rfl, rfl, rfl, rfl, rfl, rfl, rfl, rfl, rfl, rfl, rfl, rfl, rfl, rfl, rfl, rfl, rfl, rfl, rfl,
    rfl, rfl, fun k => ?_, fun k => ?_, fun _ => rfl, id⟩
  · rw [State.modCore_eq, State.core_setCore]
    split
    · subst_vars
      exact h1 _
    · rfl
  · rw [State.modCore_eq, State.core_setCore]
    split
    · subst_vars
      exact h2 _
    · rfl

theorem State.calm_modSlice (s : State) (i : Nat) (f : Slice → Slice) : s.Calm (s.modSlice i f) := by
  constructor <;> intros <;> first | rfl | assumption

/-! ## Homes and L1 -/

theorem State.calm_homeWriteGranule (s : State) (w : Nat) (d : Granule) (m : BitVec 16) (t p : Bool) :
    s.Calm (s.homeWriteGranule w d m t p) := by
  unfold State.homeWriteGranule
  split
  · exact .refl s
  · refine ⟨rfl, rfl, rfl, rfl, rfl, rfl, rfl, rfl, rfl, rfl, rfl, rfl, rfl, rfl, rfl, rfl, rfl, rfl, rfl, rfl,
      rfl, rfl, fun _ => rfl, fun _ => rfl, fun _ => rfl, fun h => Memory.wf_foldl _ (fun m i hm => ?_) _ h⟩
    split
    · exact Memory.wf_write hm _ _
    · exact hm

theorem State.calm_homeWrite (s : State) (pa : Nat) (bs : List Byte) (p : Bool) :
    s.Calm (s.homeWrite pa bs p) := by
  unfold State.homeWrite
  split
  · exact .refl s
  · exact .foldl _ (fun s x => s.calm_homeWriteGranule _ _ _ _ _) _ s

theorem State.calm_homeRecord (s : State) (r : ScopeRec) : s.Calm (s.homeRecord r) := s.calm_modSlice _ _

theorem State.calm_modL1Word (s : State) (core w : Nat) (f : L1Word → L1Word) :
    s.Calm (s.modL1Word core w f) := by
  unfold State.modL1Word
  split
  · exact .refl s
  · exact State.calm_modCore _ _ _ (by intro; rfl) (by intro; rfl)

theorem State.calm_upsets (s : State) (u : Upsets) : s.Calm { s with upsets := u } := by
  constructor <;> intros <;> first | rfl | assumption

theorem State.calm_l1Upset (s : State) (core w : Nat) : s.Calm (s.l1Upset core w) := by
  unfold State.l1Upset
  split
  · exact .refl s
  · refine State.Calm.trans (s.calm_upsets { s.upsets with l1 := s.upsets.l1.erase (core, w) }) ?_
    simp only
    split
    · exact .refl _
    · split
      · exact State.calm_modL1Word _ core w _
      · exact State.calm_modCore _ _ _ (by intro; rfl) (by intro; rfl)

theorem State.calm_drainBlock (s : State) (core b : Nat) : s.Calm (s.drainBlock core b) := by
  unfold State.drainBlock
  split
  · exact .refl s
  · extract_lets dirty s1 words s2 s3
    have h1 : s.Calm s1 := .foldl _ (fun s j => s.calm_l1Upset core _) dirty s
    have h2 : s1.Calm s2 := .foldl _ (fun s x => s.calm_homeWriteGranule _ _ _ _ _) words.zipIdx s1
    have h3 : s2.Calm s3 := by
      simp only [s3]
      split
      · exact State.calm_homeRecord _ _
      · exact .refl _
    exact ((h1.trans h2).trans h3).trans (State.calm_modCore _ _ _ (by intro; rfl) (by intro; rfl))

theorem State.calm_drainHead (s : State) (core : Nat) : s.Calm (s.drainHead core) := by
  unfold State.drainHead
  split
  · exact .refl s
  · exact State.calm_modCore _ _ _ (by intro; rfl) (by intro; rfl)
  · exact (s.calm_drainBlock core _).trans (State.calm_modCore _ _ _ (by intro; rfl) (by intro; rfl))

theorem State.calm_drainN (n : Nat) (s : State) (core : Nat) : s.Calm (s.drainN core n) := by
  induction n generalizing s with
  | zero => exact .refl s
  | succ n ih => exact (s.calm_drainHead core).trans (ih _)

theorem State.calm_drainAll (s : State) (core : Nat) : s.Calm (s.drainAll core) := State.calm_drainN _ s core

theorem State.calm_drainUpTo (s : State) (core b : Nat) : s.Calm (s.drainUpTo core b) := by
  unfold State.drainUpTo
  simp only
  split
  · exact State.calm_drainN _ s core
  · exact .refl s

theorem State.calm_pushFifo (s : State) (core : Nat) (e : FifoEntry) : s.Calm (s.pushFifo core e) := by
  unfold State.pushFifo
  simp only
  split
  · exact (s.calm_drainHead core).trans (State.calm_modCore _ _ _ (by intro; rfl) (by intro; rfl))
  · exact State.calm_modCore _ _ _ (by intro; rfl) (by intro; rfl)

theorem State.calm_evictBlock (s : State) (core b : Nat) : s.Calm (s.evictBlock core b) := by
  unfold State.evictBlock
  simp only
  split
  · exact s.calm_drainUpTo core b
  · exact (s.calm_drainUpTo core b).trans (State.calm_modCore _ _ _ (by intro; rfl) (by intro; rfl))

theorem State.calm_makeRoom (n : Nat) (s : State) (core size : Nat) : s.Calm (s.makeRoom core size n) := by
  induction n generalizing s with
  | zero => exact .refl s
  | succ n ih =>
    unfold State.makeRoom
    split
    · exact .refl s
    · split
      · exact (s.calm_evictBlock core _).trans (ih _)
      · exact .refl s

theorem State.calm_meetMarks (s : State) (span : Nat × Nat) : s.Calm (s.meetMarks span) := by
  unfold State.meetMarks
  split
  · exact .refl s
  · constructor <;> intros <;> first | rfl | assumption

theorem State.calm_allocate (s : State) (core w : Nat) (pc : Addr) (keep : Bool) :
    s.Calm (s.allocate core w pc keep) :=
  ((State.calm_makeRoom ((s.core core).fillSpan w pc).2 s core ((s.core core).fillSpan w pc).2).trans
    (State.calm_meetMarks _ ((s.core core).fillSpan w pc))).trans
    (State.calm_modCore _ core (fun c => { c with l1 := c.l1.insert _ _ }) (by intro; rfl) (by intro; rfl))

theorem State.calm_complete (s : State) (core w : Nat) : s.Calm (s.complete core w) := s.calm_modL1Word core w _

theorem State.calm_markKeep (s : State) (core w : Nat) (cache : Cache) : s.Calm (s.markKeep core w cache) := by
  unfold State.markKeep
  split
  · exact State.calm_modCore _ _ _ (by intro; rfl) (by intro; rfl)
  · exact .refl s

theorem State.calm_readGranule (s : State) (core w : Nat) (cache : Cache) (pc : Addr) :
    s.Calm (s.readGranule core w cache pc).2 := by
  unfold State.readGranule
  extract_lets s1 fromL1 s2
  have h1 : s.Calm s1 := s.calm_l1Upset core w
  have hfrom : ∀ u : State, u.Calm (fromL1 u).2 := by
    intro u
    have h : u.Calm (((u.complete core w).markKeep core w cache).modL1Word core w fun x => { x with touched := true }) :=
      ((u.calm_complete core w).trans (State.calm_markKeep _ core w cache)).trans (State.calm_modL1Word _ core w _)
    simp only [fromL1]
    split
    · split <;> exact h
    · exact h
  clear_value fromL1
  refine h1.trans ?_
  split
  · simp only [s2]
    split
    · exact State.calm_evictBlock _ core _
    · exact .refl _
  · split
    · exact hfrom _
    · exact .refl _
  · split
    · exact hfrom _
    · refine State.Calm.trans ?_ (hfrom _)
      exact s1.calm_allocate core w pc _

theorem State.calm_coreRead (s : State) (core pa n : Nat) (cache : Cache) (pc : Addr) :
    s.Calm (s.coreRead core pa n cache pc).2 := by
  have h := s.calm_readGranule core (pa / 16) cache pc
  unfold State.coreRead
  generalize s.readGranule core (pa / 16) cache pc = r at h ⊢
  exact h

theorem State.calm_writeGranule (s : State) (core w : Nat) (d : Granule) (m : BitVec 16) (t p : Bool)
    (cache : Cache) (pc : Addr) : s.Calm (s.writeGranule core w d m t p cache pc) := by
  have hout : s.Calm ((match (s.core core).blockOf w with
      | some (b, _) => s.evictBlock core b
      | none => s).drainAll core) := by
    refine State.Calm.trans ?_ (State.calm_drainAll _ core)
    split
    · exact s.calm_evictBlock core _
    · exact .refl s
  unfold State.writeGranule
  split
  · exact hout.trans (State.calm_homeWriteGranule _ w d m t p)
  · exact hout.trans (State.calm_homeWriteGranule _ w d m t p)
  · extract_lets s1 s2
    have h1 : s.Calm s1 := s.calm_l1Upset core w
    have h2 : s1.Calm s2 := by
      simp only [s2]
      split
      · exact s1.calm_markKeep core w cache
      · exact s1.calm_allocate core w pc _
    refine (h1.trans h2).trans ?_
    split
    · exact .refl _
    · simp only
      split
      · exact (s2.calm_modL1Word core w _).trans (State.calm_pushFifo _ core _)
      · exact s2.calm_modL1Word core w _

theorem State.calm_coreWrite (s : State) (core pa n v : Nat) (p : Bool) (cache : Cache) (pc : Addr) :
    s.Calm (s.coreWrite core pa n v p cache pc) := s.calm_writeGranule core _ _ _ _ _ cache pc

theorem State.calm_acquireL1 (s : State) (core : Nat) : s.Calm (s.acquireL1 core) :=
  State.calm_modCore _ _ _ (by intro; rfl) (by intro; rfl)

theorem State.calm_flushRange (s : State) (core pa n : Nat) : s.Calm (s.flushRange core pa n) := by
  unfold State.flushRange
  split
  · exact .refl s
  · refine .foldl _ (fun s i => ?_) _ s
    split
    · exact s.calm_evictBlock core _
    · exact .refl s

/-! ## Scratchpads, releases and acquires -/

theorem State.calm_padRead (s : State) (t : Team) (off : Nat) (use : Option PadUse) :
    s.Calm (s.padRead t off use).2 := by
  unfold State.padRead
  extract_lets l
  generalize (s.core l.core).pad.read l.bank l.row (s.nowAt l.core) = r
  exact State.calm_modCore _ _ (fun c => { c with pad := _ }) (by intro; rfl) (by intro; rfl)

theorem State.calm_padNote (s : State) (t : Team) (off r : Nat) (w : Granule) : s.Calm (s.padNote t off r w) := by
  unfold State.padNote
  split
  · exact .refl s
  · exact State.calm_modCore _ _ _ (by intro; rfl) (by intro; rfl)

theorem State.calm_padSee (s : State) (t : Team) (off : Nat) (use : Option PadUse) :
    s.Calm (s.padSee t off use).2 := by
  unfold State.padSee
  simp only
  split
  · exact s.calm_padRead t off use
  · exact (s.calm_padRead t off use).trans (State.calm_padNote _ t off _ _)

theorem State.calm_padTake (s : State) (t : Team) (off : Nat) (use : Option PadUse) :
    s.Calm (s.padTake t off use).2 := (s.calm_padRead t off use).trans (State.calm_padNote _ t off _ _)

theorem State.calm_padWriteGranule (s : State) (t : Team) (off : Nat) (d : Granule) (m : BitVec 16)
    (g p : Bool) (use : Option PadUse) : s.Calm (s.padWriteGranule t off d m g p use) := by
  unfold State.padWriteGranule
  simp only
  split
  · exact .refl s
  · exact (State.calm_modCore _ _ _ (by intro; rfl) (by intro; rfl)).trans (State.calm_padNote _ t off _ _)

theorem State.calm_padWrite (s : State) (t : Team) (off n v : Nat) (p : Bool) (use : Option PadUse) :
    s.Calm (s.padWrite t off n v p use) := s.calm_padWriteGranule t off _ _ _ _ use

theorem State.calm_padMeet (s : State) (t : Team) (off n : Nat) (use : Option PadUse) :
    s.Calm (s.padMeet t off n use) := by
  unfold State.padMeet
  split
  · exact .refl s
  · exact .foldl _ (fun s i => s.calm_padTake t _ use) _ s

theorem State.calm_releaseAt (s : State) (core : Nat) (cs : List Nat) (x : Scope) :
    s.Calm (s.releaseAt core cs x) := by
  have h : s.Calm (cs.foldl (fun s c => s.modCore c fun k => { k with pad := k.pad.settle (s.nowAt c) }) s) :=
    .foldl _ (fun s c => State.calm_modCore _ _ _ (by intro; rfl) (by intro; rfl)) _ s
  unfold State.releaseAt
  simp only
  split
  · exact (h.trans (State.calm_pushFifo _ core _)).trans (State.calm_drainAll _ core)
  · exact h

theorem State.calm_acquireAt (s : State) (core : Nat) (y : Scope) : s.Calm (s.acquireAt core y) := by
  unfold State.acquireAt
  split
  · exact s.calm_acquireL1 core
  · exact .refl s

theorem State.calm_recordRelease (s : State) (part core : Nat) (x : Scope) (p : Place) :
    s.Calm (s.recordRelease part core x p) := by
  unfold State.recordRelease
  split
  · split
    · exact s.calm_homeRecord _
    · exact .refl s
  · split
    · exact State.calm_modCore _ _ _ (by intro; rfl) (by intro; rfl)
    · exact .refl s
  · exact .refl s

/-! ## Places and queue homes -/

theorem State.calm_placeWrite (s : State) (p : Place) (bs : List Byte) (q : Bool) (unit : Nat) :
    s.Calm (s.placeWrite p bs q unit) := by
  unfold State.placeWrite
  split
  · exact s.calm_homeWrite _ _ _
  · split
    · exact .refl s
    · split
      · exact .foldl _ (fun s x => s.calm_padWriteGranule _ _ _ _ _ _ _) _ s
      · exact .refl s
  · exact .refl s

theorem State.calm_placeSee (s : State) (p : Place) (n : Nat) (asks : Bool) :
    s.Calm (s.placeSee p n asks).2 := by
  unfold State.placeSee
  split
  · split
    · exact s.calm_padMeet _ _ _ _
    · exact .refl s
  · exact .refl s

theorem State.calm_clearRecord (s : State) (part : Nat) (p : Place) : s.Calm (s.clearRecord part p) := by
  unfold State.clearRecord
  split
  · exact s.calm_modSlice _ _
  · split
    · exact State.calm_modCore _ _ _ (by intro; rfl) (by intro; rfl)
    · exact .refl s
  · exact .refl s

theorem State.calm_qOpen (s : State) (p : Place) : s.Calm (s.qOpen p).s := s.calm_placeSee p 64 true

theorem State.calm_ownFirst (s : State) (core : Nat) (p : Place) (n : Nat) : s.Calm (s.ownFirst core p n) := by
  unfold State.ownFirst
  split
  · exact s.calm_flushRange core _ n
  · exact .refl s

theorem State.calm_free (s : State) (n : Nat) : s.Calm { s with free := n } := by
  constructor <;> intros <;> first | rfl | assumption

theorem State.calm_setQueue (s : State) (i : Nat) (q : QHome) : s.Calm (s.setQueue i q) := by
  constructor <;> intros <;> first | rfl | assumption

theorem QSt.calm_done (x : QSt) : x.s.Calm x.done := by
  unfold QSt.done
  exact ((x.s.calm_free _).trans (State.calm_placeWrite _ x.place _ _ _)).trans (State.calm_setQueue _ _ _)

@[simp] theorem QSt.commit_s (x : QSt) (i : Word) : (x.commit i).s = x.s := rfl

@[simp] theorem QSt.finish_s (x : QSt) (i : Word) : (x.finish i).s = x.s := rfl

theorem calm_enqPass (l : List (Nat × List Word)) (x : QSt) (w : QWait) : x.s.Calm (enqPass l x w).1.s := by
  suffices h : ∀ s, x.s = s → s.Calm (enqPass l x w).1.s from h _ rfl
  induction l generalizing x w with
  | nil =>
    rintro _ rfl
    exact .refl _
  | cons c r ih =>
    obtain ⟨l, ws⟩ := c
    rintro _ rfl
    unfold enqPass
    split
    · exact .refl _
    · simp only
      split
      · split <;> exact ih _ _ _ rfl
      · split
        · exact ih _ _ _ rfl
        · exact ((x.s.calm_ownFirst _ _ _).trans (State.calm_placeWrite _ _ _ _ _)).trans (ih _ _ _ rfl)

theorem calm_deqPass (l : List (Nat × List Word)) (x : QSt) (w : QWait) : x.s.Calm (deqPass l x w).1.s := by
  suffices h : ∀ s, x.s = s → s.Calm (deqPass l x w).1.s from h _ rfl
  induction l generalizing x w with
  | nil =>
    rintro _ rfl
    exact .refl _
  | cons c r ih =>
    obtain ⟨l, ws⟩ := c
    rintro _ rfl
    unfold deqPass
    split
    · split
      · split <;> exact ih _ _ _ rfl
      · exact .refl _
    · simp only
      split
      · exact ih _ _ _ rfl
      · split
        · exact ih _ _ _ rfl
        · split
          · exact ih _ _ _ rfl
          · split
            · exact ih _ _ _ rfl
            · rename_i p _
              refine State.Calm.trans ((x.s.calm_ownFirst w.core p (2 ^ x.q.esz)).trans
                (State.calm_placeSee _ p (2 ^ x.q.esz) true)) ?_
              split <;> exact ih _ _ _ rfl

theorem QSt.calm_pass (x : QSt) (w : QWait) : x.s.Calm (x.pass w).1.s := by
  unfold QSt.pass
  split
  · exact calm_enqPass _ x w
  · exact calm_enqPass _ x w
  · exact calm_deqPass _ x w
  · exact calm_deqPass _ x w

theorem QSt.calm_serve (x y : QSt) (h : x.serve = some y) : x.s.Calm y.s := by
  unfold QSt.serve at h
  simp only at h
  split at h
  · rename_i z hz
    cases h
    split at hz
    · cases hz
    · split at hz
      · cases hz
      · split at hz
        · cases hz
          exact x.calm_pass _
        · cases hz
          exact x.calm_pass _
  · split at h
    · cases h
    · split at h
      · cases h
      · split at h
        · cases h
          exact x.calm_pass _
        · cases h
          exact x.calm_pass _

theorem calm_serveRun (n : Nat) (x : QSt) : x.s.Calm (serveRun n x).s := by
  induction n generalizing x with
  | zero => exact .refl _
  | succ n ih =>
    unfold serveRun
    split
    · rename_i y hy
      exact (x.calm_serve y hy).trans (ih y)
    · exact .refl _

theorem QSt.calm_pump (x : QSt) : x.s.Calm x.pump.s := calm_serveRun _ x

/-! ## Packets -/

theorem State.calm_packetInto (s u : State) (part : Nat) (p : Place) (sp : Nat) (k : Packet) (b : Bool)
    (h : s.packetInto part p sp k = some (u, b)) : s.Calm u := by
  unfold State.packetInto at h
  simp only at h
  split at h
  · cases h
  · split at h
    · cases h
      exact ((s.calm_qOpen p).trans ((QSt.calm_pass (s.qOpen p) _).trans ((QSt.calm_pump _).trans
        (QSt.calm_done _)))).trans (State.calm_clearRecord _ part p)
    · cases h

theorem State.calm_interrupt (s : State) (vf v : Nat) : s.Calm (s.interrupt vf v) := by
  constructor <;> intros <;> first | rfl | assumption

theorem State.calm_errors (s : State) (l : List Packet) : s.Calm { s with errors := l } := by
  constructor <;> intros <;> first | rfl | assumption

theorem State.calm_hpdrop (s : State) (part : Nat) :
    s.Calm (s.modPart part fun p => { p with hpdrop := p.hpdrop + 1 }) := by
  refine ⟨rfl, rfl, rfl, rfl, rfl, rfl, rfl, rfl, rfl, rfl, rfl, rfl, rfl, rfl, rfl, rfl, rfl, rfl, rfl, rfl,
    rfl, rfl, fun _ => rfl, fun _ => rfl, fun k => ?_, id⟩
  rw [State.modPart_eq, State.part_setPart]
  split
  · subst_vars
    rfl
  · rfl

theorem State.calm_keepRecord (s : State) (k : Packet) : s.Calm (s.keepRecord k) := by
  unfold State.keepRecord
  split
  · exact s.calm_errors _
  · exact .refl s

theorem State.calm_toErrorQueue (s : State) (part : Nat) (k : Packet) : s.Calm (s.toErrorQueue part k) := by
  unfold State.toErrorQueue
  split
  · rename_i u b hu
    split
    · exact (s.calm_packetInto u part _ _ k b hu).trans (u.calm_interrupt _ _)
    · exact s.calm_packetInto u part _ _ k b hu
  · exact s.calm_hpdrop part

theorem State.calm_sendPacket (s : State) (part : Nat) (k : Packet) (sib : Dword) (team : Option Nat) :
    s.Calm (s.sendPacket part k sib team) := by
  unfold State.sendPacket
  extract_lets u first r v
  have h0 : s.Calm u := s.calm_keepRecord k
  have hv : u.Calm v := by
    simp only [v]
    split
    · exact (u.calm_keepRecord _).trans (State.calm_toErrorQueue _ part _)
    · exact .refl u
  have hf : ∀ x b, first = some (x, b) → u.Calm x := by
    intro x b hx
    simp only [first] at hx
    split at hx
    · split at hx
      · cases hx
      · exact u.calm_packetInto _ _ _ _ _ _ hx
    · cases hx
  clear_value first
  refine h0.trans ?_
  split
  · exact hf _ _ rfl
  · exact hv.trans (v.calm_toErrorQueue part k)

theorem State.calm_errorRecord (s : State) (part : Nat) (code : Byte) (detail : Nat) (party : Word)
    (qref pc : Dword) (obs : Word) (core lane : Nat) :
    s.Calm (s.errorRecord part code detail party qref pc obs core lane) := s.calm_sendPacket _ _ _ _

/-! ## Parties that go -/

theorem foldl_commit_s (l : List Word) (f : QSt → Word → QSt) (hf : ∀ x i, (f x i).s = x.s) (x : QSt) :
    (l.foldl f x).s = x.s := by
  induction l generalizing x with
  | nil => rfl
  | cons i r ih => rw [List.foldl_cons, ih, hf]

theorem QSt.calm_leave (x : QSt) (mine : Holder → Bool) (owner : Option Word) :
    x.s.Calm (x.leave mine owner).s := by
  unfold QSt.leave
  simp only
  refine State.Calm.trans ?_ (QSt.calm_pump _)
  have h1 : ∀ (l m : List Word) (y : QSt),
      (m.foldl (fun x i => x.finish i) (l.foldl (fun x i =>
        ({ x with h := { x.h with void := ninsert i.toNat x.h.void } } : QSt).commit i) y)).s = y.s := by
    intro l m y
    rw [foldl_commit_s m (fun x i => x.finish i) fun x i => rfl]
    exact foldl_commit_s l _ (by intros; rfl) y
  split
  · split
    · rw [show ∀ y : QSt, y.close.s = y.s from fun _ => rfl, h1]
      exact .refl _
    · rw [h1]
      exact .refl _
  · rw [h1]
    exact .refl _

theorem State.calm_leaveQueues (s : State) (mine : Holder → Bool) (owner : Option Word) :
    s.Calm (s.leaveQueues mine owner) := by
  unfold State.leaveQueues
  refine .foldl _ (fun s k => ?_) _ s
  split
  · exact (s.calm_qOpen _).trans ((QSt.calm_leave (s.qOpen (placeOfKey k)) mine owner).trans (QSt.calm_done _))
  · exact .refl s

/-! ## Accesses of a lane -/

theorem State.calm_load (s : State) (core : Nat) (p : Place) (n : Nat) (cache : Cache) (pc : Addr)
    (unit : Nat) : s.Calm (s.load core p n cache pc unit).2 := by
  unfold State.load
  split
  · exact s.calm_coreRead core _ n cache pc
  · rename_i team off
    split
    · rename_i t _
      have h := s.calm_padSee t off (some { cls := 4, unit })
      generalize s.padSee t off (some { cls := 4, unit }) = r at h ⊢
      exact h
    · exact .refl s
  · exact .refl s

theorem State.calm_store (s : State) (core : Nat) (p : Place) (n v : Nat) (q : Bool) (cache : Cache)
    (pc : Addr) : s.Calm (s.store core p n v q cache pc) := by
  unfold State.store
  split
  · exact s.calm_coreWrite core _ n v q cache pc
  · split
    · exact s.calm_padWrite _ _ _ _ _ _
    · exact .refl s
  · exact .refl s

theorem State.calm_storeGranule (s : State) (core : Nat) (w : GranuleWrite) (cache : Cache) (pc : Addr)
    (unit : Nat) : s.Calm (s.storeGranule core w cache pc unit) := by
  unfold State.storeGranule
  split
  · exact s.calm_writeGranule core _ _ _ _ _ cache pc
  · split
    · exact s.calm_padWriteGranule _ _ _ _ _ _ _
    · exact .refl s
  · exact .refl s

theorem State.calm_recordStore (s : State) (part core : Nat) (x : Scope) (cache : Cache) (p : Place) :
    s.Calm (s.recordStore part core x cache p) := by
  unfold State.recordStore
  split
  · split
    · split
      · exact State.calm_modCore _ _ _ (by intro; rfl) (by intro; rfl)
      · exact .refl s
    · exact s.calm_recordRelease _ _ _ _
  · split
    · split
      · exact State.calm_modCore _ _ _ (by intro; rfl) (by intro; rfl)
      · exact .refl s
    · exact s.calm_recordRelease _ _ _ _
  · exact s.calm_recordRelease _ _ _ _

theorem State.calm_loadAll (core n : Nat) (cache : Cache) (pc : Addr) (unit : Nat) (l : List (Nat × Place))
    (s : State) : s.Calm (s.loadAll core n cache pc unit l).2 := by
  induction l generalizing s with
  | nil => exact .refl s
  | cons c r ih =>
    obtain ⟨l, p⟩ := c
    exact (s.calm_load core p n cache pc unit).trans (ih _)

theorem State.calm_loadGranule (s : State) (core : Nat) (p : Place) (cache : Cache) (pc : Addr) (unit : Nat) :
    s.Calm (s.loadGranule core p cache pc unit).2 := by
  unfold State.loadGranule
  split
  · exact s.calm_readGranule core _ cache pc
  · rename_i team off
    split
    · rename_i t _
      have h := s.calm_padSee t off (some { cls := 4, unit })
      generalize s.padSee t off (some { cls := 4, unit }) = r at h ⊢
      exact h
    · exact .refl s
  · exact .refl s

theorem State.calm_cleanRange (s : State) (core pa n : Nat) (drop : Bool) :
    s.Calm (s.cleanRange core pa n drop) := by
  have h : s.Calm (((s.core core).blocksIn pa n).foldl (fun s b => s.drainUpTo core b) s) :=
    .foldl _ (fun s b => s.calm_drainUpTo core b) _ s
  unfold State.cleanRange
  simp only
  split
  · exact h.trans (State.calm_modCore _ _ _ (by intro; rfl) (by intro; rfl))
  · exact h

end Sys2Proof.Machine
end

