-- ==== Sys2Proof/Laws/Codec.lean ====
section
/-! SUPPORT. The codec: fields split and packed, field codes, and the record of each format, both ways. -/

namespace Sys2Proof

/-! ## Splitting and packing -/

/-- Each value fits the field at its place. -/
def fits : List Nat → List Nat → Prop
  | [], [] => True
  | w :: ws, v :: vs => v < 2 ^ w ∧ fits ws vs
  | _, _ => False

theorem split_pack {ws vs : List Nat} (h : fits ws vs) : split ws (pack ws vs) = vs := by
  induction ws generalizing vs with
  | nil => cases vs <;> simp_all [fits, split]
  | cons w ws ih =>
    cases vs with
    | nil => simp [fits] at h
    | cons v vs =>
      obtain ⟨hv, hvs⟩ := h
      have hp : 0 < 2 ^ w := by positivity
      simp [split, pack, Nat.add_mul_mod_self_left, Nat.mod_eq_of_lt hv, Nat.add_mul_div_left _ _ hp,
        Nat.div_eq_of_lt hv, ih hvs]

theorem pack_lt {ws vs : List Nat} (h : fits ws vs) : pack ws vs < 2 ^ ws.sum := by
  induction ws generalizing vs with
  | nil => cases vs <;> simp_all [fits, pack]
  | cons w ws ih =>
    cases vs with
    | nil => simp [fits] at h
    | cons v vs =>
      obtain ⟨hv, hvs⟩ := h
      have := ih hvs
      simp only [pack, List.sum_cons, Nat.pow_add]
      calc v + 2 ^ w * pack ws vs < 2 ^ w * (pack ws vs + 1) := by rw [Nat.mul_add]; omega
        _ ≤ 2 ^ w * 2 ^ ws.sum := Nat.mul_le_mul_left _ this

theorem fits_split (ws : List Nat) (n : Nat) : fits ws (split ws n) := by
  induction ws generalizing n with
  | nil => simp [fits, split]
  | cons w ws ih => exact ⟨Nat.mod_lt _ (by positivity), ih _⟩

theorem pack_split (ws : List Nat) (n : Nat) (h : n < 2 ^ ws.sum) : pack ws (split ws n) = n := by
  induction ws generalizing n with
  | nil => simp at h; simp [pack, h]
  | cons w ws ih =>
    have : n / 2 ^ w < 2 ^ ws.sum := by
      apply Nat.div_lt_of_lt_mul; rwa [← Nat.pow_add, ← List.sum_cons]
    simp [pack, split, ih _ this, Nat.mod_add_div]

theorem opcodeOf_word {op body : Nat} (ho : op < 2 ^ 10) (hb : body < 2 ^ 54) : opcodeOf (word op body) = op := by
  have : op * 2 ^ 54 + body < 2 ^ 64 := by omega
  simp only [opcodeOf, word, BitVec.toNat_ofNat, Nat.mod_eq_of_lt this]
  omega

theorem body_word {op body : Nat} (ho : op < 2 ^ 10) (hb : body < 2 ^ 54) : (word op body).toNat % 2 ^ 54 = body := by
  have : op * 2 ^ 54 + body < 2 ^ 64 := by omega
  simp only [word, BitVec.toNat_ofNat, Nat.mod_eq_of_lt this]
  omega

theorem word_parts (w : Dword) : word (opcodeOf w) (w.toNat % 2 ^ 54) = w := by
  apply BitVec.eq_of_toNat_eq
  have := w.isLt
  simp only [word, opcodeOf, BitVec.toNat_ofNat]
  omega

/-! ## Field codes -/

theorem Opnd.code_lt {o : Opnd} (h : o.wf = true) : o.code < 1024 := by
  cases o <;> simp [Opnd.wf, Opnd.code] at * <;> omega

theorem Opnd.ofCode_v {i : Nat} (h : i < 608) : Opnd.ofCode i = .v i := if_pos h

theorem Opnd.ofCode_n {i : Nat} (h : i < 32) : Opnd.ofCode (608 + i) = .n i := by
  rw [Opnd.ofCode, if_neg (by omega), if_pos (by omega), Nat.add_sub_cancel_left]

theorem Opnd.ofCode_u {i : Nat} (h : i < 96) : Opnd.ofCode (640 + i) = .u i := by
  rw [Opnd.ofCode, if_neg (by omega), if_neg (by omega), if_pos (by omega), Nat.add_sub_cancel_left]

theorem Opnd.ofCode_b {i : Nat} (h : i < 4) : Opnd.ofCode (736 + i) = .b i := by
  rw [Opnd.ofCode, if_neg (by omega), if_neg (by omega), if_neg (by omega), if_pos (by omega),
    Nat.add_sub_cancel_left]

theorem Opnd.ofCode_res {c : Nat} (h : (745 ≤ c ∧ c < 752) ∨ (754 ≤ c ∧ c < 1024)) : Opnd.ofCode c = .res c := by
  rw [Opnd.ofCode]
  iterate 11 rw [if_neg (by omega)]

@[simp] theorem Opnd.ofCode_code {o : Opnd} (h : o.wf = true) : Opnd.ofCode o.code = o := by
  cases o with
  | v i => exact ofCode_v (of_decide_eq_true h)
  | n i => exact ofCode_n (of_decide_eq_true h)
  | u i => exact ofCode_u (of_decide_eq_true h)
  | b i => exact ofCode_b (of_decide_eq_true h)
  | res c =>
    simp only [Opnd.wf, Bool.or_eq_true, Bool.and_eq_true, decide_eq_true_eq] at h
    exact ofCode_res h
  | _ => rfl

theorem Opnd.wf_ofCode {c : Nat} (h : c < 1024) : (Opnd.ofCode c).wf = true := by
  unfold Opnd.ofCode
  split_ifs <;> simp only [Opnd.wf, Bool.or_eq_true, Bool.and_eq_true, decide_eq_true_eq] <;> omega

@[simp] theorem Opnd.code_ofCode (c : Nat) : (Opnd.ofCode c).code = c := by
  unfold Opnd.ofCode
  split_ifs <;> simp only [Opnd.code] <;> omega

@[simp] theorem PDst.ofCode_code {o : PDst} (h : o.wf = true) : PDst.ofCode o.code = o := by
  cases o with
  | p i => have := i.isLt; simp [PDst.ofCode, PDst.code]; omega
  | bad c =>
    simp only [PDst.wf, Bool.and_eq_true, decide_eq_true_eq] at h
    exact if_neg (show ¬ c < 16 by omega)

theorem PDst.code_lt {o : PDst} (h : o.wf = true) : o.code < 1024 := by
  cases o with
  | p i => have := i.isLt; simp [PDst.code]; omega
  | bad c => simp only [PDst.wf, Bool.and_eq_true, decide_eq_true_eq] at h; simp only [PDst.code]; omega

theorem PDst.wf_ofCode {c : Nat} (h : c < 1024) : (PDst.ofCode c).wf = true := by
  unfold PDst.ofCode
  split_ifs <;> simp only [PDst.wf, Bool.and_eq_true, decide_eq_true_eq]
  omega

@[simp] theorem PDst.code_ofCode (c : Nat) : (PDst.ofCode c).code = c := by
  unfold PDst.ofCode; split
  · simp [PDst.code]; omega
  · rfl

@[simp] theorem Ty.ofCode_code (t : Ty) : Ty.ofCode t.code = t := by cases t <;> rfl
theorem Ty.code_lt (t : Ty) : t.code < 16 := by cases t <;> decide
theorem Ty.code_ofCode {c : Nat} (h : c < 16) : (Ty.ofCode c).code = c := by interval_cases c <;> rfl

@[simp] theorem Rnd.ofCode_code (t : Rnd) : Rnd.ofCode t.code = t := by cases t <;> rfl
theorem Rnd.code_lt (t : Rnd) : t.code < 4 := by cases t <;> decide
theorem Rnd.code_ofCode {c : Nat} (h : c < 4) : (Rnd.ofCode c).code = c := by interval_cases c <;> rfl

@[simp] theorem Scope.ofCode_code (t : Scope) : Scope.ofCode t.code = some t := by cases t <;> rfl
theorem Scope.code_lt (t : Scope) : t.code < 8 := by cases t <;> decide
theorem Scope.code_ofCode {c : Nat} {s : Scope} (h : Scope.ofCode c = some s) : s.code = c := by
  unfold Scope.ofCode at h; split at h <;> simp_all <;> subst h <;> rfl

@[simp] theorem Order.ofCode_code (t : Order) : Order.ofCode t.code = t := by cases t <;> rfl
theorem Order.code_lt (t : Order) : t.code < 4 := by cases t <;> decide
theorem Order.code_ofCode {c : Nat} (h : c < 4) : (Order.ofCode c).code = c := by interval_cases c <;> rfl

@[simp] theorem Cache.ofCode_code (t : Cache) : Cache.ofCode t.code = t := by cases t <;> rfl
theorem Cache.code_lt (t : Cache) : t.code < 4 := by cases t <;> decide
theorem Cache.code_ofCode {c : Nat} (h : c < 4) : (Cache.ofCode c).code = c := by interval_cases c <;> rfl

@[simp] theorem CmpCode.ofCode_code (t : CmpCode) : CmpCode.ofCode t.code = some t := by cases t <;> rfl
theorem CmpCode.code_lt (t : CmpCode) : t.code < 16 := by cases t <;> decide
theorem CmpCode.code_ofCode {c : Nat} {s : CmpCode} (h : CmpCode.ofCode c = some s) : s.code = c := by
  unfold CmpCode.ofCode at h; split at h <;> simp_all <;> subst h <;> rfl

@[simp] theorem AtomOp.ofCode_code (t : AtomOp) : AtomOp.ofCode t.code = some t := by cases t <;> rfl
theorem AtomOp.code_lt (t : AtomOp) : t.code < 16 := by cases t <;> decide
theorem AtomOp.code_ofCode {c : Nat} {s : AtomOp} (h : AtomOp.ofCode c = some s) : s.code = c := by
  unfold AtomOp.ofCode at h; split at h <;> simp_all <;> subst h <;> rfl

@[simp] theorem EngClass.ofCode_code (t : EngClass) : EngClass.ofCode t.code = some t := by cases t <;> rfl
theorem EngClass.code_lt (t : EngClass) : t.code < 8 := by cases t <;> decide
theorem EngClass.code_ofCode {c : Nat} {s : EngClass} (h : EngClass.ofCode c = some s) : s.code = c := by
  unfold EngClass.ofCode at h; split at h <;> simp_all <;> subst h <;> rfl

@[simp] theorem MMode.ofCode_code (t : MMode) : MMode.ofCode t.code = t := by cases t <;> rfl
theorem MMode.code_lt (t : MMode) : t.code < 4 := by cases t <;> decide
theorem MMode.code_ofCode {c : Nat} (h : c < 4) : (MMode.ofCode c).code = c := by interval_cases c <;> rfl

theorem ErrKind.code_lt (t : ErrKind) : t.code < 2 := by cases t <;> decide

@[simp] theorem CopyDir.ofCode_code (t : CopyDir) : CopyDir.ofCode t.code = t := by cases t <;> rfl
theorem CopyDir.code_lt (t : CopyDir) : t.code < 2 := by cases t <;> decide
theorem CopyDir.code_ofCode {c : Nat} (h : c < 2) : (CopyDir.ofCode c).code = c := by interval_cases c <;> rfl

@[simp] theorem CopySize.ofCode_code (t : CopySize) : CopySize.ofCode t.code = some t := by cases t <;> rfl
theorem CopySize.code_lt (t : CopySize) : t.code < 4 := by cases t <;> decide
theorem CopySize.code_ofCode {c : Nat} {s : CopySize} (h : CopySize.ofCode c = some s) : s.code = c := by
  unfold CopySize.ofCode at h; split at h <;> simp_all <;> subst h <;> rfl

@[simp] theorem toNat_beq_one (b : Bool) : (b.toNat == 1) = b := by cases b <;> rfl
theorem toNat_beq {n : Nat} (h : n < 2) : (n == 1).toNat = n := by interval_cases n <;> rfl

theorem wBit_lt (d : Nat) : wBit d < 2 := by unfold wBit; split <;> decide

end Sys2Proof
end

