-- ==== Sys2Proof/Laws/Formats.lean ====
section
/-! SUPPORT. The records of the formats fit their fields, and are read back from them. -/

namespace Sys2Proof

theorem fits_VArgs (a : VArgs) (h : a.wf = true) : fits vFmt (fieldsVArgs a) := by
  simp only [VArgs.wf, Bool.and_eq_true] at h
  exact ⟨Opnd.code_lt (by simp_all), Opnd.code_lt (by simp_all), Opnd.code_lt (by simp_all),
    Opnd.code_lt (by simp_all), BitVec.isLt _, Bool.toNat_lt _, Bool.toNat_lt _, Bool.toNat_lt _, Rnd.code_lt _,
    wBit_lt _, Ty.code_lt _, trivial⟩

theorem of_VArgs (a : VArgs) (h : a.wf = true) : ofVArgs (fieldsVArgs a) = some a := by
  simp only [VArgs.wf, Bool.and_eq_true] at h
  simp [ofVArgs, fieldsVArgs, *]

theorem fits_VIArgs (a : VIArgs) (h : a.wf = true) : fits viFmt (fieldsVIArgs a) := by
  simp only [VIArgs.wf, Bool.and_eq_true] at h
  exact ⟨BitVec.isLt _, Opnd.code_lt (by simp_all), Opnd.code_lt (by simp_all), Opnd.code_lt (by simp_all),
    Bool.toNat_lt _, Rnd.code_lt _, wBit_lt _, Ty.code_lt _, trivial⟩

theorem of_VIArgs (a : VIArgs) (h : a.wf = true) : ofVIArgs (fieldsVIArgs a) = some a := by
  simp only [VIArgs.wf, Bool.and_eq_true] at h
  simp [ofVIArgs, fieldsVIArgs, *]

theorem fits_VFArgs (a : VFArgs) (h : a.wf = true) : fits viFmt (fieldsVFArgs a) := by
  simp only [VFArgs.wf, Bool.and_eq_true] at h
  exact ⟨BitVec.isLt _, lt_of_lt_of_le (BitVec.isLt _) (by decide), Opnd.code_lt (by simp_all),
    Opnd.code_lt (by simp_all), Bool.toNat_lt _, Rnd.code_lt _, wBit_lt _, Ty.code_lt _, trivial⟩

theorem of_VFArgs (a : VFArgs) (h : a.wf = true) : ofVFArgs (fieldsVFArgs a) = some a := by
  simp only [VFArgs.wf, Bool.and_eq_true] at h
  have := a.fn.isLt
  simp [ofVFArgs, fieldsVFArgs, *]

theorem fits_CmpArgs (a : CmpArgs) (h : a.wf = true) : fits vFmt (fieldsCmpArgs a) := by
  simp only [CmpArgs.wf, Bool.and_eq_true] at h
  exact ⟨by decide, Opnd.code_lt (by simp_all), Opnd.code_lt (by simp_all), PDst.code_lt (by simp_all),
    CmpCode.code_lt _, Bool.toNat_lt _, Bool.toNat_lt _, by decide, by decide, wBit_lt _, Ty.code_lt _, trivial⟩

theorem of_CmpArgs (a : CmpArgs) (h : a.wf = true) : ofCmpArgs (fieldsCmpArgs a) = some a := by
  simp only [CmpArgs.wf, Bool.and_eq_true] at h
  simp [ofCmpArgs, fieldsCmpArgs, *]

theorem fits_CmpIArgs (a : CmpIArgs) (h : a.wf = true) : fits viFmt (fieldsCmpIArgs a) := by
  simp only [CmpIArgs.wf, Bool.and_eq_true] at h
  exact ⟨BitVec.isLt _, lt_of_lt_of_le (CmpCode.code_lt _) (by decide), Opnd.code_lt (by simp_all),
    PDst.code_lt (by simp_all), by decide, by decide, wBit_lt _, Ty.code_lt _, trivial⟩

theorem of_CmpIArgs (a : CmpIArgs) (h : a.wf = true) : ofCmpIArgs (fieldsCmpIArgs a) = some a := by
  simp only [CmpIArgs.wf, Bool.and_eq_true] at h
  simp [ofCmpIArgs, fieldsCmpIArgs, *]

theorem fits_DImmArgs (a : DImmArgs) (h : a.dst.wf = true) : fits viFmt (fieldsDImmArgs a) := by
  exact ⟨BitVec.isLt _, by decide, by decide, Opnd.code_lt (by simp_all), by decide, by decide, wBit_lt _,
    Ty.code_lt _, trivial⟩

theorem of_DImmArgs (a : DImmArgs) (h : a.dst.wf = true) : ofDImmArgs (fieldsDImmArgs a) = some a := by
  simp [ofDImmArgs, fieldsDImmArgs, *]

theorem fits_SImmArgs (a : SImmArgs) (h : a.src.wf = true) : fits viFmt (fieldsSImmArgs a) := by
  exact ⟨BitVec.isLt _, by decide, Opnd.code_lt (by simp_all), by decide, by decide, by decide, by decide,
    Ty.code_lt _, trivial⟩

theorem of_SImmArgs (a : SImmArgs) (h : a.src.wf = true) : ofSImmArgs (fieldsSImmArgs a) = some a := by
  simp [ofSImmArgs, fieldsSImmArgs, *]

theorem fits_Tstamp (a : (Ty × Opnd)) (h : a.2.wf = true) : fits vFmt (fieldsTstamp a) := by
  exact ⟨by decide, by decide, by decide, Opnd.code_lt (by simp_all), by decide, by decide, by decide,
    by decide, by decide, by decide, Ty.code_lt _, trivial⟩

theorem of_Tstamp (a : (Ty × Opnd)) (h : a.2.wf = true) (h2 : a.2 ≠ .b 0) : ofTstamp (fieldsTstamp a) = some a := by
  obtain ⟨t, o⟩ := a
  have : o.code ≠ 736 := fun e => h2 (by rw [← Opnd.ofCode_code h, e]; rfl)
  simp_all [ofTstamp, fieldsTstamp]

theorem fits_GArgs (a : GArgs) (h : a.reg.wf = true) : fits gFmt (fieldsGArgs a) := by
  exact ⟨by decide, Opnd.code_lt (by simp_all), BitVec.isLt _, Bool.toNat_lt _, Bool.toNat_lt _, BitVec.isLt _,
    BitVec.isLt _, BitVec.isLt _, trivial⟩

theorem of_GArgs (a : GArgs) (h : a.reg.wf = true) : ofGArgs (fieldsGArgs a) = some a := by
  simp [ofGArgs, fieldsGArgs, *]

theorem fits_MArgs (a : MArgs) (h : a.wf = true) : fits mFmt (fieldsMArgs a) := by
  simp only [MArgs.wf, Bool.and_eq_true] at h
  exact ⟨BitVec.isLt _, BitVec.isLt _, Opnd.code_lt (by simp_all), Opnd.code_lt (by simp_all), BitVec.isLt _,
    Order.code_lt _, Cache.code_lt _, Scope.code_lt _, Ty.code_lt _, trivial⟩

theorem of_MArgs (a : MArgs) (h : a.wf = true) : ofMArgs (fieldsMArgs a) = some a := by
  simp only [MArgs.wf, Bool.and_eq_true] at h
  simp [ofMArgs, fieldsMArgs, *]

theorem fits_LdcArgs (a : LdcArgs) (h : a.wf = true) : fits mFmt (fieldsLdcArgs a) := by
  rcases a with ⟨_, _, _, _, _ | _, _, _, _⟩ <;> simp only [LdcArgs.wf, Bool.and_eq_true, true_and] at h
  · exact ⟨BitVec.isLt _, BitVec.isLt _, Opnd.code_lt h.2, Opnd.code_lt h.1, BitVec.isLt _, Order.code_lt _,
      Cache.code_lt _, Scope.code_lt _, by simp, trivial⟩
  · exact ⟨BitVec.isLt _, BitVec.isLt _, Opnd.code_lt h, lt_of_lt_of_le (BitVec.isLt _) (by decide), BitVec.isLt _,
      Order.code_lt _, Cache.code_lt _, Scope.code_lt _, by simp, trivial⟩

theorem of_LdcArgs (a : LdcArgs) (h : a.wf = true) : ofLdcArgs (fieldsLdcArgs a) = some a := by
  rcases a with ⟨_, _, _, _, _ | i, _, _, _⟩
  · simp only [LdcArgs.wf, Bool.and_eq_true] at h
    simp [ofLdcArgs, fieldsLdcArgs, *]
  · simp only [LdcArgs.wf, Bool.and_eq_true] at h
    have := i.isLt
    simp [ofLdcArgs, fieldsLdcArgs, *]

theorem fits_ShpldArgs (a : ShpldArgs) (h : a.index.wf = true) : fits mFmt (fieldsShpldArgs a) := by
  exact ⟨BitVec.isLt _, BitVec.isLt _, Opnd.code_lt (by simp_all), lt_of_lt_of_le (BitVec.isLt _) (by decide),
    BitVec.isLt _, by decide, by decide, by decide, by decide, trivial⟩

theorem of_ShpldArgs (a : ShpldArgs) (h : a.index.wf = true) : ofShpldArgs (fieldsShpldArgs a) = some a := by
  have := a.slot.isLt
  simp [ofShpldArgs, fieldsShpldArgs, *]

theorem fits_ErrinjArgs (a : ErrinjArgs) (h : a.index.wf = true) : fits mFmt (fieldsErrinjArgs a) := by
  exact ⟨BitVec.isLt _, BitVec.isLt _, Opnd.code_lt (by simp_all), by decide, BitVec.isLt _, by decide,
    by decide, by decide, lt_of_lt_of_le (ErrKind.code_lt _) (by decide), trivial⟩

theorem of_ErrinjArgs (a : ErrinjArgs) (h : a.index.wf = true) : ofErrinjArgs (fieldsErrinjArgs a) = some a := by
  rcases a with ⟨_ | _, _, _, _, _⟩ <;> simp_all [ofErrinjArgs, fieldsErrinjArgs, ErrKind.code]

theorem fits_AtomArgs (a : AtomArgs) (h : a.wf = true) : fits aFmt (fieldsAtomArgs a) := by
  simp only [AtomArgs.wf, Bool.and_eq_true] at h
  exact ⟨BitVec.isLt _, Order.code_lt _, Opnd.code_lt (by simp_all), Opnd.code_lt (by simp_all),
    Opnd.code_lt (by simp_all), BitVec.isLt _, AtomOp.code_lt _, Scope.code_lt _, Ty.code_lt _, trivial⟩

theorem of_AtomArgs (a : AtomArgs) (h : a.wf = true) : ofAtomArgs (fieldsAtomArgs a) = some a := by
  simp only [AtomArgs.wf, Bool.and_eq_true] at h
  simp [ofAtomArgs, fieldsAtomArgs, *]

theorem fits_RedArgs (a : RedArgs) (h : a.wf = true) : fits aFmt (fieldsRedArgs a) := by
  simp only [RedArgs.wf, Bool.and_eq_true] at h
  exact ⟨BitVec.isLt _, Order.code_lt _, Opnd.code_lt (by simp_all), Opnd.code_lt (by simp_all), by decide,
    BitVec.isLt _, AtomOp.code_lt _, Scope.code_lt _, Ty.code_lt _, trivial⟩

theorem of_RedArgs (a : RedArgs) (h : a.wf = true) : ofRedArgs (fieldsRedArgs a) = some a := by
  simp only [RedArgs.wf, Bool.and_eq_true] at h
  simp [ofRedArgs, fieldsRedArgs, *]

theorem fits_CasArgs (a : CasArgs) (h : a.wf = true) : fits aFmt (fieldsCasArgs a) := by
  simp only [CasArgs.wf, Bool.and_eq_true] at h
  exact ⟨BitVec.isLt _, Order.code_lt _, Opnd.code_lt (by simp_all), Opnd.code_lt (by simp_all),
    Opnd.code_lt (by simp_all), BitVec.isLt _, by decide, Scope.code_lt _, Ty.code_lt _, trivial⟩

theorem of_CasArgs (a : CasArgs) (h : a.wf = true) : ofCasArgs (fieldsCasArgs a) = some a := by
  simp only [CasArgs.wf, Bool.and_eq_true] at h
  simp [ofCasArgs, fieldsCasArgs, *]

theorem fits_QArgs (a : QArgs) (h : a.wf = true) : fits qFmt (fieldsQArgs a) := by
  simp only [QArgs.wf, Bool.and_eq_true] at h
  exact ⟨by decide, Opnd.code_lt (by simp_all), BitVec.isLt _, Opnd.code_lt (by simp_all), BitVec.isLt _,
    Bool.toNat_lt _, Scope.code_lt _, BitVec.isLt _, trivial⟩

theorem of_QArgs (a : QArgs) (h : a.wf = true) : ofQArgs (fieldsQArgs a) = some a := by
  simp only [QArgs.wf, Bool.and_eq_true] at h
  simp [ofQArgs, fieldsQArgs, *]

theorem fits_CbndArgs (a : CbndArgs) (h : (a.base.wf && a.len.wf) = true) : fits kFmt (fieldsCbndArgs a) := by
  simp only [Bool.and_eq_true] at h
  exact ⟨by decide, Opnd.code_lt (by simp_all), Opnd.code_lt (by simp_all), by decide, BitVec.isLt _,
    BitVec.isLt _, by decide, by decide, by decide, trivial⟩

theorem of_CbndArgs (a : CbndArgs) (h : (a.base.wf && a.len.wf) = true) : ofCbndArgs (fieldsCbndArgs a) = some a := by
  simp only [Bool.and_eq_true] at h
  simp [ofCbndArgs, fieldsCbndArgs, *]

theorem fits_CopArgs (a : CopArgs) (h : a.s1.wf = true) : fits kFmt (fieldsCopArgs a) := by
  exact ⟨by decide, by decide, Opnd.code_lt (by simp_all), by decide, BitVec.isLt _, BitVec.isLt _, by decide,
    by decide, by decide, trivial⟩

theorem of_CopArgs (a : CopArgs) (h : a.s1.wf = true) : ofCopArgs (fieldsCopArgs a) = some a := by
  simp [ofCopArgs, fieldsCopArgs, *]

theorem fits_CgetArgs (a : CgetArgs) (h : a.dst.wf = true) : fits kFmt (fieldsCgetArgs a) := by
  exact ⟨by decide, by decide, by decide, Opnd.code_lt (by simp_all), BitVec.isLt _, by decide, by decide,
    by decide, BitVec.isLt _, trivial⟩

theorem of_CgetArgs (a : CgetArgs) (h : a.dst.wf = true) : ofCgetArgs (fieldsCgetArgs a) = some a := by
  simp [ofCgetArgs, fieldsCgetArgs, *]

theorem fits_CtstArgs (a : CtstArgs) (h : (a.dst.wf && a.x.wf) = true) : fits kFmt (fieldsCtstArgs a) := by
  simp only [Bool.and_eq_true] at h
  exact ⟨by decide, by decide, Opnd.code_lt (by simp_all), Opnd.code_lt (by simp_all), BitVec.isLt _, by decide,
    by decide, by decide, BitVec.isLt _, trivial⟩

theorem of_CtstArgs (a : CtstArgs) (h : (a.dst.wf && a.x.wf) = true) : ofCtstArgs (fieldsCtstArgs a) = some a := by
  simp only [Bool.and_eq_true] at h
  simp [ofCtstArgs, fieldsCtstArgs, *]

theorem fits_CmovForm (a : CmovForm) (h : a.wf = true) : fits kFmt (fieldsCmovForm a) := by
  cases a <;> simp only [CmovForm.wf] at h
  · exact ⟨by decide, by decide, by decide, by decide, BitVec.isLt _, BitVec.isLt _, by decide, by decide, by decide,
      trivial⟩
  · exact ⟨by decide, by decide, Opnd.code_lt h, by decide, by decide, BitVec.isLt _, by decide, by decide, by decide,
      trivial⟩
  · exact ⟨by decide, by decide, by decide, Opnd.code_lt h, BitVec.isLt _, by decide, by decide, by decide, by decide,
      trivial⟩

theorem of_CmovForm (a : CmovForm) (h : a.wf = true) : ofCmovForm (fieldsCmovForm a) = some a := by
  cases a <;> simp_all [ofCmovForm, fieldsCmovForm, CmovForm.wf]

theorem fits_TArgs (a : TArgs) (h : a.wf = true) : fits tFmt (fieldsTArgs a) := by
  simp only [TArgs.wf, Bool.and_eq_true] at h
  exact ⟨by decide, BitVec.isLt _, Opnd.code_lt (by simp_all), Opnd.code_lt (by simp_all), BitVec.isLt _,
    by decide, Ty.code_lt _, trivial⟩

theorem of_TArgs (a : TArgs) (h : a.wf = true) : ofTArgs (fieldsTArgs a) = some a := by
  simp only [TArgs.wf, Bool.and_eq_true] at h
  simp [ofTArgs, fieldsTArgs, *]

theorem fits_BraArgs (a : BraArgs) : fits cbraFmt (fieldsBraArgs a) := by
  rcases a with ⟨_ | ⟨_, _⟩, _⟩
  · exact ⟨BitVec.isLt _, by decide, by decide, by decide, by decide, trivial⟩
  · exact ⟨BitVec.isLt _, by decide, by decide, Bool.toNat_lt _, BitVec.isLt _, trivial⟩

theorem of_BraArgs (a : BraArgs) : ofBraArgs (fieldsBraArgs a) = some a := by
  rcases a with ⟨_ | ⟨_, _⟩, _⟩ <;> simp_all [ofBraArgs, fieldsBraArgs]

theorem fits_Opnd (a : Opnd) (h : a.wf = true) : fits cregFmt (fieldsOpnd a) := by
  exact ⟨by decide, Opnd.code_lt (by simp_all), by decide, trivial⟩

theorem of_Opnd (a : Opnd) (h : a.wf = true) : ofOpnd (fieldsOpnd a) = some a := by
  simp [ofOpnd, fieldsOpnd, *]

theorem fits_CallArgs (a : CallArgs) : fits ccallFmt (fieldsCallArgs a) := by
  exact ⟨BitVec.isLt _, BitVec.isLt _, trivial⟩

theorem of_CallArgs (a : CallArgs) : ofCallArgs (fieldsCallArgs a) = some a := by
  simp [ofCallArgs, fieldsCallArgs, *]

theorem fits_Off (a : (BitVec 44)) : fits cstokeFmt (fieldsOff a) := by
  exact ⟨BitVec.isLt _, by decide, trivial⟩

theorem of_Off (a : (BitVec 44)) : ofOff (fieldsOff a) = some a := by
  simp [ofOff, fieldsOff, *]

theorem fits_FspawnArgs (a : FspawnArgs) (h : a.base.wf = true) : fits cspawnFmt (fieldsFspawnArgs a) := by
  exact ⟨BitVec.isLt _, Opnd.code_lt (by simp_all), BitVec.isLt _, trivial⟩

theorem of_FspawnArgs (a : FspawnArgs) (h : a.base.wf = true) : ofFspawnArgs (fieldsFspawnArgs a) = some a := by
  simp [ofFspawnArgs, fieldsFspawnArgs, *]

theorem fits_Cnt (a : (BitVec 16)) : fits jFmt (fieldsCnt a) := by
  exact ⟨BitVec.isLt _, by decide, trivial⟩

theorem of_Cnt (a : (BitVec 16)) : ofCnt (fieldsCnt a) = some a := by
  simp [ofCnt, fieldsCnt, *]

theorem fits_StrandArgs (a : StrandArgs) : fits hFmt (fieldsStrandArgs a) := by
  exact ⟨by decide, BitVec.isLt _, BitVec.isLt _, BitVec.isLt _, BitVec.isLt _, BitVec.isLt _, trivial⟩

theorem of_StrandArgs (a : StrandArgs) : ofStrandArgs (fieldsStrandArgs a) = some a := by
  simp [ofStrandArgs, fieldsStrandArgs, *]

theorem fits_PbArgs (a : PbArgs) : fits pFmt (fieldsPbArgs a) := by
  exact ⟨by decide, BitVec.isLt _, BitVec.isLt _, Bool.toNat_lt _, BitVec.isLt _, trivial⟩

theorem of_PbArgs (a : PbArgs) : ofPbArgs (fieldsPbArgs a) = some a := by
  simp [ofPbArgs, fieldsPbArgs, *]

theorem fits_Fence (a : Scope) : fits bFmt (fieldsFence a) := by
  exact ⟨by decide, by decide, by decide, Scope.code_lt _, by decide, trivial⟩

theorem of_Fence (a : Scope) : ofFence (fieldsFence a) = some a := by
  simp [ofFence, fieldsFence, *]

theorem fits_BarArgs (a : BarArgs) (h : a.count.wf = true) : fits bFmt (fieldsBarArgs a) := by
  exact ⟨by decide, Opnd.code_lt (by simp_all), by decide, by decide, BitVec.isLt _, trivial⟩

theorem of_BarArgs (a : BarArgs) (h : a.count.wf = true) : ofBarArgs (fieldsBarArgs a) = some a := by
  simp [ofBarArgs, fieldsBarArgs, *]

theorem fits_Barw (a : (BitVec 4)) : fits bFmt (fieldsBarw a) := by
  exact ⟨by decide, by decide, by decide, by decide, BitVec.isLt _, trivial⟩

theorem of_Barw (a : (BitVec 4)) : ofBarw (fieldsBarw a) = some a := by
  simp [ofBarw, fieldsBarw, *]

theorem fits_MmaArgs (a : MmaArgs) (h : a.wf = true) : fits xFmt (fieldsMmaArgs a) := by
  simp only [MmaArgs.wf, Bool.and_eq_true] at h
  exact ⟨by decide, Bool.toNat_lt _, Bool.toNat_lt _, Opnd.code_lt (by simp_all), Opnd.code_lt (by simp_all),
    BitVec.isLt _, BitVec.isLt _, Bool.toNat_lt _, MMode.code_lt _, BitVec.isLt _, trivial⟩

theorem of_MmaArgs (a : MmaArgs) (h : a.wf = true) : ofMmaArgs (fieldsMmaArgs a) = some a := by
  simp only [MmaArgs.wf, Bool.and_eq_true] at h
  simp [ofMmaArgs, fieldsMmaArgs, *]

theorem fits_CpArgs (a : CpArgs) (h : a.wf = true) : fits yFmt (fieldsCpArgs a) := by
  simp only [CpArgs.wf, Bool.and_eq_true] at h
  exact ⟨BitVec.isLt _, BitVec.isLt _, Opnd.code_lt (by simp_all), Opnd.code_lt (by simp_all), BitVec.isLt _,
    BitVec.isLt _, Scope.code_lt _, CopySize.code_lt _, CopyDir.code_lt _, trivial⟩

theorem of_CpArgs (a : CpArgs) (h : a.wf = true) : ofCpArgs (fieldsCpArgs a) = some a := by
  simp only [CpArgs.wf, Bool.and_eq_true] at h
  simp [ofCpArgs, fieldsCpArgs, *]

theorem fits_CptArgs (a : CptArgs) (h : a.coord.wf = true) : fits yFmt (fieldsCptArgs a) := by
  exact ⟨by decide, by decide, by decide, Opnd.code_lt (by simp_all), BitVec.isLt _, BitVec.isLt _,
    Scope.code_lt _, by decide, CopyDir.code_lt _, trivial⟩

theorem of_CptArgs (a : CptArgs) (h : a.coord.wf = true) : ofCptArgs (fieldsCptArgs a) = some a := by
  simp [ofCptArgs, fieldsCptArgs, *]

theorem fits_WaitArgs (a : WaitArgs) : fits eFmt (fieldsWaitArgs a) := by
  exact ⟨by decide, BitVec.isLt _, EngClass.code_lt _, trivial⟩

theorem of_WaitArgs (a : WaitArgs) : ofWaitArgs (fieldsWaitArgs a) = some a := by
  simp [ofWaitArgs, fieldsWaitArgs, *]

theorem fits_LoopArgs (a : LoopArgs) (h : a.count.wf = true) : fits lFmt (fieldsLoopArgs a) := by
  exact ⟨by decide, BitVec.isLt _, Opnd.code_lt (by simp_all), BitVec.isLt _, trivial⟩

theorem of_LoopArgs (a : LoopArgs) (h : a.count.wf = true) : ofLoopArgs (fieldsLoopArgs a) = some a := by
  simp [ofLoopArgs, fieldsLoopArgs, *]

end Sys2Proof
end

