-- ==== Sys2Proof/Tests/Slice0.lean ====
section
/-! SUPPORT. Tests: ill-formed terms that WellFormed refuses, words of the manual's examples, single steps with the
results that the manual gives, and for every statement with hypotheses a witness that meets them. -/

namespace Sys2Proof.Tests

open Sys2Proof.Machine

/-! ## Well-formedness: one ill-formed term for each check -/

/-- A V form with two sources. -/
def vArgs (ty : Ty) (dst s1 s2 s3 : Opnd) : VArgs :=
  { ty, rnd := .rne, sat := false, neg1 := false, neg2 := false, func := 0, dst, s1, s2, s3 }

/-- A VI form. -/
def viArgs (ty : Ty) (dst s1 s2 : Opnd) (imm : BitVec 16) : VIArgs :=
  { ty, rnd := .rne, sat := false, dst, s1, s2, imm }

/-- An M form. -/
def mArgs (ty : Ty) (cap : BitVec 4) (data index : Opnd) (imm : BitVec 16) : MArgs :=
  { ty, scope := .grp, cache := .dflt, order := .relaxed, cap, data, index, shift := 0, imm }

/-- A G form. -/
def gArgs (pd ps1 func : BitVec 4) (reg : Opnd) : GArgs :=
  { pd, ps1, ps2 := 0, ng1 := false, ng2 := false, func, reg }

/-- A Q form. -/
def qArgs (esize : BitVec 4) (data aux : Opnd) : QArgs :=
  { esize, scope := .clu, blk := false, cap := 0, data, status := 1, aux }

theorem wf_opnd : (Opnd.v 608).wf = false ∧ (Opnd.n 32).wf = false ∧ (Opnd.u 96).wf = false ∧ (Opnd.b 4).wf = false ∧
    (Opnd.res 0x2E8).wf = false ∧ (Opnd.res 0x2F0).wf = false ∧ (Opnd.res 0x400).wf = false := by decide
theorem wf_pdst : (PDst.bad 15).wf = false ∧ (PDst.bad 0x400).wf = false := by decide
theorem wf_v : (Instr.add (vArgs .s32 (.v 608) (.v 0) (.v 0) (.v 0))).wf = false ∧
    (Instr.add (vArgs .s32 (.v 0) (.n 32) (.v 0) (.v 0))).wf = false ∧
    (Instr.fadd (vArgs .f32 (.v 0) (.v 0) (.u 96) (.v 0))).wf = false ∧
    (Instr.kadd (vArgs .s32 (.u 0) (.u 0) (.u 0) (.b 4))).wf = false := by decide
theorem wf_vi : (Instr.addImm (viArgs .s32 (.v 608) (.v 0) (.v 0) 0)).wf = false ∧
    (Instr.addImm (viArgs .s32 (.v 0) (.v 608) (.v 0) 0)).wf = false ∧
    (Instr.madImm (viArgs .s32 (.v 0) (.v 0) (.v 608) 0)).wf = false := by decide
theorem wf_vf :
    (Instr.selImm { ty := .b32, rnd := .rne, sat := false, dst := .v 608, s1 := .v 0, fn := 0, imm := 0 }).wf = false ∧
    (Instr.kselImm { ty := .b32, rnd := .rne, sat := false, dst := .u 0, s1 := .u 96, fn := 0, imm := 0 }).wf =
      false := by decide
theorem wf_cmp :
    (Instr.cmp { ty := .s32, cc := .eq, neg1 := false, neg2 := false, pd := .bad 3, s1 := .v 0, s2 := .v 0 }).wf =
      false ∧
    (Instr.cmp { ty := .s32, cc := .eq, neg1 := false, neg2 := false, pd := .p 3, s1 := .v 608, s2 := .v 0 }).wf =
      false ∧
    (Instr.fcmp { ty := .f32, cc := .eq, neg1 := false, neg2 := false, pd := .p 3, s1 := .v 0, s2 := .n 32 }).wf =
      false ∧
    (Instr.cmpImm { ty := .s32, cc := .eq, pd := .bad 3, s1 := .v 0, imm := 0 }).wf = false ∧
    (Instr.kcmpImm { ty := .s32, cc := .eq, pd := .p 3, s1 := .u 96, imm := 0 }).wf = false := by decide
theorem wf_mem : (Instr.ld (mArgs .n32 0 (.v 608) .zero 0)).wf = false ∧
    (Instr.st (mArgs .n32 0 (.v 0) (.u 96) 0)).wf = false ∧
    (Instr.ldc { scope := .grp, cache := .dflt, order := .relaxed, cap := 0, data := .quad (.v 608), index := .zero,
                 shift := 0, imm := 0 }).wf = false ∧
    (Instr.stc { scope := .grp, cache := .dflt, order := .relaxed, cap := 0, data := .creg 0, index := .v 608,
                 shift := 0, imm := 0 }).wf = false ∧
    (Instr.shpld { slot := 0, cap := 0, index := .u 96, shift := 0, imm := 0 }).wf = false ∧
    (Instr.errinj { kind := .ue, cap := 0, index := .u 96, shift := 0, imm := 0 }).wf = false := by decide
theorem wf_atomic :
    (Instr.atom { ty := .n32, scope := .grp, op := .add, cap := 0, dst := .v 608, index := .zero, data := .v 0,
                  order := .relaxed, imm7 := 0 }).wf = false ∧
    (Instr.atom { ty := .n32, scope := .grp, op := .add, cap := 0, dst := .v 0, index := .n 32, data := .v 0,
                  order := .relaxed, imm7 := 0 }).wf = false ∧
    (Instr.red { ty := .n32, scope := .grp, op := .add, cap := 0, index := .zero, data := .v 608,
                 order := .relaxed, imm7 := 0 }).wf = false ∧
    (Instr.red { ty := .n32, scope := .grp, op := .add, cap := 0, index := .u 96, data := .v 0,
                 order := .relaxed, imm7 := 0 }).wf = false ∧
    (Instr.cas { ty := .n32, scope := .grp, cap := 0, dst := .v 608, index := .zero, data := .v 0,
                 order := .relaxed, imm7 := 0 }).wf = false ∧
    (Instr.cas { ty := .n32, scope := .grp, cap := 0, dst := .v 0, index := .zero, data := .u 96,
                 order := .relaxed, imm7 := 0 }).wf = false := by decide
theorem wf_rest : (Instr.brx (.v 608)).wf = false ∧ (Instr.ret (.u 96)).wf = false ∧
    (Instr.fspawn { status := 0, base := .v 608, off := 0 }).wf = false ∧
    (Instr.kli { ty := .s32, dst := .u 96, imm := 0 }).wf = false ∧
    (Instr.swr { ty := .n64, src := .v 608, imm := 1 }).wf = false ∧ (Instr.tstamp .n64 (.u 96)).wf = false ∧
    (Instr.pvote (gArgs 0 0 2 (.u 96))).wf = false ∧
    (Instr.accrd { ty := .f32, tile := 0, data := .v 608, row := .zero, colblk := 0 }).wf = false ∧
    (Instr.accwr { ty := .f32, tile := 0, data := .v 0, row := .u 96, colblk := 0 }).wf = false ∧
    (Instr.cbnd { cd := 0, cs := 0, base := .u 96, len := .zero }).wf = false ∧
    (Instr.cbnd { cd := 0, cs := 0, base := .zero, len := .u 96 }).wf = false ∧
    (Instr.cadr { cd := 0, cs := 0, s1 := .u 96 }).wf = false ∧
    (Instr.cget { sel := 0, dst := .v 608, cs := 0 }).wf = false ∧
    (Instr.ctst { sel := 0, dst := .v 0, cs := 0, x := .v 608 }).wf = false ∧
    (Instr.ctst { sel := 0, dst := .v 608, cs := 0, x := .v 0 }).wf = false ∧
    (Instr.cmov (.cq 0 (.v 608))).wf = false ∧ (Instr.cmov (.qc (.v 608) 0)).wf = false ∧
    (Instr.bar { id := 0, count := .u 96 }).wf = false ∧ (Instr.qenq (qArgs 2 (.v 608) .zero)).wf = false ∧
    (Instr.qdeq (qArgs 2 (.v 0) (.u 96))).wf = false ∧
    (Instr.cp { dir := .into, size := .b4, scope := .grp, scap := 0, dcap := 0, sidx := .v 608, didx := .zero,
                soff := 0, doff := 0 }).wf = false ∧
    (Instr.cp { dir := .into, size := .b4, scope := .grp, scap := 0, dcap := 0, sidx := .zero, didx := .u 96,
                soff := 0, doff := 0 }).wf = false ∧
    (Instr.cpt { dir := .into, scope := .grp, src := 0, dst := 0, coord := .u 96 }).wf = false ∧
    (Instr.loop { level := 0, count := .u 96, body := 1 }).wf = false ∧
    (Instr.mma { tile := 0, mode := .ovr, causal := false, aslot := 0, bslot := 0, gamma := .u 96, coord := .zero,
                 ta := false, tb := false }).wf = false ∧
    (Instr.mma { tile := 0, mode := .ovr, causal := false, aslot := 0, bslot := 0, gamma := .zero, coord := .u 96,
                 ta := false, tb := false }).wf = false := by decide


/-- The instruction that a word decodes to; none where it decodes to no instruction. -/
def read (w : Dword) : Option Instr :=
  match decode w with
  | .ok i => some i
  | .error _ => none

/-! ## Decoding: the words of the manual's examples (R236 to R259 and the reference chapters) -/

theorem test_decode_nop : read 0x0000_0000_0000_0000 = some .nop := by decide
theorem test_decode_bra_not : read 0x008A_0000_0000_0005 = some (.bra { cond := some (2, true), off := 5 }) := by
  decide
theorem test_decode_bra_back :
    read 0x0081_0FFF_FFFF_FFFE = some (.bra { cond := none, off := BitVec.ofInt 44 (-2) }) := by decide
theorem test_decode_strand : read 0x0180_802C_2050_0020 =
    some (.strand { vlo := 8, vhi := 11, klo := 4, khi := 5, pmask := 2 }) := by decide
theorem test_decode_pause : read 0x0380_0000_0000_0064 = some (.pause 100) := by decide
theorem test_decode_fspawn : read 0x024E_9400_0000_000C =
    some (.fspawn { status := 3, base := .u 20, off := 12 }) := by decide
theorem test_decode_trap : read 0x0300_0000_0000_0042 = some (.trap 0x42) := by decide
theorem test_decode_kadd_imm : read 0x9044_295A_5000_0040 =
    some (.kaddImm { ty := .s32, rnd := .rne, sat := false, dst := .u 21, s1 := .u 20, s2 := .v 0, imm := 0x40 }) := by
  decide
theorem test_decode_kli : read 0x1500_2940_0000_0004 = some (.kli { ty := .b32, dst := .u 20, imm := 4 }) := by
  decide
theorem test_decode_kld : read 0x1488_00D2_D788_0010 =
    some (.kld { ty := .n32, scope := .grp, cache := .dflt, order := .relaxed, cap := 1, data := .u 22,
                 index := .zero, shift := 0, imm := 16 }) := by decide
theorem test_decode_pand : read 0x200C_4900_0000_0000 =
    some (.pand { pd := 3, ps1 := 1, ps2 := 2, ng1 := false, ng2 := true, func := 0, reg := .v 0 }) := by decide
theorem test_decode_pvote : read 0x2140_402A_7800_0000 =
    some (.pvote { pd := 0, ps1 := 1, ps2 := 0, ng1 := false, ng2 := false, func := 2, reg := .u 30 }) := by decide
theorem test_decode_add : read 0x3044_0003_00AA_1000 =
    some (.add { ty := .s32, rnd := .rne, sat := false, neg1 := false, neg2 := false, func := 0,
                 dst := .v 12, s1 := .v 10, s2 := .u 4, s3 := .v 0 }) := by decide
theorem test_decode_fmul_imm : read 0xC08C_0140_5000_3F00 =
    some (.fmulImm { ty := .f32, rnd := .rne, sat := false, dst := .v 20, s1 := .v 20, s2 := .v 0, imm := 0x3F00 }) := by
  decide
/-- `cvt.f16.f32 b0, v3`, bit by bit: opcode 0x140, TYPE 4, W, FUNC 3, DST 0x2E0, S1 3. -/
theorem test_decode_cvt : read
    (0b0101000000#10 ++ 0b0100#4 ++ 0b1#1 ++ 0b00#2 ++ 0b0#1 ++ 0b00#2 ++ 0b0011#4 ++ 0b1011100000#10 ++
      0b0000000011#10 ++ 0b1011110001#10 ++ 0b0000000000#10) =
    some (.cvt { ty := .f16, rnd := .rne, sat := false, neg1 := false, neg2 := false, func := 3,
                 dst := .b 0, s1 := .v 3, s2 := .zero, s3 := .v 0 }) := by decide
theorem test_decode_ld : read 0x600C_0182_803A_0000 =
    some (.ld { ty := .f32, scope := .grp, cache := .dflt, order := .relaxed, cap := 3, data := .v 20,
                index := .v 7, shift := 2, imm := 0 }) := by decide
theorem test_decode_ld_acquire : read 0x600A_0900_5788_0000 =
    some (.ld { ty := .n32, scope := .dev, cache := .dflt, order := .acq, cap := 2, data := .v 2,
                index := .zero, shift := 0, imm := 0 }) := by decide
theorem test_decode_st_release : read 0x604A_1100_3788_0000 =
    some (.st { ty := .n32, scope := .dev, cache := .dflt, order := .rel, cap := 2, data := .v 1,
                index := .zero, shift := 0, imm := 0 }) := by decide
theorem test_decode_ldc : read 0x6084_0101_34A4_0020 =
    some (.ldc { scope := .grp, cache := .dflt, order := .relaxed, cap := 2, data := .creg 9,
                 index := .u 20, shift := 4, imm := 32 }) := by decide
theorem test_decode_stc : read 0x60C0_0101_14A4_0000 =
    some (.stc { scope := .grp, cache := .dflt, order := .relaxed, cap := 2, data := .quad (.v 8),
                 index := .u 20, shift := 4, imm := 0 }) := by decide
theorem test_decode_pf : read 0x6100_2080_00F0_0000 =
    some (.pf { ty := .b32, scope := .grp, cache := .stream, order := .relaxed, cap := 1, data := .v 0,
                index := .v 30, shift := 0, imm := 0 }) := by decide
theorem test_decode_cwb : read 0x6140_0252_9788_0000 =
    some (.cwb { ty := .b32, scope := .grp, cache := .dflt, order := .relaxed, cap := 4, data := .u 20,
                 index := .zero, shift := 0, imm := 0 }) := by decide
theorem test_decode_accrd : read 0x61CC_0005_2940_0000 =
    some (.accrd { ty := .f32, tile := 0, data := .v 20, row := .u 20, colblk := 0 }) := by decide
theorem test_decode_accwr : read 0x620C_0205_2950_0000 =
    some (.accwr { ty := .f32, tile := 2, data := .v 20, row := .u 21, colblk := 0 }) := by decide
theorem test_decode_cmov : read 0x6382_0102_0000_0000 = some (.cmov (.qc (.v 8) 1)) := by decide
theorem test_decode_cget : read 0x6344_0102_8000_0000 = some (.cget { sel := 1, dst := .v 10, cs := 1 }) := by decide
theorem test_decode_ctst : read 0x63C4_0103_00D0_0000 =
    some (.ctst { sel := 1, dst := .v 12, cs := 1, x := .v 13 }) := by decide
theorem test_decode_red : read 0x704C_4280_1788_0C00 =
    some (.red { ty := .f32, scope := .grp, op := .fadd, cap := 5, index := .zero, data := .v 6,
                 order := .relaxed, imm7 := 0 }) := by decide
theorem test_decode_cas : read 0x7088_0201_5788_1800 =
    some (.cas { ty := .n32, scope := .grp, cap := 4, dst := .v 10, index := .zero, data := .v 12,
                 order := .relaxed, imm7 := 0 }) := by decide
theorem test_decode_fence : read 0x70C2_8000_0000_0000 = some (.fence .sys) := by decide
theorem test_decode_bar : read 0x710C_00BC_4000_0000 = some (.bar { id := 3, count := .zero }) := by decide
theorem test_decode_barv : read 0x714C_00A5_0000_0000 = some (.barv { id := 3, count := .u 20 }) := by decide
theorem test_decode_barw : read 0x718C_0000_0000_0000 = some (.barw 3) := by decide
/-- `qenq.8.dev.blk v4, p2, c5[k20]`, bit by bit from R171. -/
theorem test_decode_qenq : read
    (0b0111001000#10 ++ 0b0011#4 ++ 0b100#3 ++ 0b1#1 ++ 0b0101#4 ++ 0b0000000100#10 ++ 0b0010#4 ++
      0b1010010100#10 ++ 0#18) =
    some (.qenq { esize := 3, scope := .dev, blk := true, cap := 5, data := .v 4, status := 2, aux := .u 20 }) := by
  decide
theorem test_decode_cp : read 0x8011_1007_C1E4_0100 =
    some (.cp { dir := .into, size := .b16, scope := .core, scap := 1, dcap := 0, sidx := .v 31, didx := .v 30,
                soff := 256, doff := 256 }) := by decide
theorem test_decode_cpt : read 0x8041_50A6_8000_0000 =
    some (.cpt { dir := .into, scope := .core, src := 5, dst := 0, coord := .u 26 }) := by decide
theorem test_decode_wait : read 0x80D8_0000_0000_0000 = some (.wait { cls := .mx, thresh := 0 }) := by decide
theorem test_decode_loop : read 0x814A_7003_8000_0000 =
    some (.loop { level := 0, count := .u 28, body := 14 }) := by decide
theorem test_decode_shpld : read 0x8240_0300_3788_0040 =
    some (.shpld { slot := 1, cap := 6, index := .zero, shift := 0, imm := 64 }) := by decide
theorem test_decode_mma : read 0x8180_8254_DD34_0000 =
    some (.mma { tile := 0, mode := .sacc, causal := false, aslot := 1, bslot := 2, gamma := .u 27, coord := .u 26,
                 ta := false, tb := false }) := by decide
theorem test_decode_mconv : read 0x81C4_0CF7_8D34_0000 =
    some (.mconv { tile := 4, mode := .ovr, causal := false, aslot := 6, bslot := 7, gamma := .zero, coord := .u 26,
                   ta := false, tb := false }) := by decide
theorem test_decode_tstamp : read 0xA038_00A6_8000_0000 = some (.tstamp .n64 (.u 26)) := by decide
theorem test_decode_ctrrd : read 0xA078_2940_0000_0000 = some (.ctrrd { ty := .n64, dst := .u 20, imm := 0 }) := by
  decide
theorem test_decode_srd : read 0xA088_0040_0000_0000 = some (.srd { ty := .n32, dst := .v 4, imm := 0 }) := by decide
theorem test_decode_swr : read 0xA0F8_0000_1800_0001 = some (.swr { ty := .n64, src := .v 6, imm := 1 }) := by decide
theorem test_decode_tlbinv : read 0xA138_000A_5000_0000 =
    some (.tlbinv { ty := .n64, src := .u 20, imm := 0 }) := by decide
theorem test_decode_sleep : read 0xA140_0000_0000_0010 = some (.sleep 16) := by decide
theorem test_decode_errinj : read 0xA180_0080_1788_0020 =
    some (.errinj { kind := .ue, cap := 1, index := .zero, shift := 0, imm := 32 }) := by decide
/-- The fates of R259's table: W set with v12, ROUND on an integer add, IMM in a V form, `strand` with VHI 700. -/
theorem test_decode_w : read 0x3046_0003_00AA_1000 = none := by decide
theorem test_decode_round : read 0x3044_8003_00AA_1000 = none := by decide
theorem test_decode_imm_in_v : (read 0x408C_0005_014B_C000).map (fun i => match i with
    | .fmul a => a.s2
    | _ => .zero) = some .imm := by decide
theorem test_decode_header : (read (0b0000000110#10 ++ 10#10 ++ 700#10 ++ 1#7 ++ 0#7 ++ 0#16 ++ 0#4)) =
    some (.strand { vlo := 10, vhi := 700, klo := 1, khi := 0, pmask := 0 }) := by decide
theorem test_decode_unallocated : read 0xFFFF_FFFF_FFFF_FFFF = some (.unallocatedOpcode 0xFFFF_FFFF_FFFF_FFFF) := by
  decide
theorem test_decode_short : (match decodeBytes [0, 0, 0, 0, 0, 0, 0] with
    | .error .truncated => true
    | _ => false) = true := by decide
theorem test_table_word : decodeTableWord 64 0x71C0_0000_0000_0000 = some .gbar := by decide


/-! ## Small states: one matrix team of one group of 8 lanes on core 0, at an instruction -/

/-- The issue of a batch of the group. -/
def issueOf (ls : List Nat) : Issue :=
  { party := .group 1, lanes := ls, eff := ls, slot := 0, pc := loadPc, word := 0 }

/-- The group on its core, about to execute in some lanes. -/
def demoOf (g : Group) (ls : List Nat) : State :=
  { State.reset.loadWord 0 with groups := ⟨[(1, g)]⟩, issue := some (issueOf ls) }

/-- The context of that instruction. -/
def demoCtx (g : Group) (ls : List Nat) : Ctx :=
  { s := demoOf g ls, gid := 1, g, t := loadTeam, gr := loadGrid, is := issueOf ls }

/-- A v register of one lane, of a type. -/
def withV (g : Group) (row l : Nat) (w : Word) (ty : Ty) : Group :=
  g.write (.v row) l { bits := w, poison := false } (Tag.of ty)

/-- A k register. -/
def withK (g : Group) (i : Nat) (w : Word) : Group := g.write (.k i) 0 { bits := w, poison := false } Tag.start

/-- Element, tag and predicate word after a step. -/
def elemAfter (r : Result) (x : Reg) (l : Nat) : Option Word :=
  match r with
  | .next t => (t.groups.find? 1).map fun g => (g.elem x l).bits
  | _ => none
def tagAfter (r : Result) (x : Reg) (l : Nat) : Option Tag :=
  match r with
  | .next t => (t.groups.find? 1).map fun g => g.tag x l
  | _ => none
def predAfter (r : Result) (l : Nat) : Option (BitVec 16) :=
  match r with
  | .next t => (t.fibre? 1 l).map (·.pred)
  | _ => none

/-! ## Single steps, with the results of the manual's examples -/

/-- R281: sums wrap at 32 bits. -/
theorem test_kadd_wraps : elemAfter (exec (.kadd (vArgs .n32 (.u 20) (.u 21) (.u 22) (.v 0)))
    (demoOf (withK (withK loadGroup 21 0xFFFFFFFF) 22 2) [0])) (.k 20) 0 = some 1 := by decide
/-- R57, R285: `kli` of a signed type extends its sign. -/
theorem test_kli_s32 : elemAfter (exec (.kli { ty := .s32, dst := .u 20, imm := 0xFFFE }) (demoOf loadGroup [0]))
    (.k 20) 0 = some 0xFFFFFFFE := by decide
theorem test_kli_n32 : elemAfter (exec (.kli { ty := .n32, dst := .u 20, imm := 0xFFFE }) (demoOf loadGroup [0]))
    (.k 20) 0 = some 0x0000FFFE := by decide
/-- R285: the constant 0.5 for `kli` and `kshl`: 0x3F00 shifted left by 16. -/
theorem test_kshl : elemAfter (exec (.kshlImm (viArgs .n32 (.u 27) (.u 27) (.v 0) 16))
    (demoOf (withK loadGroup 27 0x3F00) [0])) (.k 27) 0 = some 0x3F000000 := by decide
/-- R285: a field of 8 bits at 4 of 0xAB0. -/
theorem test_kbfe : elemAfter (exec (.kbfeImm (viArgs .n32 (.u 20) (.u 21) (.v 0) 0x0804))
    (demoOf (withK loadGroup 21 0xAB0) [0])) (.k 20) 0 = some 0xAB := by decide
/-- R295: 0 − (−7) = 7. -/
theorem test_sub : elemAfter (exec (.sub (vArgs .s32 (.v 1) .zero (.v 0) (.v 0)))
    (demoOf (withV loadGroup 0 3 0xFFFFFFF9 .s32) [3])) (.v 1) 3 = some 7 := by decide
theorem test_sub_tag : tagAfter (exec (.sub (vArgs .s32 (.v 1) .zero (.v 0) (.v 0)))
    (demoOf (withV loadGroup 0 3 0xFFFFFFF9 .s32) [3])) (.v 1) 3 = some (Tag.of .s32) := by decide
/-- R295: two elements of 16 bits, each saturated on its own. -/
theorem test_add_sat : elemAfter (exec (.add { vArgs .s16 (.v 1) (.v 0) (.v 0) (.v 0) with sat := true })
    (demoOf (withV loadGroup 0 0 0x7000_8001 .s16) [0])) (.v 1) 0 = some 0x7FFF_8000 := by decide
/-- R296: the shift count is the whole operand. -/
theorem test_shl_wide : elemAfter (exec (.shlImm (viArgs .n32 (.v 1) (.v 0) (.v 0) 32))
    (demoOf (withV loadGroup 0 0 0xFFFFFFFF .n32) [0])) (.v 1) 0 = some 0 := by decide
theorem test_sar : elemAfter (exec (.sarImm (viArgs .s32 (.v 1) (.v 0) (.v 0) 40))
    (demoOf (withV loadGroup 0 0 0x80000000 .s32) [0])) (.v 1) 0 = some 0xFFFFFFFF := by decide
/-- R299: the carry of a sum of 33 bits stands in the odd register. -/
theorem test_addc : elemAfter (exec (.addc (vArgs .n32 (.v 2) (.v 0) (.v 1) .zero))
    (demoOf (withV (withV loadGroup 0 0 0xFFFFFFFF .n32) 1 0 1 .n32) [0])) (.v 3) 0 = some 1 := by decide
/-- R300: 10 + 1·1 + (−1)·(−1) + 2·3 + 0·0. -/
theorem test_dot4 : elemAfter (exec (.dot4 (vArgs .s8 (.v 3) (.v 0) (.v 1) (.v 2)))
    (demoOf (withV (withV (withV loadGroup 0 0 0x0002FF01 .s8) 1 0 0x0003FF01 .s8) 2 0 10 .s32) [0])) (.v 3) 0 =
    some 18 := by decide
/-- R301: 0.5 times j of 1.0 in parts of 16 bits, shifted right by 15. -/
theorem test_cmul : elemAfter (exec (.cmul { vArgs .s16 (.v 2) (.v 0) (.v 1) (.v 0) with func := 15 })
    (demoOf (withV (withV loadGroup 0 0 0x00004000 .s16) 1 0 0x7FFF0000 .s16) [0])) (.v 2) 0 = some 0x40000000 := by
  decide
/-- R62, R304: 1.5 + 2.25 = 3.75, and −0.75 toward zero is −0. -/
theorem test_fadd : elemAfter (exec (.fadd (vArgs .f32 (.v 2) (.v 0) (.v 1) (.v 0)))
    (demoOf (withV (withV loadGroup 0 0 0x3FC00000 .f32) 1 0 0x40100000 .f32) [0])) (.v 2) 0 =
    some 0x40700000 := by decide
theorem test_frnd : elemAfter (exec (.frnd { vArgs .f32 (.v 2) (.v 0) (.v 0) (.v 0) with rnd := .rz })
    (demoOf (withV loadGroup 0 0 0xBF400000 .f32) [0])) (.v 2) 0 = some 0x80000000 := by decide
/-- R62: one rounding of a product and sum, upward: (1 + 2^-23)² − (1 + 2^-22) = 2^-46. -/
theorem test_fma : elemAfter (exec (.fma (vArgs .f32 (.v 3) (.v 0) (.v 0) (.v 2)))
    (demoOf (withV (withV loadGroup 0 0 0x3F800001 .f32) 2 0 0xBF800002 .f32) [0])) (.v 3) 0 =
    some 0x28800000 := by decide
/-- R54: a NaN result is the canonical one; R305: the minimum of −0 and +0 is −0. -/
theorem test_fadd_nan : elemAfter (exec (.fsub (vArgs .f32 (.v 2) (.v 0) (.v 0) (.v 0)))
    (demoOf (withV loadGroup 0 0 0x7F800000 .f32) [0])) (.v 2) 0 = some 0x7FC00000 := by decide
theorem test_fmin : elemAfter (exec (.fmin (vArgs .f32 (.v 2) (.v 0) .zero (.v 0)))
    (demoOf (withV loadGroup 0 0 0x80000000 .f32) [0])) (.v 2) 0 = some 0x80000000 := by decide
/-- R312, R314: the bf16 pair 0x4040_4020 is 2.5 and 3.0. -/
theorem test_unpk_low : elemAfter (exec (.unpk { vArgs .f32 (.v 2) (.v 0) .zero (.v 0) with func := 5 })
    (demoOf (withV loadGroup 0 0 0x40404020 .bf16) [0])) (.v 2) 0 = some 0x40200000 := by decide
theorem test_unpk_high : elemAfter (exec (.unpk { vArgs .f32 (.v 2) (.v 0) .zero (.v 0) with func := 5 })
    (demoOf (withV loadGroup 0 0 0x40404020 .bf16) [0])) (.v 3) 0 = some 0x40400000 := by decide
/-- R312: 1.0 from f32 into f16. -/
theorem test_cvt : elemAfter (exec (.cvt { vArgs .f16 (.v 2) (.v 0) .zero (.v 0) with func := 3 })
    (demoOf (withV loadGroup 0 0 0x3F800000 .f32) [0])) (.v 2) 0 = some 0x3C00 := by decide
/-- R317: 2^24 + 1 + 1 summed exactly and rounded once is 2^24 + 2. -/
theorem test_vred : elemAfter (exec (.vred (vArgs .f32 (.v 1) (.v 0) (.v 0) (.v 0)))
    (demoOf (withV (withV (withV loadGroup 0 0 0x4B800000 .f32) 0 1 0x3F800000 .f32) 0 2 0x3F800000 .f32) [0, 1, 2]))
    (.v 1) 2 = some 0x4B800001 := by decide
/-- R317: an inclusive scan of ones stands at 2 in the second lane. -/
theorem test_vscan : elemAfter (exec (.vscan (vArgs .n32 (.v 1) (.v 0) (.v 0) (.v 0)))
    (demoOf (withV (withV loadGroup 0 0 1 .n32) 0 1 1 .n32) [0, 1])) (.v 1) 1 = some 2 := by decide
/-- R297: a signed compare; the other predicates stay. -/
theorem test_cmp : predAfter (exec (.cmp ⟨.s32, .lt, false, false, .p 4, .v 0, .zero⟩) (demoOf (withV loadGroup 0 0 0xFFFFFFFF .s32) [0])) 0 = some 0x0010 := by decide
/-- R303: NaN compares unequal and unordered only. -/
theorem test_fcmp : predAfter (exec (.fcmp ⟨.f32, .un, false, false, .p 4, .v 0, .zero⟩) (demoOf (withV loadGroup 0 0 0x7FC00000 .f32) [0])) 0 = some 0x0010 := by decide
/-- R290: p1 in lanes 1 and 6 ballots 0x42. -/
theorem test_pvote : elemAfter (exec (.pvote (gArgs 0 1 2 (.u 30)))
    (demoOf ((loadGroup.setPred 1 1 true).setPred 6 1 true) [0, 1, 2, 3, 4, 5, 6, 7])) (.k 30) 0 = some 0x42 := by decide
theorem test_pfirst : predAfter (exec (.pfirst (gArgs 2 1 1 (.v 0)))
    (demoOf ((loadGroup.setPred 1 1 true).setPred 6 1 true) [0, 1, 6])) 6 = some 0x0006 := by decide
/-- R292: bits 31:16 say which predicates take bits 15:0. -/
theorem test_pmask : predAfter (exec (.pmask (gArgs 0 0 1 (.v 0)))
    (demoOf ((withV loadGroup 0 0 0x00060004 .n32).setPred 0 1 true) [0])) 0 = some 0x0004 := by decide
/-- R296: a field of 4 bits at 8. -/
theorem test_bfi : elemAfter (exec (.bfiImm (viArgs .b32 (.v 6) (.v 6) (.v 7) 0x0408))
    (demoOf (withV (withV loadGroup 6 0 0xFFFFFFFF .b32) 7 0 5 .b32) [0])) (.v 6) 0 = some 0xFFFFF5FF := by decide
/-- R316: a broadcast of lane 2. -/
theorem test_bcast : elemAfter (exec (.bcast (vArgs .n32 (.v 1) (.v 0) (.u 20) (.v 0)))
    (demoOf (withK (withV loadGroup 0 2 77 .n32) 20 2) [0, 5])) (.v 1) 5 = some 77 := by decide
/-- R264: a branch back over two words. -/
theorem test_bra : (match exec (.bra { cond := none, off := BitVec.ofInt 44 (-2) }) (demoOf loadGroup [0]) with
    | .next t => (t.fibre? 1 0).map (·.pc)
    | _ => none) = some (loadPc - 16) := by decide
/-- R222, R277: the trap table holds 0x4100 for code 0x15; the trap saves its number in TRAPADDR and goes there. -/
theorem test_trap : (match exec (.trap 0x42)
      ((demoOf loadGroup [3]).homeWrite (0x8000 + 8 * 0x15) [0, 0x41, 0, 0, 0, 0, 0, 0]) with
    | .next t => (t.fibre? 1 3).map fun f => (f.pc, f.trapAddr, f.trapCause, f.trapPc)
    | _ => none) = some (0x4100, 0x42, 0x80030015, 0x4000) := by decide
/-- R77, R330: c0 of a fresh group covers the scratchpad of its team. -/
theorem test_cget_length : elemAfter (exec (.cget { sel := 2, dst := .u 20, cs := 0 }) (demoOf loadGroup [0])) (.k 20) 0 =
    some 1024 := by decide
/-- R329: moving a capability over itself keeps it whole. -/
theorem test_ctst : elemAfter (exec (.ctst { sel := 0, dst := .u 20, cs := 0, x := .zero }) (demoOf loadGroup [0]))
    (.k 20) 0 = some 1 := by decide
/-- R328: `cprm` keeps the permissions that the mask names. -/
theorem test_cprm : elemAfter (match exec (.cprm { cd := 8, cs := 0, s1 := .u 20 }) (demoOf (withK loadGroup 20 1) [0]) with
    | .next t => exec (.cget { sel := 3, dst := .u 21, cs := 8 }) { t with issue := some (issueOf [0]) }
    | r => r) (.k 21) 0 = some 1 := by decide
/-- R322, R71: a store of two lanes to the scratchpad through c0, at 4 times the index. -/
theorem test_st_pad : (match exec (.st { mArgs .n32 0 (.v 0) (.v 1) 0 with shift := 2 })
      (demoOf (withV (withV (withV (withV loadGroup 0 0 7 .n32) 0 1 9 .n32) 1 0 0 .n32) 1 1 1 .n32) [0, 1]) with
    | .next t => some (t.numberAt (.pad 1 0) 4, t.numberAt (.pad 1 4) 4)
    | _ => none) = some (7, 9) := by decide
/-- R332: `atom.add` on the scratchpad gives the old value to the first lane and that plus one to the second. -/
theorem test_atom : elemAfter (exec (.atom ⟨.n32, .grp, .add, 0, .v 2, .zero, .v 0, .relaxed, 0⟩)
    (demoOf (withV (withV loadGroup 0 0 1 .n32) 0 1 1 .n32) [0, 1])) (.v 2) 1 = some 1 := by decide
/-- R272: `pause` waits for its count of cycles. -/
theorem test_pause : (match exec (.pause 100) (demoOf loadGroup [0]) with
    | .next t => (t.fibre? 1 0).map (·.wait)
    | _ => none) = some (some (.paused 100)) := by decide
/-- R274: `fend` leaves the lane without a fibre. -/
theorem test_fend : (match exec .fend (demoOf loadGroup [2]) with
    | .next t => (t.fibre? 1 2, (t.fibre? 1 3).isSome)
    | _ => (none, false)) = (none, true) := by decide
/-- R270: a header names the survivors of its strand. -/
theorem test_strand : (match exec (.strand { vlo := 8, vhi := 11, klo := 4, khi := 5, pmask := 2 })
      (demoOf loadGroup [0]) with
    | .next t => (t.fibre? 1 0).map fun f => (f.strand, f.surv.map (·.pmask))
    | _ => none) = some (loadPc, some 2) := by decide
/-- R351: a stream takes the k registers into its scalars. -/
theorem test_stoke : (match exec (.stoke 2) (demoOf (withK loadGroup 5 0x1234) [0]) with
    | .next t => (t.core 0).stream.map fun st => (st.pc, (st.s.get SReg.zero 5).bits)
    | _ => none) = some (0x4010, 0x1234) := by decide
/-- R16, R218: the first step after a word has been loaded executes it. -/
theorem test_step : (match step (State.reset.withFetchWord 64 0x0081_0000_0000_0005) with
    | .next t => (t.fibre? 1 0).map (·.pc)
    | _ => none) = some (loadPc + 40) := by decide


/-! ## Witnesses: states and operands that meet the hypotheses of the statements. Class 3 to 5 -/

/-- The group at an instruction in all its lanes, and in one lane. -/
def wg : Group := loadGroup
def ws : State := demoOf wg [0, 1, 2, 3, 4, 5, 6, 7]
def wc : Ctx := demoCtx wg [0, 1, 2, 3, 4, 5, 6, 7]
def ws1 : State := demoOf wg [3]
def wc1 : Ctx := demoCtx wg [3]

theorem wit_runs : ws.RunsIn wc := ⟨rfl, by decide⟩
theorem wit_runs1 : ws1.RunsIn wc1 := ⟨rfl, by decide⟩

/-- The operands of the witnesses: sources in k registers, a destination in v registers. -/
def wa (ty : Ty) : VArgs := vArgs ty (.v 4) (.u 10) (.u 12) (.u 14)
def wb (ty : Ty) : VIArgs := viArgs ty (.v 4) (.u 10) (.u 12) 5

theorem wit_IntegerTwoSourceResults : ∀ t ∈ [Ty.s32, .n8, .s64], ∀ v ∈ [vTwo (wa t) (.add (wa t)) (vAdd t false),
    vTwo (wa t) (.sar (wa t)) (vSar t), viTwo (wb t) (.addImm (wb t)) (vAdd t false),
    viTwo (wb t) (.sarImm (wb t)) (vSar t)], wc.vecReady v.dst v.dn v.imm v.qs = true := by decide
theorem wit_IntegerOtherResults : ∀ t ∈ [Ty.s32, .n16, .s64],
    ∀ v ∈ [vOne (wa t) (.abs (wa t)) (vAbs t false),
      vForm (wa t) (.mad (wa t)) t.regs [i1 (.u 10) t, i2 (.u 12) t, i3 (.u 14) t] (madRes t false),
      viForm (wb t) (.madImm (wb t)) t.regs [i1 (.u 10) t, i2 (.u 12) t, iImm t] (madRes t false),
      vForm (wa t) (.bfe (wa t)) t.regs [i1 (.u 10) t, intSrc (.u 12) .n32 fS2] (bfeRes t),
      viForm (wb t) (.bfeImm (wb t)) t.regs [i1 (.u 10) t, iImm .n32] (bfeRes t),
      vForm (wa t) (.bfi (wa t)) t.regs [i1 (.u 10) t, i2 (.u 12) t, i3 (.u 14) .n32] (bfiRes t),
      viForm (wb t) (.bfiImm (wb t)) t.regs [i1 (.u 10) t, i2 (.u 12) t, iImm .n32] (bfiRes t)],
    wc.vecReady v.dst v.dn v.imm v.qs = true := by decide
theorem wit_IntegerOtherResults_sums :
    ∀ v ∈ [vForm (wa .n32) (.addc (wa .n32)) 2 [intSrc (.u 10) .n32 fS1, intSrc (.u 12) .n32 fS2, i3 (.u 14) .n32] addcRes,
      viForm (wb .n32) (.addcImm (wb .n32)) 2 [intSrc (.u 10) .n32 fS1, intSrc (.u 12) .n32 fS2, iImm .n32] addcRes,
      vForm (wa .s8) (.dot4 (wa .s8)) 1 [i1 (.u 10) .s8, i2 (.u 12) .s8, i3 (.u 14) (dotType .s8)] (dotRes .s8 false),
      viForm (wb .s8) (.dot4Imm (wb .s8)) 1 [i1 (.u 10) .s8, i2 (.u 12) .s8, iImm (dotType .s8)] (dotRes .s8 false),
      vForm (wa .s16) (.cmul (wa .s16)) 1 [intSrc (.u 10) .s16 fS1, intSrc (.u 12) .s16 fS2] (complexRes false false 0),
      vForm (wa .s16) (.cmac (wa .s16)) 1 [intSrc (.u 10) .s16 fS1, intSrc (.u 12) .s16 fS2, i3 (.u 14) .s16]
        (complexRes false false 0)],
    wc.vecReady v.dst v.dn v.imm v.qs = true := by decide

/-- Lanes of a main-file register under one type, for sources that carry tags. -/
def wgV : Group := withV (withV (withV (withV wg 0 0 5 .s32) 0 1 6 .s32) 1 0 7 .s32) 1 1 8 .s32
def wcV : Ctx := demoCtx wgV [0, 1]
theorem wit_runsV : (demoOf wgV [0, 1]).RunsIn wcV := ⟨rfl, by decide⟩

theorem wit_MovesAndSelects :
    let qs := [looseSrc (.v 0) .s32 fS1, looseSrc (.v 1) .s32 fS2]
    (wcV.vecReady (.n 31) 1 none [looseSrc (.v 0) .s32 fS1] = true ∧ wcV.vecReady (.n 31) 1 none qs = true) ∧
    ∀ l ∈ wcV.is.eff, sameScale .s32 (wcV.values none qs l) := by
  refine ⟨by decide, ?_⟩
  unfold sameScale
  decide
theorem wit_MovesAndSelects_imm :
    let qs := [looseSrc (.v 0) .s32 fS1, { o := .imm, ty := .s32, field := fImm }]
    (wcV.vecReady (.b 0) 1 (some 0xFFFF) [{ o := .imm, ty := .s32, field := fImm }] = true ∧
      wcV.vecReady (.b 0) 1 (some 0xFFFF) qs = true) ∧
    ∀ l ∈ wcV.is.eff, sameScale .s32 (wcV.values (some 0xFFFF) qs l) := by
  refine ⟨by decide, ?_⟩
  unfold sameScale
  decide
/-- The ranges of the arithmetic statements: the ends of each type, and a count at the width. -/
theorem wit_IntegerElementArithmetic : ∀ t ∈ [Ty.s32, .n32, .s16, .n16, .s8, .n8, .s64, .n64],
    t ∈ intTys ∧ 0 < 2 ^ elemBits t ∧ 2 ^ elemBits t - 1 < 2 ^ elemBits t ∧ (t.signed = false ∨ t.signed = true) := by
  decide
theorem wit_ShiftsAndCounts : ∀ t ∈ [Ty.s32, .n16, .s8, .n64], t ∈ intTys ∧ elemBits t ≤ elemBits t ∧
    elemBits t - 1 < elemBits t ∧ 0 < 2 ^ (elemBits t - 1) ∧ 2 ^ (elemBits t - 1) < 2 ^ elemBits t := by decide
/-- A field of length 0 and one of length 8, and a bit that is clear. -/
theorem wit_ShiftsAndCounts_fields : 0 / 256 % 256 = 0 ∧ 0 < 0x0804 / 256 % 256 ∧ 1 < elemBits .s8 ∧
    (5 : Nat).testBit 1 = false := by decide
theorem wit_ComparesWritePredicates :
    (∀ l ∈ wcV.is.eff, wcV.mayWritePred l 15 = true) ∧
    (∀ l ∈ wcV.is.eff, ([intSrc (.v 0) .s32 fS1, intSrc (.v 1) .s32 fS2].all (wcV.sourceReady none l) = true ∧
      (wcV.values none [intSrc (.v 0) .s32 fS1, intSrc (.v 1) .s32 fS2] l).any Src.poison = false) ∧
      ([intSrc (.v 0) .s32 fS1, intSrc .imm .s32 fImm].all (wcV.sourceReady (some 9) l) = true ∧
      (wcV.values (some 9) [intSrc (.v 0) .s32 fS1, intSrc .imm .s32 fImm] l).any Src.poison = false)) := by decide
theorem wit_ComparesWritePredicates_float :
    ∀ l ∈ wcV.is.eff, ([fltSrc (.u 0) .f32 fS1, fltSrc (.u 1) .f32 fS2].all (wcV.sourceReady none l) = true ∧
      (wcV.values none [fltSrc (.u 0) .f32 fS1, fltSrc (.u 1) .f32 fS2] l).any Src.poison = false) ∧
      ([fltSrc (.u 0) .f32 fS1, fltSrc .imm .f32 fImm].all (wcV.sourceReady (some 0x3F80) l) = true ∧
      (wcV.values (some 0x3F80) [fltSrc (.u 0) .f32 fS1, fltSrc .imm .f32 fImm] l).any Src.poison = false) := by
  decide
theorem wit_FloatResults : wc.unshadowed = true ∧ ∀ t ∈ [Ty.f32, .f16, .bf16],
    ∀ v ∈ [vForm (wa t) (.fadd (wa t)) 1 [f1 (.u 10) t, f2 (.u 12) t] (flt2Res (wa t) ExactNum.mul),
      viForm (wb t) (.faddImm (wb t)) 1 [f1 (.u 10) t, fltImm t] (flt2ImmRes (wb t) ExactNum.mul),
      vForm (wa t) (.fma (wa t)) 1 [f1 (.u 10) t, f2 (.u 12) t, f3 (.u 14) t] (fmaRes t .rne false false false),
      viForm (wb t) (.fmaImm (wb t)) 1 [f1 (.u 10) t, f2 (.u 12) t, fltImm t] (fmaRes t .rne false false false),
      vForm (wa t) (.fscale (wa t)) 1 [f1 (.u 10) t, fltSrc (.u 12) (scaleType t) fS2] (scaleRes t .rne false),
      viForm (wb t) (.fscaleImm (wb t)) 1 [f1 (.u 10) t, fltImm (scaleType t)] (scaleRes t .rne false),
      vForm (wa t) (.fsqrt (wa t)) 1 [f1 (.u 10) t] (fnRes (wa t) id)],
    wc.vecReady v.dst v.dn v.imm v.qs = true := by decide
theorem wit_FloatResults_pairs : (Ty.count .f16 = 2) ∧
    ∀ v ∈ [vForm (wa .f16) (.fcmul (wa .f16)) 1 [f1 (.u 10) .f16, f2 (.u 12) .f16] (fcmulRes (wa .f16)),
      vForm (wa .f16) (.fdot2 (wa .f16)) 1 [f1 (.u 10) .f16, f2 (.u 12) .f16, f3 (.u 14) .f32]
        (fdot2Res .f16 .rne false false false),
      viForm (wb .f16) (.fdot2Imm (wb .f16)) 1 [f1 (.u 10) .f16, f2 (.u 12) .f16, fltImm .f32]
        (fdot2Res .f16 .rne false false false)],
    wc.vecReady v.dst v.dn v.imm v.qs = true := by decide
/-- The largest value that does not overflow in f16 under each mode, and the least that does. -/
theorem wit_FloatResults_overflow :
    (¬ Overflows .f16 .rne (-149) (65519 * 2 ^ 149) ∧ Overflows .f16 .rne (-149) (65520 * 2 ^ 149)) ∧
    (¬ Overflows .e4m3 .rne (-149) (464 * 2 ^ 149) ∧ Overflows .e4m3 .rne (-149) (465 * 2 ^ 149)) ∧
    (¬ Overflows .f16 .ru (-149) (65504 * 2 ^ 149) ∧ Overflows .f16 .ru (-149) (65505 * 2 ^ 149)) ∧
    (¬ Overflows .f16 .rd (-149) (-65504 * 2 ^ 149) ∧ Overflows .f16 .rd (-149) (-65505 * 2 ^ 149)) ∧
    ¬ Overflows .f16 .rz (-149) (65536 * 2 ^ 149) := by
  unfold Overflows
  decide +kernel
/-- Sums of zero and of one, a lesser value, roots of 4 and of -4. -/
theorem wit_FloatResults_sums : (1 * 2 ^ (0 - -1 : Int).toNat + -2 * 2 ^ (-1 - -1 : Int).toNat : Int) = 0 ∧
    (1 * 2 ^ (0 - -1 : Int).toNat + -1 * 2 ^ (-1 - -1 : Int).toNat : Int) ≠ 0 ∧
    ExactNum.lt (.fin (-1) 0) (.fin 1 (-1)) = true ∧ floatOf .f16 0x4400 = .fin 1024 (-8) ∧
    floatOf .f16 0xC400 = .fin (-1024) (-8) := by decide
theorem wit_FloatFunctionsComplete : wc.unshadowed = true ∧ ∀ t ∈ [Ty.f32, .f16, .bf16],
    wc.vecReady (.v 4) 1 none [f1 (.u 10) t] = true := by decide
theorem wit_FloatFunctionsComplete_values :
    (∀ p ∈ [(Ty.f32, 0x3F800000), (.f16, 0x3C00), (.bf16, 0x3F80)],
      floatOf p.1 p.2 = floatOf p.1 (roundFloat p.1 .rne false (.fin 1 0))) ∧
    floatOf .bf16 0xBF80 = .fin (-128) (-7) ∧ floatOf .f32 1 = .fin 1 (-149) ∧ floatOf .f16 0x8001 = .fin (-1) (-24) ∧
    floatOf .f16 0x7E00 = .nan ∧ floatOf .f16 0x8000 = .zero true ∧ floatOf .bf16 0xFF80 = .inf true := by decide
/-- Values of each kind, with the scaled exponent at 0 and below. -/
theorem wit_ConversionsComplete_values :
    valueOf .l6 32 = .nan ∧ valueOf .s8 0 = .zero false ∧ valueOf .f16 0xFC00 = .inf true ∧
    valueOf .s8 255 = .fin (-1) 0 ∧ (0 : Int) ≤ 0 + (((127 : Byte).toNat : Int) - (127 : Byte).toNat) ∧
    0 + (((127 : Byte).toNat : Int) - (128 : Byte).toNat) < (0 : Int) ∧ Ty.f16 ∉ intTys ∧ Ty.n8 ∈ intTys ∧
    Ty.e4m3 ∈ floatTys ∧ (0 : Int) ≤ 8 * -5 + (40 : Nat) := by decide
theorem wit_ConversionsComplete_cvt : wc.unshadowed = true ∧ Ty.ofCode 3 = .f32 ∧
    (∀ l ∈ wc.is.eff, wc.scaleReady l .zero = true ∧ (wc.scaleValue l .zero).1 ≠ 255) ∧
    (∀ l ∈ wc.is.eff, wc.scaleReady l (.u 10) = true ∧ (wc.scaleValue l (.u 10)).1 ≠ 255) ∧
    wc.vecReady (.v 4) (Ty.regs .f16) none [{ o := .u 10, ty := .f32, field := fS1 }] = true := by decide
theorem wit_ConversionsComplete_unpk : Ty.ofCode 5 = .bf16 ∧ ∀ l ∈ wc.is.eff, (Opnd.v 4).isReg = true ∧
    wc.within l (.v 4) (unpkRegs .bf16 .f32) = true ∧ 4 % 2 = 0 ∧ wc.mayWrite l (.v 4) (unpkRegs .bf16 .f32) = true ∧
    wc.inBounds l (.u 10) 1 = true ∧
    wc.sourceReady none l { o := .u 10, ty := .bf16, field := fS1 } = true ∧ Ty.regs .bf16 = 1 := by decide
theorem wit_ConversionsComplete_cvtpk :
    wc.vecReady (.v 4) 1 none ([{ o := .u 10, ty := .f32, field := fS1 }, { o := .u 12, ty := .f32, field := fS2 }] ++
      (if Ty.count .e4m3 = 2 then [] else [{ o := .u 14, ty := .e4m3, field := fS3 }])) = true ∧
    (∀ l ∈ wc.is.eff, ∀ t ∈ (wc.operand l (.u 14) 1 0).tags, t.scale = 127) ∧ Ty.regs .e4m3 = 1 := by decide
theorem wit_ConversionsComplete_tagget : ∀ l ∈ wcV.is.eff, wcV.dstReady l (.u 20) 1 = true ∧
    wcV.inBounds l (.v 0) 1 = true ∧ wcV.readable l (.v 0) 1 = true ∧ (wcV.operand l (.v 0) 1 0).kind = .stored := by
  decide
theorem wit_TagsetCompletes : (∀ l ∈ wcV.is.eff, wcV.retagReady l (vArgs .e4m3 (.v 0) (.u 10) .zero .zero) = true ∧
    wcV.retagReady l (vArgs .e4m3 (.n 31) (.u 10) .zero .zero) = false ∧ l < 64) ∧ wcV.g.flights = [] := by decide

/-- A lane movement of a register whose lanes have one tag; the lane is named by a k register. -/
def wmove : VArgs := vArgs .s32 (.v 4) (.v 0) (.u 20) (.v 0)
theorem wit_LaneMovementsComplete_shfl :
    (∀ l ∈ wcV.is.eff, wcV.moveReady l wmove = true ∧
      (∀ j < 1, ∀ k ∈ wcV.is.eff, ∀ m ∈ wcV.is.eff, ∀ t ∈ wcV.columnTags k (.v 0) j,
        ∀ u ∈ wcV.columnTags m (.v 0) j, t = u) ∧
      (match wcV.readFrom l (.v 0) 1 ((shflLane 0 wcV.g.width l (wcV.laneOperand l wmove).low.bits.toNat).getD l) with
        | .ok x => x.accepted .s32 true
        | .error _ => false) = true) := by decide
theorem wit_LaneMovementsComplete_bcast :
    ∀ l ∈ wcV.is.eff, wcV.moveReady l wmove = true ∧ batchOperand (.u 20) = true ∧
      (wcV.laneOperand l wmove).low.bits.toNat < wcV.g.width ∧
      (match wcV.readFrom l (.v 0) 1 (wcV.laneOperand l wmove).low.bits.toNat with
        | .ok x => x.accepted .s32 true
        | .error _ => false) = true := by decide
/-- A register read on the first slot; on the second, one that the first has written in this cycle; a near register that is
invalid in the lane. -/
theorem wit_LaneMovementsComplete_rows :
    let x : OldElem := { cycle := wcV.s.cyclesOf wcV.g.core, reg := wcV.reg 0 (.v 0), lane := 1, elem := Elem.zero
                         tag := Tag.start, valid := true }
    let c : Ctx := { wcV with g := { wgV with old := [x] }, is := { wcV.is with slot := 1 } }
    (wcV.is.slot = 0 ∧ ∀ r ∈ wcV.regsAt 0 (.v 0) 2, (wcV.seen r 1).2 = true) ∧
    (c.is.slot ≠ 0 ∧ (c.g.old.find? fun y => y.cycle == c.s.cyclesOf c.g.core && y.reg == c.reg 0 (.v 0) && y.lane == 1) = some x) ∧
    ∃ r ∈ wcV.regsAt 0 (.n 31) 1, (wcV.seen r 1).2 = false := by
  refine ⟨by decide, by decide, wcV.reg 0 (.n 31), by decide, by decide⟩
theorem wit_LaneMovementsComplete_sets :
    (∀ y ∈ [0, 0x8000, 0x3C00, 0x7BFF], y < 2 ^ elemBits .f16 ∧ floatOf .f16 y ≠ .nan ∧ ∀ n, floatOf .f16 y ≠ .inf n) ∧
    .nan ∈ [0x7E00].map (floatOf .f16) ∧ (∀ v ∈ [0x7E00].map (floatOf .f16), v = .nan) ∧
    .inf false ∈ [0x7C00, 0xFC00].map (floatOf .f16) ∧ .inf true ∈ [0x7C00, 0xFC00].map (floatOf .f16) ∧
    .inf true ∉ [0x7C00, 0].map (floatOf .f16) ∧ .nan ∉ [0x7C00, 0].map (floatOf .f16) := by decide
theorem wit_LaneMovementsComplete_red :
    wcV.vecReady (.v 4) 1 none [{ o := .v 0, ty := .s32, field := fS1, scaled := true }] = true := by decide

theorem wit_ResultsAreWritten : wcV.Proper ∧ wcV.g.flights = [] ∧
    (Opnd.v 4).isDst = true ∧ (Opnd.u 20).isDst = true ∧ (Opnd.b 0).isDst = true ∧
    (∀ l ∈ wcV.is.eff, (VRes.one l false (Tag.of .n32)).elems.length = 1) ∧
    wcV.is.slot < (wcV.s.core wcV.g.core).slots.length := by
  refine ⟨?_, by decide, by decide, by decide, by decide, by decide, by decide⟩
  unfold Ctx.Proper
  decide


/-! ## Class 1 and 2 -/

/-- A stream of the group on its core, at an instruction. -/
def wst : Stream := Stream.start 1 loadGroup loadPc 0
def wissueS : Issue := { party := .stoker 0, lanes := [0], eff := [0], slot := 2, pc := loadPc, word := 0 }
def wsS (st : Stream) : State :=
  { demoOf loadGroup [0] with
    cores := ⟨[(0, { Core.reset with tlb := [loadPage], stream := some st })]⟩, issue := some wissueS }
def wcS (st : Stream) : SCtx :=
  { s := wsS st, core := 0, st, g := loadGroup, t := loadTeam, gr := loadGrid, is := wissueS }

theorem wit_streams : (wsS wst).Streams (wcS wst) := rfl

/-- The operands of uniform instructions. -/
def wu (ty : Ty) : VArgs := vArgs ty (.u 20) (.u 10) (.u 12) (.v 0)
def wui (ty : Ty) : VIArgs := viArgs ty (.u 20) (.u 10) (.v 0) 5

theorem wit_UniformResults : ∀ t ∈ [Ty.s32, .n64, .b32], ∀ u ∈ uniForms (wu t) (wui t), ∀ l ∈ wc.is.eff,
    wc.uniDstReady l u.ty u.dst = true ∧ u.srcs.all (wc.uniSourceReady l u.ty u.imm.isSome) = true := by decide
theorem wit_UniformResults_stream : ∀ t ∈ [Ty.s32, .n64, .b32], ∀ u ∈ uniForms (wu t) (wui t),
    sDst u.dst = true ∧ sReady u.srcs u.imm.isSome = true := by decide
theorem wit_UniformComparesAndSelects : ∀ l ∈ wc.is.eff, wc.mayWritePred l 15 = true ∧
    [Opnd.u 10, .zero].all (wc.uniSourceReady l .s32 false) = true ∧
    [Opnd.u 10, .zero].all (fun o => !(wc.uniValue l .s32 none o).poison) = true ∧
    [Opnd.u 10, .imm].all (wc.uniSourceReady l .s32 true) = true ∧
    (wc.uniValue l .s32 (some 5) (.u 10)).poison = false ∧ wc.uniDstReady l .s32 (.u 95) = true ∧
    immOk .n64 0xFFFF = true ∧ wc.uniDstReady l .n64 (.u 94) = true := by decide
theorem wit_UniformComparesAndSelects_stream : sReady [.u 31, .zero] false = true ∧ sReady [.u 31] false = true ∧
    (∀ o ∈ [Opnd.u 31, .zero], ((wcS wst).operand o .s32 0).2 = false) ∧ sDst (.u 31) = true ∧
    immOk .n32 5 = true := by decide

/-- Predicates in some lanes. -/
def wgP : Group := (wg.setPred 1 1 true).setPred 6 1 true
def wcP : Ctx := demoCtx wgP [0, 1, 2, 3, 4, 5, 6, 7]
theorem wit_PredicateLogicResults : (demoOf wgP [0, 1, 2, 3, 4, 5, 6, 7]).RunsIn wcP ∧
    ∀ p ∈ [0#4, 15], ∀ l ∈ wcP.is.eff, wcP.mayWritePred l p = true := ⟨⟨rfl, by decide⟩, by decide⟩
theorem wit_PredicateReductions : (∀ l ∈ wcP.is.eff, wcP.mayWritePred l 3 = true) ∧
    (∀ l ∈ wcP.is.eff, wcP.regReady l (.u 30) 2 = true) ∧ (∀ l ∈ wcP.is.eff, wcP.regReady l (.v 607) 1 = true) ∧
    (∀ l ∈ wcP.is.eff, wcP.regReady l (.u 95) 1 = true) := by decide
theorem wit_PredicateReductions_mask_modes : opcodeOf (BitVec.ofNat 64 (0x087 * 2 ^ 54 + 2 * 2 ^ 36)) = 0x087 ∧
    2 ≤ (BitVec.ofNat 64 (0x087 * 2 ^ 54 + 2 * 2 ^ 36)).toNat / 2 ^ 36 % 16 := by decide
theorem wit_PredicateReductions_modes : opcodeOf (BitVec.ofNat 64 (0x085 * 2 ^ 54 + 4 * 2 ^ 36)) = 0x085 ∧
    4 ≤ (BitVec.ofNat 64 (0x085 * 2 ^ 54 + 4 * 2 ^ 36)).toNat / 2 ^ 36 % 16 ∧
    opcodeOf (BitVec.ofNat 64 (0x086 * 2 ^ 54 + 2 * 2 ^ 36)) = 0x086 ∧
    2 ≤ (BitVec.ofNat 64 (0x086 * 2 ^ 54 + 2 * 2 ^ 36)).toNat / 2 ^ 36 % 16 := by decide
theorem wit_PredicateReductions_mask : (∀ l ∈ wcV.is.eff, (Opnd.v 0).isReg = true ∧ wcV.inBounds l (.v 0) 1 = true ∧
    wcV.readable l (.v 0) 1 = true ∧
    ((wcV.operand l (.v 0) 1 0).tags.all fun t => t.valid && (t.fmt == .s32 || t.fmt == .n32 || t.fmt == .b32)) = true ∧
    (wcV.operand l (.v 0) 1 0).poison = false ∧
    ((wcV.operand l (.v 0) 1 0).low.bits >>> 16).setWidth 16 &&&
      (((wcV.fibre? l).bind fun f => f.surv).elim 0#16 fun h => h.pmask) = 0#16) ∧ wcV.is.eff.Nodup ∧
    ∀ l ∈ wcV.is.eff, (wcV.fibre? l).isSome = true ∧ l ∈ wcV.is.lanes := by decide

/-- `pmask` with a latch, with a register of another type, with a poisoned register, and with a mask that covers a
survivor. -/
theorem wit_PredicateReductions_refused :
    let g := wgV.modFibre 0 fun f => { f with surv := some { vlo := 0, vhi := 0, klo := 0, khi := 0, pmask := 4 } }
    let c := demoCtx (withK g 20 0x00040000) [0]
    let d := demoCtx ((withV wgV 0 0 5 .f32).poisonElem (.k 20) 0) [0]
    (Opnd.b 0).isReg = false ∧
    (∀ l ∈ d.is.eff, (Opnd.v 0).isReg = true ∧ d.inBounds l (.v 0) 1 = true ∧ d.readable l (.v 0) 1 = true ∧
      ((d.operand l (.v 0) 1 0).tags.headD Tag.start).fmt ∉ [Ty.n32, .s32, .b32]) ∧
    (∀ l ∈ d.is.eff, d.inBounds l (.u 20) 1 = true ∧ d.readable l (.u 20) 1 = true ∧ (Opnd.u 20).isUniform = true ∧
      (d.operand l (.u 20) 1 0).poison = true) ∧
    d.is.eff.Nodup ∧
    (∀ l ∈ c.is.eff, c.inBounds l (.u 20) 1 = true ∧ c.readable l (.u 20) 1 = true ∧
      (c.operand l (.u 20) 1 0).poison = false) ∧
    ∃ l ∈ c.is.eff, ((c.operand l (.u 20) 1 0).low.bits >>> 16).setWidth 16 &&&
      (((c.fibre? l).bind fun f => f.surv).elim 0#16 fun h => h.pmask) ≠ 0#16 := by
  refine ⟨by decide, by decide, by decide, by decide, by decide, 0, by decide, by decide⟩

/-! ## Class 0 -/

theorem wit_outside : ws.RunsOutside wc := by
  refine ⟨wit_runs, ?_, by decide, rfl⟩
  unfold Ctx.Proper
  decide
/-- An instruction that takes effect in no lane of its batch. -/
theorem wit_NopAndSkippedLanes :
    let s : State := { ws1 with issue := some { issueOf [3] with eff := [] } }
    s.ctx? = some { wc1 with s, is := { issueOf [3] with eff := [] } } := rfl
theorem wit_BranchesGo :
    (∀ l ∈ wc.is.lanes, braTaken { cond := none, off := 5 } (wc.pred l) = true →
      targetOk wc.gr (wc.is.pc.toNat + 8 * (5 : Int)) = true) ∧
    (∀ l ∈ wc.is.lanes, braTaken { cond := some (2, true), off := 0 } (wc.pred l) = true →
      targetOk wc.gr (wc.is.pc.toNat + 8 * (0 : Int)) = true) := by decide
theorem wit_BranchesGo_stream :
    let st := { wst with loops := [{ first := loadPc, last := loadPc + 16, left := 2 }] }
    (wsS st).Streams (wcS st) ∧ braTaken { cond := none, off := 2 } (predBit st.pred) = true ∧
    targetOk loadGrid (loadPc.toNat + 8 * (2 : Int)) = true ∧
    (∀ l ∈ st.loops.head?, l.first.toNat ≤ (loadPc.toNat + 8 * (2 : Int)).toNat ∧
      (loadPc.toNat + 8 * (2 : Int)).toNat ≤ l.last.toNat) ∧
    braTaken { cond := some (0, false), off := 2 } (predBit st.pred) = false := ⟨rfl, by decide⟩

/-- An address in a pair of registers. -/
def wgA : Group := (withV (withV wg 2 3 0x4020 .b64) 3 3 0 .b64)
def wcA : Ctx := demoCtx wgA [3]
theorem wit_runsA : (demoOf wgA [3]).RunsOutside wcA := by
  refine ⟨⟨rfl, by decide⟩, ?_, by decide, rfl⟩
  unfold Ctx.Proper
  decide
theorem wit_BranchesGo_register : ∀ l ∈ wcA.is.lanes, wcA.addressReady l (.v 2) = true ∧
    targetOk wcA.gr (wcA.address l (.v 2) % 2 ^ 52 : Nat) = true := by decide
theorem wit_CallsAndReturns : targetOk wc.gr (wc.is.pc.toNat + 8 * (5 : Int)) = true ∧
    (∀ l ∈ wc.is.lanes, wc.window l + 1023 ≤ 4095 ∧ wc.window l + 1023 + 1 < wc.g.vregs) ∧
    (∀ l ∈ wcA.is.lanes, wcA.addressReady l (.v 2) = true ∧ wcA.address l (.v 2) / 2 ^ 54 ≤ wcA.window l ∧
      targetOk wcA.gr (wcA.address l (.v 2) % 2 ^ 52 : Nat) = true) := by decide
theorem wit_StrandsAndBlocks : headerInRange { vlo := 0, vhi := 31, klo := 0, khi := 95, pmask := 0xFFFF } = true := by
  decide
/-- A group with an idle lane, and one whose lanes all have fibres. -/
def wgF : Group := { withK wg 20 4094 with fibres := wg.fibres.erase 5 }
def wcF : Ctx := demoCtx wgF [3]
theorem wit_FibresStartAndEnd : (demoOf wgF [3]).RunsIn wcF ∧ wcF.is.lanes = [3] ∧ wcF.idleLane = some 5 ∧
    wcF.indexReady 3 (.u 20) = true ∧ (wcF.operand 3 (.u 20) 1 0).poison = false ∧
    (wcF.operand 3 (.u 20) 1 0).low.bits.toNat = 4094 ∧ 4094 < wcF.g.vregs ∧
    targetOk wcF.gr (wcF.is.pc.toNat + 8 * (12 : Int)) = true ∧ wcF.mayWritePred 3 3 = true := ⟨⟨rfl, by decide⟩, by decide⟩
theorem wit_FibresStartAndEnd_full : wc1.idleLane = none ∧ wc1.indexReady 3 .zero = true ∧
    (wc1.operand 3 .zero 1 0).low.bits.toNat = 0 := by decide

/-- Fibres that wait, in lane 0, while lane 3 executes. -/
def wgW (w : Wait) : Group := wg.modFibre 0 fun f => { f with wait := some w }
theorem wit_WaitsBegin : wc.g.rcvMet wc.is.pc wc.handler wc.is.lanes = true ∧
    wc1.g.rcvMet wc1.is.pc wc1.handler wc1.is.lanes = false ∧
    (∀ l ∈ wc1.is.lanes, ∀ f ∈ wc1.fibre? l, f.wait = none) ∧ (0xFFFF : BitVec 16) ≠ 0 := by decide
theorem wit_TimersExpire : ∀ w ∈ [Wait.rcv 0, .yielded 0, .paused 0, .sleeping 0],
    (demoOf (wgW w) [3]).groups.find? 1 = some (wgW w) ∧
    ∀ l ∈ [0], ∃ f v, (wgW w).fibres.find? l = some f ∧ f.parked = none ∧ f.wait = some v ∧ v = w := by
  intro w h
  refine ⟨rfl, ?_⟩
  intro l hl
  simp only [List.mem_singleton] at hl
  subst hl
  exact ⟨_, _, rfl, rfl, rfl, rfl⟩
/-- A header stands ahead where one is the next word. -/
theorem headerAhead_of_header {s : State} {core n : Nat} {gr : Grid} {pc : Addr} {w : Dword}
    (e : s.peek core gr pc = some w) (h : isHeaderWord w = true) : s.headerAhead core gr (n + 1) pc = true := by
  unfold isHeaderWord at h
  split at h
  · next heq => simp only [State.headerAhead, e, Option.map_some, heq]
  · cases h
/-- A sleeping batch of a grid that no request reaches, and of one that a polite request has reached, before a
header. -/
theorem wit_TimersExpire_sleep :
    let g := wgW (.sleeping 0)
    let s : State := { State.reset.loadWord 0x0180000000000000 with groups := ⟨[(1, g)]⟩ }
    let gr := { loadGrid with preempt := some { since := 0, cut := none, lanes := [], forced := false, escalations := 0 } }
    let u := s.setGrid loadTeam.grid gr
    (s.owners g = some (loadTeam, loadGrid) ∧ loadGrid.polite loadTeam = false) ∧
    (u.owners g = some (loadTeam, gr) ∧ gr.polite loadTeam = true) ∧
    ∀ f, g.fibres.find? 0 = some f →
      u.headerAhead g.core gr ((gr.kernel.code.limit - f.pc.toNat) / 8 + 1) f.pc = true := by
  refine ⟨by decide, by decide, fun f hf => ?_⟩
  cases hf
  exact headerAhead_of_header (w := 0x0180000000000000) (by decide) (by decide)
theorem wit_TimersExpire_early : (wgW (.paused 1)).fibres.find? 0 =
    some { (wg.fibres.find? 0).getD (Fibre.start 0 0 0) with wait := some (.paused 1) } ∧
    ((demoOf (wgW (.paused 1)) [3]).cluster (clusterOf 0)).cycles.toNat < 1 := by decide

/-- The trap table of the kernel has an entry for one code, or for none. -/
def wsT : State := (demoOf wg [3]).homeWrite (0x8000 + 8 * 0x15) [0, 0x41, 0, 0, 0, 0, 0, 0]
theorem wit_FaultEntersHandler : wsT.groups.find? 1 = some wg ∧ wsT.teams.find? wg.team = some loadTeam ∧
    wsT.grids.find? loadTeam.grid = some loadGrid ∧ (wg.fibres.find? 3).elim false (fun f => !f.trapMask.getLsbD 0) = true ∧
    wsT.handlerOf wg loadGrid 0x15 = some 0x4100 := by decide
theorem wit_UnhandledFaultKillsTeam : (demoOf wg [3]).groups.find? 1 = some wg ∧
    (demoOf wg [3]).teams.find? wg.team = some loadTeam ∧
    (demoOf wg [3]).grids.find? loadTeam.grid = some loadGrid ∧ (wg.fibres.find? 3).isSome = true ∧
    (demoOf wg [3]).handlerOf wg loadGrid 0x15 = none := by decide
theorem wit_UnhandledFaultKillsTeam_masked :
    let g := wg.modFibre 3 fun f => { f with trapMask := 1 }
    (demoOf g [3]).groups.find? 1 = some g ∧
      (g.fibres.find? 3).elim false (fun f => f.trapMask.getLsbD 0) = true := by decide
theorem wit_AbsentPageParksFibre : (wg.fibres.find? 3).elim true (fun f => f.needHdr) = false := by decide
theorem wit_TrapAndBreakpoint : (∀ l ∈ wc.is.lanes, (wc.fibre? l).elim true (fun f => f.skip != some wc.is.pc) = true) ∧
    (let c := demoCtx (wg.modFibre 3 fun f => { f with skip := some loadPc }) [3]
     ∀ l ∈ c.is.lanes, (c.fibre? l).elim false (fun f => f.skip == some c.is.pc) = true) := by decide
theorem wit_RteReturns :
    let c := demoCtx (wg.modFibre 3 fun f => { f with handler := true, resume := 0x4008, trapCause := 0x80030016 }) [3]
    let d := demoCtx (wg.modFibre 3 fun f => { f with handler := true, trapPc := 0x4010, pcWritten := true }) [3]
    (∀ l ∈ c.is.lanes, ∀ f ∈ c.fibre? l, f.handler = true ∧
      targetOk c.gr (if f.pcWritten then f.trapPc.toNat % 2 ^ 52 else f.resume.toNat : Nat) = true) ∧
    (∀ l ∈ d.is.lanes, ∀ f ∈ d.fibre? l, f.handler = true ∧
      targetOk d.gr (if f.pcWritten then f.trapPc.toNat % 2 ^ 52 else f.resume.toNat : Nat) = true) ∧
    ∀ l ∈ wc.is.lanes, (wc.fibre? l).elim true (fun f => !f.handler) = true := by decide
/-- The ends of the ranges of unallocated opcodes. -/
theorem wit_WrongStreamAndIllegal : ∀ op ∈ [0x010, 0x03F, 0x055, 0x07F, 0x088, 0x0BF, 0x0DC, 0x0FF, 0x113, 0x13F, 0x149] ++
    [0x17F, 0x190, 0x1BF, 0x1D1, 0x1FF, 0x20A, 0x240, 0x250, 0x27F, 0x287, 0x2BF, 0x2C8, 0x2C9, 0x2CD, 0x2D3, 0x2D5] ++
    [0x2DA, 0x2FF, 0x307, 0x30F, 0x312, 0x3FF], read (BitVec.ofNat 64 (op * 2 ^ 54 + (2 ^ 54 - 1))) =
      some (.unallocatedOpcode (BitVec.ofNat 64 (op * 2 ^ 54 + (2 ^ 54 - 1)))) := by decide


/-! ## Class 6: memory -/

/-- A fact about the one lane of a batch. -/
theorem one_lane {q : Nat → Prop} {k : Nat} (h : q k) : ∀ l ∈ [k], q l := by
  intro l hl
  rw [List.mem_singleton] at hl
  exact hl ▸ h

/-- A page that may be read and written, and a capability over its first 4096 bytes with every permission of memory. -/
def dataPage : TlbEntry := { part := 0, base := 0, size := 65536, entry := 0x1B }
def dataCap : Cap := Cap.spanning 1 0x5F 0x1000 0x1000
theorem dataCap_ok : dataCap.tag = true ∧ dataCap.base = 0x1000 ∧ dataCap.limit = 0x2000 := by decide

/-- The group with the capability in c8, in lane 3, on a core that has the page. -/
def wgM : Group := (withV (withV wg 0 3 7 .n32) 1 3 0xFFFFFFFF .s32).setCap 8 dataCap
def wsM : State := { demoOf wgM [3] with cores := ⟨[(0, { Core.reset with tlb := [dataPage] })]⟩ }
def wcM : Ctx := { demoCtx wgM [3] with s := wsM }
theorem wit_runsM : wsM.RunsIn wcM := ⟨rfl, by decide⟩
theorem wit_properM : wcM.Proper := by
  unfold Ctx.Proper
  decide

/-- The places of the witnesses: the first and the last word of the region, and a word of the scratchpad. -/
theorem wit_VectorLoadsComplete : wcM.Reaches 8 .zero 0 0 4 (fun _ => Cap.ld) { rd := true } (fun _ => .mem 0x1000) ∧
    wcM.Reaches 8 .zero 0 0xFFC 4 (fun _ => Cap.ld) { rd := true } (fun _ => .mem 0x1FFC) ∧
    wcM.Reaches 8 (.v 1) 2 4 4 (fun _ => Cap.ld) { rd := true } (fun _ => .mem 0x1000) ∧
    wcM.Reaches 0 .zero 0 0 4 (fun _ => Cap.ld) { rd := true } (fun _ => .pad 1 0) :=
  ⟨one_lane ⟨by decide, by decide, rfl⟩, one_lane ⟨by decide, by decide, rfl⟩, one_lane ⟨by decide, by decide, rfl⟩,
    one_lane ⟨by decide, by decide, rfl⟩⟩
theorem wit_VectorLoadsComplete_operands : ∀ l ∈ wcM.is.eff, ((Opnd.v 4).isReg && !(Opnd.v 4).isUniform) = true ∧
    wcM.regReady l (.v 4) 1 = true ∧ wsM.readLost (.mem 0x1000) = none ∧
    wsM.secondLost [.mem 0x1000] (.mem 0x1000) = none ∧ wsM.secondLost [.pad 1 0] (.pad 1 0) = none ∧
    (wsM.drainPlace wcM.g.core (.mem 0x1000)).acquireOk wcM.gr.part wcM.g.core .dev (.mem 0x1000) = true ∧
    wsM.homeHolds wcM.g.core (.mem 0x1000) 4 = true ∧ wsM.homeHolds wcM.g.core (.pad 1 0) 4 = true := by decide
theorem wit_VectorLoadsComplete_quad :
    wcM.Reaches 8 .zero 0 0xFF0 16 (fun _ => Cap.cl) { rd := true } (fun _ => .mem 0x1FF0) ∧
    ∀ l ∈ wcM.is.eff, wcM.regReady l (.v 4) 4 = true ∧ wsM.readLost (.mem 0x1FF0) = none ∧
      wsM.secondLost (wcM.is.eff.map fun _ => .mem 0x1FF0) (.mem 0x1FF0) = none ∧
      ((wcM.readsIn .acq .dev [.mem 0x1FF0] wsM).loadGranule wcM.g.core (.mem 0x1FF0) .dflt wcM.is.pc).1.2.2 = false :=
  ⟨one_lane ⟨by decide, by decide, rfl⟩, by decide⟩
theorem wit_VectorLoadsComplete_creg : wcM.covered = false ∧ wcM.is.eff.head? = some 3 ∧
    wcM.indexReady 3 .zero = true ∧
    wsM.Leads wcM.accessor (wcM.accessOf 8 .zero 0 0 16 Cap.cl { rd := true } 3) (.mem 0x1000) ∧
    ((wcM.readsIn .acq .dev [.mem 0x1000] wsM).loadGranule wcM.g.core (.mem 0x1000) .dflt wcM.is.pc).1.2.2 = false :=
  ⟨by decide, rfl, by decide, ⟨by decide, rfl⟩, by decide⟩
theorem wit_VectorStoresComplete : wcM.Reaches 8 .zero 0 0xFFC 4 (fun _ => Cap.st) { w := true } (fun _ => .mem 0x1FFC) ∧
    wcM.Reaches 0 .zero 0 0x3FC 4 (fun _ => Cap.st) { w := true } (fun _ => .pad 1 0x3FC) ∧
    ∀ l ∈ wcM.is.eff, (Opnd.v 0).isReg = true ∧
      wcM.sourceReady none l { o := .v 0, ty := .n32, field := fDst } = true ∧
      (∀ p ∈ [Place.mem 0x1FFC, .pad 1 0x3FC], wsM.writeLost p = none) ∧
      0x1FFC % 4 = 0 ∧ (wsM.core 0).covers (0x1FFC / 16) = false ∧ wsM.reachable 0x1FFC = true ∧
      (wsM.core 0).predict.get 8 (predictIdx wcM.is.pc) ∈ [1, 2, 4, 8] ∧
      wsM.teams.find? 1 = some loadTeam ∧ wsM.padSound loadTeam 0x3FC = true :=
  ⟨one_lane ⟨by decide, by decide, rfl⟩, one_lane ⟨by decide, by decide, rfl⟩, by decide⟩
theorem wit_VectorStoresComplete_cap :
    wcM.Reaches 8 .zero 0 0xFF0 16 (fun l k => k.st && (!(wcM.stcValue
      ⟨.grp, .home, .relaxed, 8, .creg 8, .zero, 0, 0xFF0⟩ l).1.tag || k.cs)) { w := true } (fun _ => .mem 0x1FF0) ∧
    wsM.writeLost (.mem 0x1FF0) = none ∧ isDevice 0x1FF0 = true ∧ (Place.mem 0x1FF0).isOutside = false ∧
    (∀ l ∈ wcM.is.eff, wcM.inBounds l (.v 4) 4 = true) :=
  ⟨one_lane ⟨by decide, by decide, rfl⟩, by decide⟩
theorem wit_CacheInstructionsComplete :
    let x := wcM.accessOf 8 .zero 0 0 1 Cap.ld { rd := true } 3
    wcM.indexReady 3 .zero = true ∧ x.permitted wcM.t.z = true ∧
    wsM.locate wcM.accessor x x.addr.toNat = .ok (.mem 0x1000) :=
  ⟨by decide, by decide, rfl⟩
/-- A range of 7 bytes at the start of the region, with the length in v0. -/
theorem wit_CacheInstructionsComplete_range :
    let a := mArgs .b32 8 (.v 0) .zero 0
    (∀ l ∈ wcM.is.eff, wcM.rangeReady a l = true) ∧ wcM.rangeLength a 3 = 7 ∧
    (wcM.rangeAccess a 3).addr.toNat % 2 ^ 16 + 7 ≤ 2 ^ 16 ∧ (wcM.g.cap 8).space ≠ 2 ∧ (wcM.g.cap 8).space ≠ 3 ∧
    (wsM.core 0).fifoSound := by
  refine ⟨by decide, by decide, by decide, by decide, by decide, rfl, ?_⟩
  intro b x h
  exact absurd h (List.not_mem_nil)
theorem wit_UniformAccessesComplete : (∀ l ∈ wcM.is.eff, uniIndex .zero = true ∧ wcM.inBounds l .zero 1 = true) ∧
    (∀ l ∈ wcM.is.eff, wcM.uniDstReady l .n64 (.u 94) = true ∧ wsM.readLost (.mem 0x1FF8) = none ∧
      wsM.Leads wcM.accessor (wcM.accessOf 8 .zero 0 0xFF8 8 Cap.ld { rd := true } l) (.mem 0x1FF8)) ∧
    (∀ l ∈ wcM.is.eff, (Opnd.u 94).isUniform = true ∧ wcM.inBounds l (.u 94) 2 = true ∧
      wsM.writeLost (.mem 0x1FF8) = none ∧
      wsM.Leads wcM.accessor (wcM.accessOf 8 .zero 0 0xFF8 8 Cap.st { w := true } l) (.mem 0x1FF8)) ∧
    wsM.homeHolds 0 (.mem 0x1FF8) 8 = true :=
  ⟨by decide, one_lane ⟨by decide, by decide, by decide, rfl⟩, one_lane ⟨rfl, by decide, by decide, by decide, rfl⟩,
    by decide⟩
/-- The same accesses of a stream. -/
def wsSM : State :=
  { wsS wst with
    cores := ⟨[(0, { Core.reset with tlb := [dataPage], stream := some wst })]⟩, groups := ⟨[(1, wgM)]⟩ }
def wcSM : SCtx := { wcS wst with s := wsSM, g := wgM }
theorem wit_UniformAccessesComplete_stream :
    let a := mArgs .n64 8 (.u 31) .zero 0xFF8
    wsSM.Streams wcSM ∧ sReady [a.index] false = true ∧ sDst a.data = true ∧ wsSM.readLost (.mem 0x1FF8) = none ∧
    wsSM.Leads wcSM.accessor (wcSM.accessOf a Cap.ld { rd := true }) (.mem 0x1FF8) ∧
    wsSM.writeLost (.mem 0x1FF8) = none ∧ wsSM.gatesClosed (wsSM.gates [.mem 0x1FF8]) = true ∧
    wsSM.secondLost [.mem 0x1FF8] (.mem 0x1FF8) = none ∧
    wsSM.Leads wcSM.accessor (wcSM.accessOf a Cap.st { w := true }) (.mem 0x1FF8) :=
  ⟨rfl, by decide, by decide, by decide, ⟨by decide, rfl⟩, by decide, by decide, by decide, ⟨by decide, rfl⟩⟩
/-- A word of the Folio in the bank group whose window is open at reset. -/
def wgFo : Group := wgM.setCap 9 (Cap.spanning 3 1 0 0x1000)
theorem wit_UniformAccessesComplete_window :
    let a := mArgs .n64 9 (.u 31) .zero 0
    let c : SCtx := { wcSM with g := wgFo, s := { wsSM with groups := ⟨[(1, wgFo)]⟩ } }
    c.s.Streams c ∧ sReady [a.index] false = true ∧ sDst a.data = true ∧ c.s.readLost (.folio 0 0) = none ∧
    c.s.secondLost [.folio 0 0] (.folio 0 0) = none ∧ c.s.gatesClosed (c.s.gates [.folio 0 0]) = false ∧
    c.s.Leads c.accessor (c.accessOf a Cap.ld { rd := true }) (.folio 0 0) :=
  ⟨rfl, by decide, by decide, by decide, by decide, by decide, ⟨by decide, rfl⟩⟩

/-! ## Capabilities, atomics, barriers -/

/-- Pairs of k registers with a base and a length. -/
def wgC : Group := withK (withK wgM 20 0x1100) 22 0x100
def wcC : Ctx := { demoCtx wgC [3] with s := { wsM with groups := ⟨[(1, wgC)]⟩ } }
theorem wit_CapabilityWritesResults : wcC.covered = false ∧
    (∀ i : BitVec 4, (wcC.g.cap i).tag = true → (wcC.g.cap i).ok = true) ∧
    (∀ l ∈ wcC.is.eff, wcC.capOpReady l (.u 20) 2 = true ∧ wcC.capOpReady l (.u 22) 2 = true ∧
      wcC.capOpReady l (.u 20) 1 = true ∧ wcC.inBounds l (.v 4) 4 = true) := by decide
theorem wit_CapabilityReadsResults : (∀ l ∈ wcM.is.eff, wcM.regReady l (.v 4) 4 = true) ∧
    (∀ sel ∈ [0#4, 5, 8], ∀ l ∈ wcM.is.eff, wcM.regReady l (.u 20) (fieldType sel).regs = true) ∧
    (∀ l ∈ wcM.is.eff, wcM.regReady l (.v 4) 1 = true ∧
      wcM.sourceReady none l { o := .v 0, ty := .n32, field := fS1, loose := true } = true ∧
      (wcM.operand l (.v 0) 1 0).poison = false) := by decide
theorem wit_AtomicsComplete :
    let a : AtomArgs := ⟨.n32, .grp, .add, 8, .v 4, .zero, .v 0, .acqRel, 127⟩
    wcM.covered = false ∧ wcM.AtomReady (atomForm a) (fun _ => .mem 0x11FC) ∧
    wsM.homeHolds 0 (.mem 0x11FC) 4 = true ∧ wsM.reachable 0x11FC = true := by
  refine ⟨by decide, one_lane ⟨?_, by decide, by decide, ⟨by decide, rfl⟩, by decide, by decide, Or.inl rfl, by decide⟩,
    by decide, by decide⟩
  intro d h
  cases h
  decide
theorem wit_AtomicsComplete_red :
    let a : RedArgs := ⟨.n32, .grp, .max, 0, .zero, .v 0, .relaxed, 0⟩
    wcM.AtomReady (redForm a) (fun _ => .pad 1 0) := by
  refine one_lane ⟨?_, by decide, by decide, ⟨by decide, rfl⟩, by decide, by decide, Or.inr ?_, ?_⟩
  · intro d h
    cases h
  · intro pa h
    cases h
  · intro h
    cases h
theorem wit_AtomicsComplete_cas :
    let a : CasArgs := ⟨.n32, .grp, 8, .v 4, .zero, .v 0, .rel, 0⟩
    let c := { wcM with g := withV wgM 1 3 9 .n32, s := { wsM with groups := ⟨[(1, withV wgM 1 3 9 .n32)]⟩ } }
    c.AtomReady (casForm a) (fun _ => .mem 0x1000) := by
  refine one_lane ⟨?_, by decide, by decide, ⟨by decide, rfl⟩, by decide, by decide, Or.inl rfl, ?_⟩
  · intro d h
    cases h
    decide
  · intro h
    cases h
theorem wit_AtomicOperations : ∀ t ∈ [Ty.n32, .s32, .b32, .n64, .s64, .b64], 0 < 2 ^ elemBits t ∧
    2 ^ elemBits t - 1 < 2 ^ elemBits t ∧ (t.signed = false ∨ t.signed = true) := by decide
theorem wit_FenceReleasesAndAcquires : wcM.covered = false ∧ wcM.g.flights = [] ∧ 2 ≤ Scope.clu.rank := by decide

/-- All fibres of the group but one batch have arrived at barrier 3; the count is one group. -/
def wgB (k : Nat) : Group :=
  (withK wg 20 1).modFibres [0, 1, 2, 4, 5, 6, 7] fun _ f => { f with arrived := BitVec.ofNat 17 (2 ^ k) }
def wcB (k : Nat) : Ctx := demoCtx (wgB k) [3]
theorem wit_outsideB (k : Nat) : (demoOf (wgB k) [3]).ctx? = some (wcB k) := rfl
theorem wit_BarriersArriveAndComplete : (wcB 3).CountIs (.u 20) 1 false ∧
    (∀ l ∈ (wcB 3).is.lanes, ∀ f ∈ (wcB 3).fibre? l, f.wait = none ∧ f.arrived.getLsbD 3 = false) ∧
    (wcB 3).completesGroup (.named 1 3) ∧
    (((wcB 3).s.bar (.named 1 3)).a = 0 ∧ ((wcB 3).s.bar (.named 1 3)).a + 1 = 1) := by
  refine ⟨Or.inr ⟨rfl, by decide, by decide, 20, rfl, by decide⟩, by decide, ?_, by decide⟩
  unfold Ctx.completesGroup
  decide
theorem wit_BarriersArriveAndComplete_zero : wc1.CountIs .zero 1 true ∧ ¬ wc1.completesGroup (.named 1 3) := by
  refine ⟨Or.inl ⟨rfl, rfl, by decide⟩, ?_⟩
  unfold Ctx.completesGroup
  decide
theorem wit_BarriersArriveAndComplete_leave :
    let c := demoCtx (wg.modFibre 3 fun f => { f with arrived := 8, released := 8 }) [3]
    ∀ l ∈ c.is.lanes, ∀ f ∈ c.fibre? l, f.arrived.getLsbD 3 = true ∧ f.released.getLsbD 3 = true := by decide
/-- The grid barrier of a co-resident grid, met by the one group of its grid, and outside such a grid. -/
theorem wit_BarriersArriveAndComplete_grid :
    let gr := { loadGrid with coresident := true }
    let s : State := { demoOf (wgB 16) [3] with grids := ⟨[(gridKey 0 1, gr)]⟩ }
    let c : Ctx := { wcB 16 with s, gr }
    s.ctx? = some c ∧ c.gr.coresident = true ∧ c.completesGroup (.grid (gridKey 0 1)) ∧
    (∀ j ∈ s.liveGroups (.grid (gridKey 0 1)), j = c.gid) ∧ s.teamsToCome c.t.grid = false ∧
    (s.setGrid c.t.grid { gr with unplaced := [1] }).teamsToCome c.t.grid = true ∧ wc1.gr.coresident = false := by
  refine ⟨rfl, rfl, ?_, by decide, by decide, by decide, rfl⟩
  unfold Ctx.completesGroup
  decide
/-- A team of two groups, of which the second has not arrived. -/
def wteam2 : Team := { loadTeam with groups := [1, 2] }
def wsB2 (k : Nat) : State :=
  { demoOf (wgB k) [3] with
    groups := ⟨[(1, withK (wgB k) 20 2), (2, loadGroup)]⟩, teams := ⟨[(1, wteam2)]⟩
    grids := ⟨[(gridKey 0 1, { loadGrid with coresident := true })]⟩ }
def wcB2 (k : Nat) : Ctx :=
  { wcB k with s := wsB2 k, g := withK (wgB k) 20 2, t := wteam2, gr := { loadGrid with coresident := true } }
theorem wit_BarriersArriveAndComplete_two : (wsB2 3).ctx? = some (wcB2 3) ∧ (wcB2 3).CountIs (.u 20) 2 false ∧
    (wcB2 3).completesGroup (.named 1 3) ∧ ((wsB2 3).bar (.named 1 3)).a + 1 ≠ 2 := by
  refine ⟨rfl, Or.inr ⟨rfl, by decide, by decide, 20, rfl, by decide⟩, ?_, by decide⟩
  unfold Ctx.completesGroup
  decide
theorem wit_BarriersArriveAndComplete_grid_two : (wsB2 16).ctx? = some (wcB2 16) ∧
    (wcB2 16).completesGroup (.grid (gridKey 0 1)) ∧ 2 ∈ (wsB2 16).liveGroups (.grid (gridKey 0 1)) ∧
    2 ∉ ((wsB2 16).bar (.grid (gridKey 0 1))).arrived := by
  refine ⟨rfl, ?_, by decide⟩
  unfold Ctx.completesGroup
  decide


/-! ## Queues -/

/-- The block of an open queue of four elements of 4 bytes with its slots at 0x1100, at some counts. -/
def wq (config head tail reserve take : Word) : Qcb :=
  let q : Qcb :=
    { Qcb.ofWords (qcbWords config 0x1100 0 0 8) with
      head, tail, reserve, take, free := 4 - (reserve - head), pwait := 0xFFFFFFFF, cwait := 0xFFFFFFFF }
  { q with check := q.checkWord }

/-- The block stands at 0x1000; a batch of lane 3 is at an operation on it. -/
def wsQ (q : Qcb) : State :=
  { wsM with mem := (wsM.homeWrite 0x1000 (bytesOf q.words)).mem }
def wcQ (q : Qcb) : Ctx := { wcM with s := wsQ q }
def waQ (esize : BitVec 4) (data : Opnd) : QArgs := { qArgs esize data .zero with cap := 8 }
def wrQ (act : QAct) (a : QArgs) (q : Qcb) : QReq := (wcQ q).queueRequest act a (.mem 0x1000)

/-- Whether an access has been answered with a place. -/
def answers (e : Except Stop Place) (p : Place) : Bool :=
  match e with
  | .ok q => decide (q = p)
  | .error _ => false
theorem of_answers {e : Except Stop Place} {p : Place} (h : answers e p = true) : e = .ok p := by
  cases e with
  | ok q => exact congrArg Except.ok (of_decide_eq_true h)
  | error _ => cases h

/-- What every clause of `QueueHomeEffects` asks of the request. -/
def queueBase (pa : Nat) (r : QReq) (s : State) : Bool :=
  decide (r.place = .mem pa) && isDevice pa && (s.core r.core).fifo.isEmpty &&
  ((List.range 64).all fun i => !(s.core r.core).covers ((pa + i) / 16)) &&
  (s.queue pa).producers.isEmpty && (s.queue pa).consumers.isEmpty &&
  decide (refSpace r.ref = r.acc.cap.space) && decide (r.holder.ctx.toNat % 8 = r.part)
/-- A queue in the queue table, whose slots stand there too. -/
def wgQT : Group := wgM.setCap 8 (Cap.spanning 4 0x5F 0x1000 0x1000)
def tableAt : Nat := 0x80001000
def wsQT (q : Qcb) : State :=
  { wsM with mem := (wsM.homeWrite tableAt (bytesOf q.words)).mem, groups := ⟨[(1, wgQT)]⟩ }
def wrQT (act : QAct) (a : QArgs) (q : Qcb) : QReq :=
  ({ wcM with s := wsQT q, g := wgQT } : Ctx).queueRequest act a (.mem tableAt)
theorem wit_QueueHomeEffects_enq : let q := wq 0x22 0xFFFFFFFF 0 0 0
    let r := wrQT .enq (waQ 2 (.v 0)) q
    queueBase tableAt r (wsQT q) = true ∧ (wsQT q).blockAt tableAt = q ∧ q.full = false ∧ q.tail = q.reserve ∧
    ((wsQT q).queue tableAt).committed = [] ∧ [(7 : Word)].length * 4 = 2 ^ q.esz ∧
    (wsQT q).slotAt r q q.reserve { w := true } = some 0x80001100 ∧ tableAt + 64 ≤ 0x80001100 ∧
    (∀ i < 4, (wsQT q).reachable (0x80001100 + i) = true) := by decide
theorem wit_QueueHomeEffects_deq : let q := wq 0x22 0 1 1 0
    let r := wrQT .deq (waQ 2 (.v 4)) q
    queueBase tableAt r (wsQT q) = true ∧ (wsQT q).blockAt tableAt = q ∧ q.empty = false ∧
    q.take.toNat ∉ ((wsQT q).queue tableAt).void ∧ ((wsQT q).queue tableAt).done = [] ∧ q.head = q.take ∧
    (wsQT q).acquireOk r.part r.core r.scope r.place = true ∧ (wsQT q).slotAt r q q.take { w := true } = some 0x80001100 ∧ (wsQT q).homePoison 0x80001100 4 = false ∧
    (wsQT q).reachable 0x80001100 = true := by decide
theorem wit_QueueHomeEffects_counts : let q := wq 0x22 0 2 3 1
    queueBase 0x1000 (wrQ .rsv (waQ 2 (.v 4)) q) (wsQ q) = true ∧ queueBase 0x1000 (wrQ .take (waQ 2 (.v 4)) q) (wsQ q) = true ∧
    (wsQ q).blockAt 0x1000 = q ∧ q.full = false ∧ q.empty = false ∧ (wsQ q).acquireOk 0 0 .clu (.mem 0x1000) = true ∧
    q.take.toNat ∉ ((wsQ q).queue 0x1000).void ∧ q.free = BitVec.ofNat 32 q.cap - (q.reserve - q.head) := by decide
/-- The record of a release by core 5 at `.core` stands at the block's line. -/
theorem wit_QueueHomeEffects_refused : let q := wq 0x22 0 2 3 1
    let s := (wsQ q).homeRecord { line := 32, scope := .core, part := 0, core := 5 }
    queueBase 0x1000 (wrQ .take (waQ 2 (.v 4)) q) s = true ∧ q.empty = false ∧
    s.acquireOk (wrQ .take (waQ 2 (.v 4)) q).part 0 .clu (.mem 0x1000) = false := by decide
theorem wit_QueueHomeEffects_full : let q := wq 0x22 0 2 4 2
    queueBase 0x1000 (wrQ .enq (waQ 2 (.v 0)) q) (wsQ q) = true ∧ queueBase 0x1000 (wrQ .deq (waQ 2 (.v 4)) q) (wsQ q) = true ∧
    (wsQ q).blockAt 0x1000 = q ∧ q.full = true ∧ q.empty = true ∧
    (wrQ .enq (waQ 2 (.v 0)) q).blk = false ∧ q.free = BitVec.ofNat 32 q.cap - (q.reserve - q.head) := by decide
theorem wit_QueueHomeEffects_commit : let q := wq 0x22 0 1 2 1
    let s := (wsQ q).setQueue 0x1000 { QHome.reset with reserved := ⟨[(1, { ctx := 0x10000, team := 1, group := 1 })]⟩ }
    queueBase 0x1000 (wrQ .cmt (waQ 2 (.v 0)) q) s = true ∧ queueBase 0x1000 (wrQ .done (waQ 2 (.v 0)) q) s = true ∧
    s.blockAt 0x1000 = q ∧ q.reserve ≠ q.tail ∧ q.take ≠ q.head ∧ (s.queue 0x1000).committed = [] ∧
    (s.queue 0x1000).done = [] ∧
    ((s.queue 0x1000).reserved.find? q.tail.toNat).map (·.ctx) = some (wrQ .cmt (waQ 2 (.v 0)) q).holder.ctx ∧
    q.free = BitVec.ofNat 32 q.cap - (q.reserve - q.head) := by decide
theorem wit_QueueHomeEffects_close : let q := wq 0x22 0 1 2 1
    queueBase 0x1000 (wrQ .stat (waQ 5 (.v 4)) q) (wsQ q) = true ∧ queueBase 0x1000 (wrQ .close (waQ 2 (.v 0)) q) (wsQ q) = true := by
  decide

/-- The batch can ask its queue. -/
theorem wit_QueueInstructionsComplete :
    let q := wq 0x822 0 1 1 0
    ∀ x ∈ [(QAct.enq, waQ 2 (.v 0)), (.deq, waQ 2 (.v 4)), (.rsv, waQ 2 (.v 4)), (.cmt, waQ 2 (.v 0)),
        (.take, waQ 2 (.v 4)), (.done, waQ 2 (.v 0)), (.stat, waQ 5 (.v 4)), (.close, waQ 2 (.v 0))],
      (wcQ q).QueueReady x.1 x.2 (.mem 0x1000) := by
  intro q x hx
  simp only [List.mem_cons, List.not_mem_nil, or_false] at hx
  unfold Ctx.QueueReady State.QueueAdmits
  rcases hx with h | h | h | h | h | h | h | h <;> subst h <;>
    exact ⟨by decide, one_lane ⟨by first | exact trivial | (refine ⟨by decide, by decide, ?_⟩; decide),
      by decide, by decide, by decide, by decide⟩, ⟨by decide, of_answers (by decide)⟩, fun _ => by decide⟩

/-- What becomes of a request: complete without a fault, parked, or turned away. -/
def endIs (e : QEnd) (n : Nat) : Bool :=
  match e with
  | .complete w => n == 0 && w.faults.isEmpty && (w.results.map (·.lane) == [3] || w.results.isEmpty || w.results.map (·.lane) == [0])
  | .parked => n == 1
  | .full => n == 2

/-- A queue that admits waiting. -/
def wqB : Qcb := wq 0x822 0 0 0 0
def waQB (data : Opnd) : QArgs := { waQ 2 data with blk := true }
def wwait : QWait :=
  { party := .group 1, holder := { ctx := 0x10000, team := 1, group := 1 }, op := .deq, active := [3]
    lanes := [(3, [])], results := [], faults := [], pc := loadPc, core := 0, scope := .clu, qref := 0x1000000000001000
    args := some (waQB (.v 4)) }
theorem wit_QueueInstructionsComplete_ends :
    let q := wq 0x822 0 1 1 0
    endIs ((wcQ q).queueRun .rsv (waQ 2 (.v 4)) (.mem 0x1000)).2 0 = true ∧
    endIs ((wcQ wqB).queueRun .deq (waQB (.v 4)) (.mem 0x1000)).2 1 = true := by decide
/-- A wait table of 256 entries turns the next away (R177). -/
theorem wit_QueueInstructionsComplete_full :
    let s := (wsQ wqB).setQueue 0x1000 { QHome.reset with consumers := List.replicate 256 { wwait with active := [2] } }
    endIs (({ wcM with s } : Ctx).queueRun .deq (waQB (.v 4)) (.mem 0x1000)).2 2 = true := by decide +kernel
/-- A batch whose operation has been served, and one whose retry is due. -/
theorem wit_QueueInstructionsComplete_served :
    let g := wgM.modFibre 3 fun f => { f with wait := some (.queue 0x1000) }
    let w := { wwait with lanes := [], results := [{ lane := 3, ok := true, words := [7] }] }
    let s : State := { (wsQ wqB).setQueue 0x1000 { QHome.reset with served := [w] } with groups := ⟨[(1, g)]⟩ }
    let c : Ctx := { wcM with s, g }
    s.ctx? = some c ∧ c.parkedAt = some 0x1000 ∧
    (s.queue 0x1000).served.find? (fun w => w.party == .group c.gid && w.active == c.is.lanes) = some w ∧
    w.faults = [] ∧ (w.results.map (·.lane)).Nodup ∧ (∀ r ∈ w.results, r.lane ∈ c.is.lanes) := ⟨rfl, by decide⟩
theorem wit_QueueInstructionsComplete_retry :
    let g := wgM.modFibre 3 fun f => { f with wait := some (.queueRetry 0) }
    let s : State := { (wsQ wqB).setQueue 0x1000 { QHome.reset with held := [wwait] } with groups := ⟨[(1, g)]⟩ }
    s.retryDue (.group 1) [3] = true ∧ s.heldOf (.group 1) [3] = some (0x1000, wwait) := by decide

/-- The operations of a stream: data in a scalar, the block at the cursor. -/
def wcSQ (q : Qcb) : SCtx :=
  { wcSM with s := { wsSM with mem := (wsM.homeWrite 0x1000 (bytesOf q.words)).mem } }
def waSQ (act : QAct) : QArgs :=
  { waQ (if act = .stat then 5 else 2) (if act = .init then .u 8 else .u 4) with scope := .dev }
theorem wit_QueueInstructionsComplete_stream : ∀ act ∈ [QAct.enq, .deq, .rsv, .cmt, .take, .done, .stat, .close],
    (wcSQ (wq 0x822 0 1 1 0)).QueueReady act (waSQ act) (.mem 0x1000) := by
  intro act hx
  simp only [List.mem_cons, List.not_mem_nil, or_false] at hx
  unfold SCtx.QueueReady State.QueueAdmits
  have nw : ∀ k, (wcSQ (wq 0x822 0 1 1 0)).st.wait ≠ some (.queue k) := fun _ h => (nomatch h)
  rcases hx with h | h | h | h | h | h | h | h <;> subst h <;>
    exact ⟨nw, by decide, by first | exact fun _ => ⟨4, rfl, by decide, by decide⟩ | exact fun h => absurd rfl h, by decide,
      ⟨by decide, of_answers (by decide)⟩, fun _ => by decide⟩
theorem wit_QueueInstructionsComplete_stream_ends :
    endIs ((wcSQ (wq 0x822 0 1 1 0)).queueRun .rsv (waSQ .rsv) (.mem 0x1000)).2 0 = true ∧
    endIs ((wcSQ wqB).queueRun .deq { waSQ .deq with blk := true } (.mem 0x1000)).2 1 = true := by decide

/-- Where no queue stands yet, `qinit` is admitted: a configuration run in k8 to k12. -/
def wgI : Group := withK (withK wgM 8 0x22) 9 0x1100
def wcI : Ctx := { demoCtx wgI [3] with s := { wsM with groups := ⟨[(1, wgI)]⟩ } }
def waI : QArgs := { waQ 0 (.u 8) with scope := .dev }
theorem wit_QueueInstructionsComplete_init :
    (wcI.parkedAt = none ∧
      (∀ l ∈ wcI.is.eff, ((∃ i, waI.data = .u i) ∧ wcI.within l waI.data 5 = true ∧
        (wcI.operand l waI.data 5 0).poison = false) ∧ waI.aux.isUniform = true ∧ wcI.inBounds l waI.aux 1 = true) ∧
      wcI.s.Leads wcI.accessor (wcI.queueRequest .init waI (.mem 0x1000)).acc (.mem 0x1000)) ∧
    wcI.s.InitAdmits (wcI.queueRequest .init waI (.mem 0x1000))
      (groupInit (wcI.operand (wcI.is.eff.headD 0) waI.data 5 0).elems) := by
  refine ⟨⟨by decide, one_lane ⟨⟨⟨8, rfl⟩, by decide, by decide⟩, by decide⟩, ⟨by decide, of_answers (by decide)⟩⟩, ?_⟩
  unfold State.InitAdmits
  decide
def wstI : Stream := { wst with s := (wst.s.put SReg.zero 8 ⟨0x22, false, false⟩).put SReg.zero 9 ⟨0x1100, false, false⟩ }
def wcSI : SCtx :=
  { wcSM with
    st := wstI
    s := { wsSM with cores := ⟨[(0, { Core.reset with tlb := [dataPage], stream := some wstI })]⟩ } }
theorem wit_QueueInstructionsComplete_stream_init :
    wcSI.s.Streams wcSI ∧ wcSI.QueueReady .init waI (.mem 0x1000) ∧
    wcSI.s.InitAdmits (wcSI.queueRequest .init waI (.mem 0x1000)) (stokerInit (wcSI.queueData .init waI)) := by
  refine ⟨rfl, ?_, ?_⟩
  · unfold SCtx.QueueReady
    exact ⟨fun _ h => (nomatch h), by decide, fun _ => ⟨8, rfl, by decide, Or.inl rfl⟩, by decide,
      ⟨by decide, of_answers (by decide)⟩, fun h => absurd rfl h⟩
  · unfold State.InitAdmits
    decide


/-! ## Class 8: engines -/

/-- Whether a check has been passed with a result of some kind. -/
def okWith {ε α : Type} (e : Except ε α) (p : α → Bool) : Bool :=
  match e with
  | .ok x => p x
  | .error _ => false
theorem ok_of_okWith {ε α : Type} {e : Except ε α} {p : α → Bool} (h : okWith e p = true) : ∃ x, e = .ok x := by
  cases e with
  | ok x => exact ⟨x, rfl⟩
  | error _ => cases h

theorem wit_CopiesAreAcceptedAndComplete_cp : wcM.covered = false ∧
    copySpaces .into (wcM.g.cap 8).space (wcM.g.cap 0).space = true ∧
    ∀ l ∈ wcM.is.eff, wcM.indexReady l .zero = true ∧
      wsM.Leads wcM.accessor (wcM.cpAccess 8 .zero 1020 16 Cap.ld { rd := true } l) (.mem 0x1FF0) ∧
      wsM.Leads wcM.accessor (wcM.cpAccess 0 .zero 0 16 Cap.st { w := true } l) (.pad 1 0) :=
  ⟨by decide, by decide, one_lane ⟨by decide, ⟨by decide, of_answers (by decide)⟩, ⟨by decide, of_answers (by decide)⟩⟩⟩

/-- A record of one element in one dimension through a capability register. -/
def wrecord (creg space fmt : Nat) : List Byte :=
  ((List.range 64).map fun i =>
    if i = 8 then creg + 16 * space else if i = 0x10 then fmt
    else if i = 0x14 ∨ i = 0x16 ∨ i = 0x18 ∨ i = 0x1A ∨ i = 0x2D ∨ i = 0x2E ∨ i = 0x30 ∨ i = 0x31 then 1 else 0).map
    fun n => BitVec.ofNat 8 n
def wshapeOf (k : Cap) (creg space fmt : Nat) : Shape := shapeOf (wrecord creg space fmt) k
/-- Records at 0x1000 and 0x1040, with capabilities in c9 and c10. -/
def wsRec : State :=
  let g := (wgM.setCap 9 (Cap.spanning 1 1 0x1000 0x40)).setCap 10 (Cap.spanning 1 1 0x1040 0x40)
  { wsM with
    mem := ((wsM.homeWrite 0x1000 (wrecord 8 1 12)).homeWrite 0x1040 (wrecord 0 2 12)).mem, groups := ⟨[(1, g)]⟩ }
def wcRec : Ctx :=
  { wcM with s := wsRec, g := (wgM.setCap 9 (Cap.spanning 1 1 0x1000 0x40)).setCap 10 (Cap.spanning 1 1 0x1040 0x40) }
theorem wit_CopiesAreAcceptedAndComplete_cpt :
    let x := wshapeOf dataCap 8 1 12
    let y := wshapeOf (wcRec.g.cap 0) 0 2 12
    wcRec.covered = false ∧ Opnd.isUniform .zero = true ∧ wcRec.inBounds 3 .zero 2 = true ∧
    okWith (wcRec.cptRecord 9) (fun h => h.1 == x) = true ∧ okWith (wcRec.cptRecord 10) (fun h => h.1 == y) = true ∧
    okWith (wsRec.cptCheck wcRec.accessor .into x y (Elem.zero, coordOf (wcRec.operand 3 .zero 2 0).value)
      { code := 0x0E, detail := 1, operand := fIndex }) (fun ms => ms.length == 1) = true := by decide +kernel
theorem wit_CopiesAreAcceptedAndComplete_wait : wsM.counter wcM.g .vm ≤ 0 ∧
    (∀ x ∈ wcM.g.pending, x.cls ≠ .vm) ∧
    (let g := { wgM with ci := [{ joined := 0, running := [1], isOpen := true, faults := [], dests := [] }] }
     0 < wsM.counter g .ci) := by decide
/-- A copy of the group that moves one granule. -/
def wcopy : Copy :=
  { id := 7, party := .group 1, team := 1, cls := .ci, scope := .core, lost := none, cut := []
    moves := [{ src := .mem 0x1000, dst := .mem 0x2000, size := 16, l6 := none, tags := true, va := 0x2000 }] }
def wsCp : State := { wsM with cores := ⟨[(0, { Core.reset with tlb := [dataPage], copies := [wcopy] })]⟩ }
theorem wit_CopiesAreAcceptedAndComplete_done : wsCp.groups.find? 1 = some wgM ∧
    wsCp.copyOf (.group 1) 7 = some (0, wsCp.core 0, wcopy) ∧ wcopy.lost = none ∧
    wcopy.cut = [] ∧ wsCp.padOwes 7 = false ∧
    wsCp.gatesClosed (wsCp.gates (wcopy.moves.map (·.src))) = true ∧ 0x1000 % 16 + 16 ≤ 16 ∧ 0x2000 % 16 + 16 ≤ 16 ∧
    (wsCp.core 0).covers 0x100 = false ∧ (wsCp.core 0).covers 0x200 = false ∧ wsCp.reachable 0x2000 = true := by decide

/-- The same copy of the stream of the core. -/
def wcopyS : Copy := { wcopy with party := .stoker 0 }
def wstCp : Stream := { wst with ci := [7] }
def wsCpS : State :=
  { wsM with cores := ⟨[(0, { Core.reset with tlb := [dataPage], stream := some wstCp, copies := [wcopyS] })]⟩ }
theorem wit_CopiesAreAcceptedAndComplete_stream_done : (wsCpS.core 0).stream = some wstCp ∧
    wsCpS.copyOf (.stoker 0) 7 = some (0, wsCpS.core 0, wcopyS) ∧
    ((wsCpS.core 0).copies.filter fun x => x.party == wcopyS.party && x.cls == wcopyS.cls).head? = some wcopyS ∧
    wcopyS.lost = none ∧ wcopyS.cut = [] ∧ wsCpS.padOwes 7 = false ∧
    wsCpS.gatesClosed (wsCpS.gates (wcopyS.moves.map (·.src))) = true := by decide

/-- A stream with two shapes, both in the scratchpad. -/
def wshape : Shape := wshapeOf (padCap 1024) 0 2 12
def wstM : Stream := { wst with slots := ⟨[(0, wshape), (1, wshape), (2, wshapeOf dataCap 8 1 12)]⟩ }
def wcSR : SCtx :=
  { wcS wstM with
    s := { wsRec with
           cores := ⟨[(0, { Core.reset with tlb := [dataPage], stream := some wstM })]⟩, issue := some wissueS }
    g := wcRec.g }
theorem wit_streamsR : wcSR.s.Streams wcSR := rfl
theorem wit_StreamInstructionsComplete_stoke : wc.t.isMatrix = true ∧
    targetOk wc.gr (wc.is.pc.toNat + 8 * (2 : Int)) = true ∧ (ws.core wc.g.core).stream = none ∧
    (({ ws with cores := ⟨[(0, { Core.reset with stream := some wst })]⟩ } : State).core 0).stream ≠ none := by decide
theorem wit_StreamInstructionsComplete_sfin : wcSR.st.ci = [] ∧ wcSR.st.co = [] ∧ (wcSR.s.core 0).matq = [] ∧
    wcSR.st.pending = [] ∧ { wcSR.st with ci := [4] }.ci ≠ [] := by decide
theorem wit_StreamInstructionsComplete_loop :
    let st := { wst with loops := [{ first := loadPc, last := loadPc + 24, left := 2 }] }
    ∀ c ∈ [wcS wst, wcS { st with s := st.s.put SReg.zero 4 ⟨3, false, false⟩ }],
    ∀ n ∈ [Opnd.zero, .u 4], sReady [n] false = true ∧ (c.operand n .n32 0).2 = false ∧
    ∀ x ∈ c.st.loops.head?, c.is.pc.toNat + 8 * 3 ≤ x.last.toNat := by decide
theorem wit_StreamInstructionsComplete_shpld :
    let a : MArgs := { ty := .b32, scope := .core, cache := .dflt, order := .relaxed, cap := 9, data := .zero
                       index := .zero, shift := 0, imm := 0 }
    wcSR.s.Leads wcSR.accessor { wcSR.accessOf a Cap.ld { rd := true } with size := 64, align := 64 } (.mem 0x1000) ∧
    ((wcSR.g.cap 9).space = 1 ∧ wcSR.s.readLost (.mem 0x1000) = none ∧
      ((wcSR.s.ownFirst 0 (.mem 0x1000) 64).engineRead (.mem 0x1000) 64).1 = (wrecord 8 1 12, false) ∧
      okWith (loadShape (wrecord 8 1 12) wcSR.g.cap) (fun h => h == wshapeOf dataCap 8 1 12) = true) :=
  ⟨⟨by decide, of_answers (by decide)⟩, by decide +kernel⟩
theorem wit_StreamInstructionsComplete_cpt : wcSR.st.ci.length < 16 ∧ sReady [.zero] false = true ∧
    (wcSR.operand .zero .n64 0).2 = false ∧ wcSR.st.slots.find? 2 = some (wshapeOf dataCap 8 1 12) ∧
    wcSR.st.slots.find? 0 = some wshape ∧
    okWith (wcSR.s.cptCheck wcSR.accessor .into (wshapeOf dataCap 8 1 12) wshape
      (Elem.zero, coordOf (wcSR.operand .zero .n64 0).1) { code := 0x0E, detail := 5, operand := fIndex })
      (fun ms => ms.length == 1) = true := by decide
theorem wit_StreamInstructionsComplete_wait : wcSR.counter .ci ≤ 0 ∧ (∀ x ∈ wcSR.st.pending, x.cls ≠ .ci) ∧
    0 < (wcS { wst with ci := [4] }).counter .ci := by decide
theorem wit_StreamInstructionsComplete_mma : (wcSR.s.core 0).matq.length < 8 ∧
    okWith (wcSR.matCheck ⟨5, .ovr, false, 0, 1, .zero, .zero, false, false⟩ false) (fun m => m.k == 1) = true := by decide
/-- Shapes of a convolution of one element: three dimensions, the last of which is the column. -/
theorem wit_StreamInstructionsComplete_mconv :
    let h : Shape := { wshape with ndim := 2, cmask := 4, ext := [1, 1, 1, 1], stride := [1, 1, 1, 0] }
    okWith ((wcS { wst with slots := ⟨[(0, h), (1, wshape)]⟩ }).matCheck ⟨5, .ovr, false, 0, 1, .zero, .zero, false, false⟩ true)
      (fun m => m.k == 1) = true := by decide

/-- A tile with a tag, and a register of the same tag. -/
def wgT : Group := withV wg 0 3 0x3F800000 .f32
def wsTile : State :=
  { demoOf wgT [3] with cores := ⟨[(0, { Core.reset with tileTags := ⟨[(5, Tag.of .f32)]⟩ })]⟩ }
def wcTile : Ctx := { demoCtx wgT [3] with s := wsTile }
theorem wit_TilesAreReadAndWritten : wsTile.RunsIn wcTile := ⟨rfl, by decide⟩
theorem wit_TilesAreReadAndWritten_rows : let a : TArgs := ⟨.f32, 5, .v 0, .zero, 7⟩
    wsTile.upsets.tile = [] ∧ (∀ l ∈ wcTile.is.eff, ((Opnd.v 0).isReg && !(Opnd.v 0).isUniform) = true ∧
      wcTile.inBounds l (.v 0) 1 = true ∧ wcTile.tileReady l a = true ∧ wcTile.mayWrite l (.v 0) 1 = true) ∧
    (wsTile.core 0).tileTag 5 = Tag.of .f32 ∧
    (∀ l ∈ wcTile.is.eff, wcTile.readable l (.v 0) 1 = true ∧ wcTile.g.tag (wcTile.reg l (.v 0)) l = Tag.of .f32) := by
  decide
/-- A matrix command of two rows, two columns and two products. -/
def wmat : MatCmd :=
  { id := 1, tile := 63, mode := .acc, m := 2, n := 2, k := 2, fmtA := .s8, fmtB := .s8, a := [some 1, some 2, some 3, some 4]
    b := [some 5, some 6, some 7, some 255], masked := [false, false, false, false], poisonA := [], poisonB := []
    scaleA := [], scaleB := [], gamma := SReg.zero, gates := [] }
theorem wit_TilesAreReadAndWritten_matrix :
    let s : State := { ws1 with cores := ⟨[(0, { Core.reset with matq := [wmat] })]⟩ }
    (s.core 0).matq = [wmat] ∧ s.gatesClosed wmat.gates = true ∧ s.padOwes wmat.id = false ∧ s.upsets.tile = [] ∧ s.upsets.matrix = [] ∧
    wmat.m ≤ 64 ∧ wmat.n ≤ 64 ∧ pairFormat .s8 .s8 = some .s32 ∧ wmat.masked.getD (1 * 2 + 1) false = false ∧
    wmat.rowA 1 = [some 3, some 4] ∧ wmat.colB 1 = [some 6, some 255] := by decide
/-- R67: 3 × 6 + 4 × −1, added to 100. -/
theorem test_matrix_element : (wmat.element 1 1 { bits := 100, poison := false }).bits = 114 := by decide


/-! ## Class 9 -/

theorem wit_CountersAndSpecialRegistersRead : (∀ l ∈ wc.is.eff, wc.regReady l (.u 20) 2 = true) ∧
    (∀ l ∈ wc.is.eff, wc.regReady l (.v 607) 1 = true) ∧ (∀ i ∈ [0, 7], (wc.counter (0x040 + i)).isSome = true) ∧
    (wc.counter 0x019).isSome = true ∧ wc.g.flights = [] ∧
    (∀ i ∈ [0, 4, 5, 0x49], ∀ l ∈ wc.is.eff, (wc.specialReg l i).elim false (fun x => x.1 == 1) = true) ∧
    (∀ i ∈ [1, 2, 3, 6, 0x10], ∀ l ∈ wc.is.eff, (wc.specialReg l i).elim false (fun x => x.1 == 2) = true) ∧
    (∀ l ∈ wc.is.lanes, (wc.fibre? l).isSome = true) ∧ (ws.core 0).sampled = [] ∧ wc.g.sampled = [] ∧
    (let k := { ws.core 0 with sampled := coreSelectors.filterMap (ws.coreCounter 0 0) }
     let g := { wg with sampled := groupSelectors.filterMap (ws.groupCounter wg loadGrid) }
     k.sampled ≠ [] ∧ g.sampled ≠ []) := by decide
/-- A fibre in its handler, with values in v0 to v3. -/
def wgH : Group :=
  (withV (withV wgM 2 3 0x4008 .n64) 3 3 0 .n64).modFibre 3 fun f => { f with handler := true, trapMask := 1 }
def wcH : Ctx := { demoCtx wgH [3] with s := { wsM with groups := ⟨[(1, wgH)]⟩ } }
theorem wit_SystemWritesComplete : wcH.s.ctx? = some wcH ∧ wcH.handler = true ∧ wcM.handler = false ∧
    (∀ l ∈ wcH.is.eff, wcH.sourceReady none l { o := .v 2, ty := .n64, field := fS1 } = true ∧
      (wcH.operand l (.v 2) 2 0).poison = false) ∧
    ∀ l ∈ wcH.is.eff, (wcH.sourceReady none l { o := .v 0, ty := .n32, field := fS1 } = true ∧
      (wcH.operand l (.v 0) 1 0).poison = false) := ⟨rfl, by decide⟩
theorem wit_SystemWritesComplete_tlbinv : ∀ n ∈ [0, 3, 15], (n < 4 ∨ n = 15) ∧ wc.is.eff.head? = some 0 ∧
    wc.inBounds 0 (.u 94) 2 = true ∧ (wc.operand 0 (.u 94) 2 0).poison = false := by decide
/-- The partition allows `errinj`, and does not. -/
def wcErr : Ctx :=
  { wcM with s := { wsM with parts := ⟨[(0, { wsM.part 0 with errinj := true })]⟩ } }
theorem wit_SystemWritesComplete_errinj : wcErr.s.ctx? = some wcErr ∧ (wcErr.s.part wcErr.gr.part).errinj = true ∧
    wcErr.Reaches 8 .zero 0 0xFFF 1 (fun _ => Cap.st) { w := true } (fun _ => .mem 0x1FFF) ∧
    wcErr.Reaches 0 .zero 0 0 1 (fun _ => Cap.st) { w := true } (fun _ => .pad 1 0) ∧
    (∀ p ∈ [Place.mem 0x1FFF, .pad 1 0], wcErr.s.placeLost p = none) ∧ isDevice 0x1FFF = true ∧ wcErr.s.teams.find? 1 = some loadTeam ∧
    (wsM.part 0).errinj = false := by
  refine ⟨rfl, by decide, ?_, ?_, by decide⟩
  · exact one_lane ⟨by decide, by decide, of_answers (by decide)⟩
  · exact one_lane ⟨by decide, by decide, of_answers (by decide)⟩

/-! ## Encoding and the step -/

theorem wit_DecodeEncodeAgree : let i := Instr.add (vArgs .s32 (.v 607) (.n 31) (.u 95) (.v 0))
    i.wf = true ∧ i.legal = true ∧ (encode i).isSome = true := by decide
theorem wit_DecodeEncodeAgree_unallocated : let w : Dword := 0xFFFFFFFFFFFFFFFF
    (Instr.unallocatedOpcode w).wf = true ∧ (Instr.unallocatedOpcode w).legal = true ∧
    encode (.unallocatedOpcode w) = some w ∧
    (match parse (opcodeOf w) (w.toNat % 2 ^ 54) with | .unallocated => true | _ => false) = true := by decide

/-- The machine with `nop` at the program counter: a batch is chosen, and its fetch finds the word. -/
def wsStep : State := State.reset.withFetchWord 64 0
/-- The fetch of a word is admitted and finds it. -/
def fetches (s : State) (core : Nat) (gr : Grid) (walks : List WalkResult) (pc : Addr) (w : Dword) : Bool :=
  gr.kernel.code.base ≤ pc.toNat && pc.toNat + 8 ≤ gr.kernel.code.limit &&
  okWith (s.translate core gr.part walks pc.toNat { x := true } (fetchFault pc 0x0B 0)) fun pa =>
    decide (wordOfBytes (s.homeBytes pa 8) = w)
theorem wit_StepExecutes : wsStep.held = false ∧ (match wsStep.next with
    | .issue (.batch _ r mates) => mates.isEmpty && fetches wsStep r.b.g.core r.gr (r.b.g.walksFor r.b.lanes) r.b.f.pc 0 &&
      (r.b.g.unheaded r.b.lanes 0).isEmpty
    | _ => false) = true ∧ encodingFault false 0 = none ∧ read 0 = some .nop := by decide
/-- `sfin` as the next word of a stream. -/
theorem wit_StepExecutes_stream : let w : Dword := BitVec.ofNat 64 (0x208 * 2 ^ 54)
    let s := State.reset.withFetchWord 64 (0x208 * 2 ^ 54)
    (match s.next, (s.core 0).stream with
      | .issue (.stream 0), some st => fetches s 0 loadGrid st.walks st.pc w &&
        decide (s.groups.find? st.owner = some { loadGroup with fibres := ⟨[]⟩ })
      | _, _ => false) = true ∧ encodingFault true w = none ∧ read w = some .sfin := by decide
/-- A second batch of a packed issue. -/
theorem wit_StepExecutes_pack :
    let s := wsStep.modCore 0 fun k => { k with packing := [(1, [0, 1, 2, 3, 4, 5, 6, 7], 0)] }
    (match s.next with | .pack core => core == 0 | _ => false) = true ∧
    (let u := s.modCore 0 fun k => { k with packing := [] }
     (u.runners 0).find? (fun r => r.is 1 [0, 1, 2, 3, 4, 5, 6, 7] && u.instrReady r.gr r.b)).isSome = true := by decide
/-- An event that is due, and one from outside. -/
theorem wit_StepExecutes_event :
    let g := { loadGroup with fibres := ⟨[]⟩ }
    let s : State := { State.reset.loadWord 0 with groups := ⟨[(1, g)]⟩ }
    (match s.next with | .event e => e == .groupEnd 1 | _ => false) = true := by decide
theorem wit_StepExecutes_input :
    let s : State := { State.reset with inputs := [.status], schedule := [] }
    (match s.next with | .input => true | _ => false) = true ∧ s.inputs = [.status] := by decide
theorem wit_StepKeepsInvariant : wsStep.Inv ∧ (match step wsStep with | .next _ => true | _ => false) = true := by
  unfold State.Inv
  decide


/-! ## Events of cores, memories and translation -/

/-- A group that waits for a place: its fibres stand where a header must stand. -/
def wgOut : Group := { loadGroup.mapFibres (fun f => { f with needHdr := true, strand := 0 }) with active := false }
def wsEnter : State := { State.reset.loadWord 0 with groups := ⟨[(1, wgOut)]⟩ }
theorem wit_CoreEventsComplete_entry : wsEnter.groups.find? 1 = some wgOut ∧
    wsEnter.firstToEnter wgOut.core = some 1 ∧ (wsEnter.activeOn wgOut.core).length < 16 := by decide
/-- Sixteen groups that wait for a barrier stand in the active set. -/
def wgHeld : Group := loadGroup.mapFibres fun f => { f with needHdr := true, wait := some (.barrier 0) }
def wsFull : State :=
  { wsEnter with groups := ⟨(1, wgOut) :: (List.range 16).map fun i => (i + 2, wgHeld)⟩ }
theorem wit_CoreEventsComplete_exchange : wsFull.firstToEnter 0 = some 1 ∧
    16 ≤ (wsFull.activeOn 0).length ∧
    (((wsFull.activeOn 0).find? fun p => wsFull.mayLeave p.2).map (·.1)) = some 2 := by decide
theorem wit_CoreEventsComplete_eviction :
    let s : State :=
      { wsEnter with
        groups := ⟨[(1, wgOut), (2, loadGroup)]⟩
        clusters := ⟨[(0, { Cluster.reset with cycles := 8192 })]⟩ }
    s.groups.find? 2 = some loadGroup ∧ s.evictionDue 2 loadGroup = true := by decide
/-- A load in flight with a result for one lane, and an access without one. -/
def wflight : Flight :=
  { id := 9, lanes := [3], writes := [{ reg := .v 4, lane := 3, elem := { bits := 5, poison := false } }]
    regs := [.v 4], tag := Tag.of .n32, quad := [], quads := [], unit := true, gates := [] }
def wgL : Group := { wg with flights := [wflight], vm := [{ id := 9, done := false }, { id := 10, done := false }] }
theorem wit_CoreEventsComplete_load : (demoOf wgL [0]).groups.find? 1 = some wgL ∧
    wgL.flights.find? (fun x => x.id == 9) = some wflight ∧ (demoOf wgL [0]).gatesClosed wflight.gates = true ∧
    (∀ id ∈ [9, 10], (demoOf wgL [0]).padOwes id = false) ∧ (∀ w ∈ wflight.writes, w.lane < 64) ∧ (∃ u ∈ wgL.vm, u.id = 10 ∧ u.done = false) ∧
    ∀ f ∈ wgL.flights, f.id ≠ 10 := by decide
/-- An L1 with one block of which one byte has been written. -/
def wword : L1Word :=
  { data := 0x55, full := true, mine := 1, tag := false, poison := false, hurt := false, whole := false, touched := true }
def wblock : L1Block :=
  { words := [wword]
    keep := false, pcIdx := 0, rel := none }
def wkL1 : Core := { Core.reset with l1 := ⟨[(0x100, wblock)]⟩, fifo := [.block 0x100] }
theorem wit_CoreEventsComplete_l1 : wkL1.fifo = [.block 0x100] ∧ wkL1.l1.find? 0x100 = some wblock ∧
    wblock.words[0]? = some wword ∧
    ({ ws1 with cores := ⟨[(0, wkL1)]⟩ } : State).reachable (16 * (0x100 + 0)) = true ∧
    (1 : BitVec 16).getLsbD 0 = true := by decide
/-- Scratchpads with a parity update, with a bank to retire, and with a first and a second bank to retire. -/
theorem wit_CoreEventsComplete_pad :
    let p : Spad := { Core.reset.pad with updates := ⟨[(3, [(7, 0xFF)])]⟩ }
    let q : Spad := { Core.reset.pad with errors := ⟨[(5, List.replicate 8 100)]⟩ }
    let r : Spad := { q with retired := [4] }
    p.updates.get [] 3 = [(7, 0xFF)] ∧ q.mayRetire 5 = true ∧ r.mayRetire 5 = true ∧
    (∀ b ∈ banksOf (groupOfBank 5), b ≠ 5 → q.retired.contains b = false) := by decide
theorem wit_CoreEventsComplete_window : (State.reset.windowDue 0 0 = true ∧ State.reset.windowNow 0 = true ∨
      ({ State.reset with nominal := 4096 } : State).windowDue 0 1 = true) ∧
    (State.reset.die 0).windows.length = 8 := by decide

/-- A page table of partition 0: the root leads to a table whose first entry is a leaf at level 2. -/
def wsWalk : State :=
  let s := wsM
  let root := (s.part 0).root
  let entry := fun (a v : Nat) (s : State) => s.homeWrite a (leBytes 8 v)
  let w : Walk := { id := 4, part := 0, page := 0, cores := [0] }
  { (entry (root + 0x10000) 0x1B (entry root (root + 0x10001) s)) with dies := ⟨[(0, { Die.reset with walks := [w] })]⟩ }
theorem wit_TranslationEventsComplete_walk :
    ((wsWalk.die 0).walks.take 32).find? (fun x => x.id == 4) = some { id := 4, part := 0, page := 0, cores := [0] } ∧
    (wsWalk.walk (wsWalk.die 0).wcache 0 0).1 = .leaf 2 0x1B ∧
    (wsM.walk (wsM.die 0).wcache 0 0).1 = .absent 1 := by decide
theorem wit_TranslationEventsComplete_waiter :
    let g := wg.modFibre 3 fun f => { f with wait := some (.walk [0]) }
    let s := wsWalk.setGroup 1 g
    s.groups.find? 1 = some g ∧ dieOf g.core = 0 ∧ s.partOf g = 0 ∧
    (g.fibres.find? 3).elim false (fun f => f.wait == some (.walk [0])) = true := by decide
theorem wit_TranslationEventsComplete_inval :
    (State.reset.part 0).invreq.getLsbD 63 = false ∧ invSizeOk 0 = true ∧ invSizeOk 3 = true ∧ invSizeOk 15 = true ∧
    invSizeOk 4 = false ∧ ({ State.reset.part 0 with invreq := 0x8000000000000000 } : Part).invreq.getLsbD 63 = true := by
  decide
theorem wit_TranslationEventsComplete_done :
    let v : Invalidation := { id := 3, range := none, byHost := true }
    let s := ws1.modPart 0 fun p => { p with invals := [v] }
    (s.part 0).invals = [v] ∧ s.quiet 0 = true := by decide
/-- A fibre parked on a page, within the range that PGRESUME names. -/
theorem wit_TranslationEventsComplete_resume :
    let f : Fibre := { Fibre.start loadPc 0 0 with parked := some 0x0B, trapAddr := 0x12345 }
    f.parked = some 0x0B ∧ rangeHas (invRangeOf 0x10000) (f.trapAddr.toNat % 2 ^ 52) = true := by decide


/-! ## Events of work: groups, teams, grids, launches -/

/-- A group whose fibres have ended. -/
def wgEnd : Group := { loadGroup with fibres := ⟨[]⟩ }
def wsEnd : State := { State.reset.loadWord 0 with groups := ⟨[(1, wgEnd)]⟩ }
def wfault : PendingFault := { cls := .co, code := 0x0D, detail := 0, addr := 0 }
theorem wit_WorkEventsComplete_end : wsEnd.groups.find? 1 = some wgEnd ∧
    wsEnd.owners wgEnd = some (loadTeam, loadGrid) ∧ wsEnd.groupDone 1 wgEnd loadTeam = true ∧
    loadTeam.kill = none ∧ wgEnd.pending = [] ∧ (∀ x ∈ wsEnd.groups.cells, x.2.team = wgEnd.team → x.1 = 1) ∧
    wsEnd.groupDone 1 { wgEnd with pending := [wfault] } loadTeam = true := by decide
theorem wit_WorkEventsComplete_kill :
    let t : Team := { loadTeam with kill := some [] }
    let s : State := { State.reset.loadWord 0 with teams := ⟨[(1, t)]⟩ }
    s.teams.find? 1 = some t ∧ t.kill = some [] ∧ s.grids.find? t.grid = some loadGrid ∧
    2 ≤ ({ loadGrid with kills := ⟨[(0, 2)]⟩ } : Grid).kills.get 0 t.index := by decide
theorem wit_WorkEventsComplete_grid :
    let s : State := { State.reset.loadWord 0 with groups := ⟨[]⟩, teams := ⟨[]⟩ }
    let key := gridKey 0 1
    s.grids.find? key = some loadGrid ∧ s.teamsOf key = [] ∧ loadGrid.unplaced = [] ∧ loadGrid.image = [] ∧
    s.hasChildren key = false := by decide

/-- The page at 0 is mapped, for a virtual address below 2 MiB. -/
def wsMap : State := { wsWalk with dies := ⟨[]⟩, teams := ⟨[]⟩, groups := ⟨[]⟩, grids := ⟨[]⟩ }
theorem wit_mapped : okWith (wsMap.walkPa 0 0x3000 { rd := true } { code := 0 }) (· == 0x3000) = true := by decide
/-- A packet in the window, from its start. -/
def wfeed (s : State) (bs : List Byte) : State :=
  s.modPart 0 fun p =>
    { p with
      feed := ⟨(bs.zipIdx.filter fun x => x.1 != 0).map fun x => (x.2, x.1)⟩
      feedTail := BitVec.ofNat 32 bs.length }
def wmarker : List Byte := leBytes 4 0x10004 ++ leBytes 4 5 ++ leBytes 8 0x3000 ++ List.replicate 48 0
def wlaunch : List Byte :=
  leBytes 4 0x40001 ++ leBytes 4 7 ++ leBytes 8 0x3000 ++ leBytes 8 1 ++ List.replicate 232 0
/-- A descriptor: one group of 8 lanes on one core. -/
def wdesc : List Byte :=
  leBytes 8 0x4000 ++ leBytes 8 0x8000 ++ leBytes 8 0 ++ leBytes 8 0x10000 ++
    leBytes 8 (8 + 2 ^ 8 + 8 * 2 ^ 24 + 8 * 2 ^ 40) ++ List.replicate 24 0 ++ leBytes 4 1024 ++ leBytes 4 1 ++
    List.replicate 184 0
theorem wit_WindowEventsComplete_marker : let p := (wfeed wsMap wmarker).part 0
    p.ready 4 = some wmarker ∧ (wfeed wsMap wmarker).doneOk 0 (pktWord wmarker 8) = true ∧
    (wfeed wsMap wmarker).launchRoom 0 = true ∧ p.avail = wmarker.length ∧ pktTag wmarker ≠ 0 ∧
    (wfeed State.reset wmarker).doneOk 0 (pktWord wmarker 8) = false := by decide +kernel
theorem wit_WindowEventsComplete_launch : ((wfeed wsMap wlaunch).part 0).ready 1 = some wlaunch ∧
    ((wfeed wsMap wlaunch).part 0).avail = wlaunch.length := by decide +kernel
theorem wit_WorkEventsComplete_launch :
    okWith ((wsMap.homeWrite 0x3000 wdesc).judgeLaunch 0 wlaunch false) (fun x => x.1.cores == 1) = true ∧
    okWith (wsMap.judgeLaunch 0 wlaunch false) (fun _ => true) = false := by decide +kernel
/-- The launch queue with one element, which names a marker in the packet store. -/
theorem wit_WorkEventsComplete_take :
    let q := State.reset.blockAt 0x80000000
    let s := ((State.reset.homeWrite 0x80000000 (bytesOf { q with reserve := 1, tail := 1, free := 255 }.words)).homeWrite
      (0x80000000 + q.slotBase.toNat % 2 ^ 52) (leBytes 8 0xC0000000 ++ leBytes 8 64)).homeWrite 0xC0000000 wmarker
    (match s.takeElement 0 with
      | some (_, some x) => x.ok && x.bytes.elim false (fun bs => pktKind bs == 4)
      | _ => false) = true := by decide +kernel
/-- A grid with a team to place on a free core, alone and co-resident. -/
def wgr (co : Bool) : Grid := { loadGrid with unplaced := [0], status := .admitted, coresident := co, kernel := kernelOf wdesc }
def wsPlace (co : Bool) : State :=
  (({ wsMap with grids := ⟨[(gridKey 0 1, wgr co)]⟩ } : State).modPart 0 fun p => { p with cores := [0] })
theorem wit_WorkEventsComplete_place : ∀ co ∈ [false, true],
    (wsPlace co).grids.find? (gridKey 0 1) = some (wgr co) ∧ (wsPlace co).placeNext (gridKey 0 1) (wgr co) = true ∧
    (wgr co).status ≠ .saved ∧ [0].length = (wgr co).kernel.cores ∧
    ((wsPlace co).placeTeams (gridKey 0 1) [(0, [0])]).isSome = true := by decide +kernel

/-! ## The window and the host -/

theorem wit_WindowEventsComplete_tail : (64 : Word).toNat % 64 = 0 ∧
    countDiff 32768 (State.reset.part 0).feedHead ≤ 32768 ∧ (65 : Word).toNat % 64 ≠ 0 ∧
    32768 < countDiff 32832 (State.reset.part 0).feedHead := by decide
/-- A FEED of a record to a work queue that is not configured, and to one that is. -/
def wfeedPkt : List Byte := leBytes 4 0x10002 ++ leBytes 4 0 ++ leBytes 8 2 ++ leBytes 4 99 ++ List.replicate 44 0
theorem wit_WindowEventsComplete_feed :
    let work := match exec (.partitionConfiguration 0 (.workQueue { index := 2, eszlog := 2, caplog := 2 })) State.reset with
      | .next t => t
      | _ => State.reset
    ((wfeed State.reset wfeedPkt).part 0).ready 2 = some wfeedPkt ∧
    (wfeed State.reset wfeedPkt).judgeFeed 0 wfeedPkt = .refused ∧
    (wfeed work wfeedPkt).judgeFeed 0 wfeedPkt = .room ∧
    (let s := wfeed work wfeedPkt
     let a := (s.part 0).qtable + 128
     let q := s.blockAt a
     (s.queue a).producers = [] ∧ (s.queue a).committed = [] ∧ q.tail = q.reserve ∧ isDevice a = true ∧
     a + 64 ≤ (s.part 0).qtable + q.slotAddr q.reserve) := by decide +kernel
/-- A FOLIO write of one sector, and one that is not aligned. -/
def wfolio (dest : Nat) : List Byte :=
  leBytes 4 0x10003 ++ leBytes 4 3 ++ leBytes 8 dest ++ leBytes 8 0x3000 ++ leBytes 8 32 ++ List.replicate 32 0
theorem wit_WindowEventsComplete_folio : ((wfeed wsMap (wfolio 0)).part 0).ready 3 = some (wfolio 0) ∧
    (wfeed wsMap (wfolio 0)).folioRefusal 0 (wfolio 0) = none ∧
    ((wfeed wsMap (wfolio 1)).part 0).ready 3 = some (wfolio 1) ∧
    (wfeed wsMap (wfolio 1)).folioRefusal 0 (wfolio 1) = some 8 := by decide +kernel
theorem wit_WindowEventsComplete_done :
    let w : FolioWrite := { id := 5, tag := 3, dest := 0, src := 0x3000, len := 32, done := 0 }
    let m : MarkerWait := { id := 6, tag := 5, done := 0x3000, before := [] }
    let s := wsMap.modPart 0 fun p => { p with folios := [w], markers := [m] }
    (s.part 0).folios.find? (fun x => x.id == 5) = some w ∧
    (s.part 0).markers.find? (fun x => x.id == 6) = some m ∧ m.before = [] ∧
    okWith (s.walkPa 0 (m.done.toNat % 2 ^ 52) { w := true } { code := 0 }) (· == 0x3000) = true ∧
    okWith (s.walkPa 0 (w.src + 32 * 0) { rd := true } { code := 0 }) (· == 0x3000) = true := by decide
theorem wit_HostEventsComplete : ownEvent 0x200 0 = false ∧ 0x8000 + 4 ≤ 0x10000 ∧ 0xFFFC + 4 ≤ 0x10000 ∧
    beyond 0x1000 16 = false ∧ State.reset.firstPoison 0x1000 16 = none ∧ 0x1000 % 8 = 0 ∧
    State.reset.reachable 0x1000 = true := by decide
theorem wit_HostEventsComplete_reset : ∀ x ∈ [(1, (0x01 : Word)), (3, 0x03), (4, 0x04)],
    x.2.toNat % 8 = x.1 ∧ (State.reset.part 0).resetreq.getLsbD 31 = false ∧ (State.reset.part 0).rungs = [] ∧
    (x.1 = 1 ∨ State.reset.targetOk 0 x.1 (x.2.toNat / 16 % 65536) = true) := by decide +kernel
theorem wit_HostEventsComplete_targets : State.reset.targetOk 0 1 0 = true ∧ State.reset.targetOk 0 2 1 = false ∧
    ws.targetOk 0 2 1 = true ∧ State.reset.targetOk 0 3 127 = true ∧ State.reset.targetOk 0 3 128 = false := by decide +kernel


/-! ## Pre-emption and the reset ladder -/

def wkey : Nat := gridKey 0 1
def wsG (g : Grid) : State := { State.reset.loadWord 0 with grids := ⟨[(wkey, g)]⟩ }
def wgr1 : Grid := { loadGrid with cls := 1 }
theorem wit_PreemptionEventsComplete_slice : (wsG wgr1).grids.find? wkey = some wgr1 ∧
    (wsG wgr1).sliceDue wkey wgr1 = true ∧ (wsG wgr1).peerWaits wkey wgr1 = false := by decide
/-- The partition has one core, and another grid of the class, or of class 0, waits for it. -/
def wsRival (cls : Nat) : State :=
  let s := (wsG wgr1).modPart 0 fun p => { p with cores := [0] }
  { s with grids := ⟨[(wkey, wgr1), (wkey + 1, { loadGrid with cls, unplaced := [0], status := .admitted, order := 1 })]⟩ }
theorem wit_PreemptionEventsComplete_rival : (wsRival 1).sliceDue wkey wgr1 = true ∧
    (wsRival 1).peerWaits wkey wgr1 = true ∧ wgr1.cls ≠ 0 ∧ wgr1.preempt = none ∧
    (wsRival 0).resident wkey = true ∧ (wsRival 0).forcesRoom 0 = true := by decide +kernel
theorem wit_PreemptionEventsComplete_cut :
    let p : Preempt := { since := 0, cut := none, lanes := [], forced := false, escalations := 0 }
    let g := { wgr1 with preempt := some p }
    let s : State := { wsG g with clock := { (wsG g).clock with time := 10000 } }
    s.grids.find? wkey = some g ∧ g.preempt = some p ∧ p.cut = none ∧ g.status ≠ .killed ∧
      p.since + g.preemptCut.toNat ≤ s.time := by decide
/-- After the cut every group stands evicted at its strands. -/
theorem wit_PreemptionEventsComplete_save :
    let p : Preempt := { since := 0, cut := some 0, lanes := [], forced := false, escalations := 0 }
    let g := { wgr1 with preempt := some p }
    let s : State := { wsG g with groups := ⟨[(1, wgOut)]⟩ }
    s.grids.find? wkey = some g ∧ s.allStill wkey g = true ∧ g.status ≠ .killed ∧
      s.teams.find? 1 = some loadTeam := by decide
theorem wit_PreemptionEventsComplete_watchdog :
    let p : Preempt := { since := 0, cut := some 0, lanes := [(0, 0)], forced := false, escalations := 0 }
    let g := { wgr1 with preempt := some p }
    let s : State := { wsG g with clusters := ⟨[(0, { Cluster.reset with laneCycles := 262145 })]⟩ }
    s.watchdogDue wkey g = true ∧ (s.part g.part).rungIs 2 (wkey % 65536) = false := by decide
/-- A saved grid returns to the core that it left. -/
theorem wit_PreemptionEventsComplete_restore :
    let p : Preempt := { since := 0, cut := some 0, lanes := [], forced := false, escalations := 0 }
    let g := { wgr1 with preempt := some p }
    let s : State := { wsG g with groups := ⟨[(1, wgOut)]⟩ }
    (match exec (.saveImage wkey) s with
      | .next t => match t.grids.find? wkey with
        | some h => decide (h.status = .saved) && t.placeNext wkey h && h.image.length == 1 &&
          (t.restoreTeams wkey (h.image.zip [[0]])).isSome
        | none => false
      | _ => false) = true := by decide +kernel

/-- A partition on a rung of the ladder. -/
def wsRung (s : State) (level target : Nat) : State :=
  s.modPart 0 fun p => { p with rungs := [{ level, target, since := 0, byHost := false }] }
theorem wit_ResetLadderCompletes : ((wsRung State.reset 1 0).part 0).rungIs 1 0 = true ∧
    ((wsRung State.reset 2 1).part 0).rungIs 2 1 = true ∧ State.reset.grids.find? wkey = none ∧
    ((wsRung ws 2 1).part 0).rungIs 2 1 = true ∧ (wsRung ws 2 1).grids.find? wkey = some loadGrid ∧
    loadGrid.status ≠ .killed ∧ ((wsRung ws 3 127).part 0).rungIs 3 127 = true ∧
    ((wsRung ws 3 0).part 0).cores[0]? = some 0 ∧ wkey ∈ (wsRung ws 3 0).contextsOn 0 ∧
    ((wsRung ws 3 128).part 0).cores[128]? = none ∧ ((wsRung ws 4 0).part 0).rungIs 4 0 = true := by decide
theorem wit_ResetLadderCompletes_busy :
    let p := (State.reset.part 0).queuePlace 5
    (let s := State.reset.setQueue p.queueKey { QHome.reset with consumers := [wwait] }
     ({ s with clock := { s.clock with time := 50000 } } : State).unanswered p = true) ∧
    (let s : State := { ws with clock := { ws.clock with time := 100000000 } }
     s.idleTooLong wkey loadGrid = true) := by decide
/-- Consumers parked at the empty launch queue wait for no answer (R413). -/
theorem test_parked_is_answered :
    let p := (State.reset.part 0).queuePlace 0
    let s := State.reset.setQueue p.queueKey { QHome.reset with consumers := [wwait] }
    ({ s with clock := { s.clock with time := 50000 } } : State).unanswered p = false := by decide
theorem wit_ResetLadderCompletes_late : ∀ level ∈ [1, 2, 3, 4],
    let s : State := { wsRung State.reset level 0 with clock := { State.reset.clock with time := 100000000000 } }
    (s.rungLate 0).map (·.level) = some level := by decide
theorem wit_ResetLadderCompletes_device :
    let s : State := { State.reset with deviceRung := some 0, clock := { State.reset.clock with time := 100000000000 } }
    s.rungLate 0 = none ∧ s.deviceRung = some 0 ∧ 0 + rungLimit 5 ≤ s.time ∧ s.held = false ∧
    s.targetOk 0 4 0 = true := by decide

/-! ## The fabric, power and management -/

theorem wit_FabricAndPowerComplete : State.reset.ports.getD 7 false = true ∧ State.reset.ports.length = 8 ∧
    0x1000 < hostBase ∧ beyond 0x1000 16 = false ∧ (State.reset.ports.set 7 false).getD 7 true = false ∧
    beyond 0x1000 (tyBytes .n64) = false := by decide
theorem wit_FabricAndPowerComplete_power : let codes := fun (n : BitVec 10) => List.replicate 7 0 ++ [n]
    15000 < inputPower (codes 626) ∧ inputPower (codes 599) < 14400 ∧ 14400 ≤ inputPower (codes 600) ∧
    inputPower (codes 625) ≤ 15000 ∧ 1 ≤ (State.reset.core 127).grant ∧ (State.reset.core 127).grant ≤ 4 := by decide
theorem wit_FabricAndPowerComplete_clusters :
    let s := fun (k : Cluster) => ({ State.reset with clusters := ⟨[(31, k)]⟩ } : State)
    ((s { Cluster.reset with stall := some (0, 2) }).cluster 31).stall = some (0, 2) ∧
    (s { Cluster.reset with stall := some (0, 2) }).matrixOn 31 = false ∧
    ((s { Cluster.reset with stretchLeft := 1 }).cluster 31).stretchLeft = 1 ∧
    1 < ((s { Cluster.reset with stretchLeft := 2 }).cluster 31).stretchLeft ∧
    ((s { Cluster.reset with halvedLeft := 1 }).cluster 31).halvedLeft = 1 ∧
    ((s Cluster.reset).cluster 31).droopCfg.getLsbD 31 = true := by decide
theorem wit_FabricAndPowerComplete_slack :
    let c : Collective := { members := [3, 4], reports := [], excess := [], since := 0, slack := 5, round := 0, last := none }
    let s : State := { State.reset.modPart 0 (fun p => { p with group := some c }) with
                       clock := { State.reset.clock with time := roundNs } }
    (s.part 0).group = some c ∧ c.round < s.time / roundNs ∧ 4 ∈ c.members ∧ c.last = none ∧
    c.complete c.round = false ∧
    ({ c with reports := [(0, 3, 9), (0, 4, 7)] } : Collective).complete c.round = true ∧
    ({ c with reports := [(0, 3, 9), (0, 4, 7)], round := 1, last := some 5 } : Collective).complete (1 - 1) = true := by
  decide
theorem wit_ManagementEventsComplete : State.reset.clock.tod = none ∧ State.reset.clock.src = 0 ∧
    ({ State.reset.clock with src := 2 } : Clock).src ≠ 0 ∧ ({ State.reset.clock with src := 2 } : Clock).src ≠ 1 ∧
    ({ State.reset.clock with src := 1 } : Clock).src ≠ 2 ∧
    ({ State.reset.clock with tod := some 7 } : Clock).tod = some 7 ∧ 0 * 32 < Config.hbmBytes ∧
    (Config.hbmBytes / 32 - 1) * 32 < Config.hbmBytes ∧ workQueueOk { index := 63, eszlog := 8, caplog := 16 } = true ∧
    workQueueOk { index := 2, eszlog := 2, caplog := 2 } = true ∧ State.reset.mapOk 0 PartMap.whole = true ∧
    State.reset.mapOk 1 PartMap.whole = false ∧ State.reset.held = false ∧
    ({ State.reset with held := true } : State).held = true ∧
    isDevice ((State.reset.part 0).qtable + 64 * 63) = true := by decide +kernel

end Sys2Proof.Tests
end

/-! Entry into a trap handler (R206, R221 to R223): what a fault of one lane comes to when the fibre is unmasked and
the vector table names a handler. -/

namespace Sys2Proof.Machine

/-! ## One fibre of one group -/

theorem State.setGroup_fibre? (s : State) (gid l : Nat) (g : Group) :
    (s.setGroup gid g).fibre? gid l = g.fibres.find? l := by
  simp [State.fibre?, Tab.find?_insert_same]

theorem State.sameMemory_setGroup (s : State) (gid : Nat) (g : Group) : s.SameMemory (s.setGroup gid g) :=
  ⟨rfl, rfl, rfl, rfl, rfl, fun _ => rfl, fun _ => rfl⟩

theorem Group.find?_modFibre_same {g : Group} {lane : Nat} {f : Fibre} (hf : g.fibres.find? lane = some f)
    (k : Fibre → Fibre) : (g.modFibre lane k).fibres.find? lane = some (k f) := by
  simp [Group.modFibre, hf, Tab.find?_insert_same]

theorem Group.find?_modFibre_other (g : Group) {lane l : Nat} (h : l ≠ lane) (k : Fibre → Fibre) :
    (g.modFibre lane k).fibres.find? l = g.fibres.find? l := by
  unfold Group.modFibre
  split
  · exact Tab.find?_insert_other _ h _
  · rfl

/-! ## The trap registers at entry -/

/-- V stands and N is clear, since the fibre was not masked (R88, R223). -/
theorem Fibre.enter_trapCause {f : Fibre} (hmask : f.trapMask.getLsbD 0 = false) {lane : Nat} (hl : lane < 64)
    (pc h : Addr) (x : LaneFault) :
    (f.enter lane pc h x).trapCause = BitVec.ofNat 32 (2 ^ 31 + lane * 2 ^ 16 + x.code.toNat) := by
  simp only [Fibre.enter, Fibre.record, trapCauseWord, hmask, Nat.mod_eq_of_lt hl]
  norm_num

/-- The low half of TRAPINFO holds the fields below OFFSET (R222): OFFSET adds a multiple of `2 ^ 32`, and the fields
below it lie under `2 ^ 32`. -/
theorem trapInfoWord_low (pc strand : Addr) (x : LaneFault) :
    (trapInfoWord pc strand x).toNat % 2 ^ 32 =
      x.detail % 256 * 65536 + x.operand % 16 * 4096 + x.space % 16 * 16 + x.size % 16 := by
  simp only [trapInfoWord, BitVec.toNat_ofNat]
  omega

/-! ## The fate of the fault -/

theorem State.fateOf_enter {s : State} {g : Group} {gr : Grid} {f : Fibre} {code : Byte} {h : Addr}
    (hpage : code ≠ 0x0B) (hpoison : code ≠ 0x0E) (hmask : f.trapMask.getLsbD 0 = false)
    (hh : s.handlerOf g gr code = some h) : s.fateOf g gr f code = .enter h := by
  simp only [State.fateOf, hpage, hpoison, hmask, hh, Bool.false_eq_true, if_false]

/-- A fault whose fate is a handler changes one fibre of one group, and nothing else of the state. -/
theorem State.takeFault_enter {s : State} {gid lane : Nat} {g : Group} {t : Team} {gr : Grid} {f : Fibre} {h : Addr}
    {x : LaneFault} (hg : s.groups.find? gid = some g) (ht : s.teams.find? g.team = some t)
    (hgr : s.grids.find? t.grid = some gr) (hf : g.fibres.find? lane = some f)
    (hfate : s.fateOf g gr f x.code = .enter h) (pc : Addr) :
    s.takeFault gid pc lane x = s.setGroup gid (g.modFibre lane fun f => f.enter lane pc h x) := by
  simp only [State.takeFault, hg, ht, hf, hgr, hfate]

/-- Settles O23: the fault takes the fate of entry, which rewrites the one fibre by `Fibre.enter`. -/
theorem faultEntersHandler : Obligations.FaultEntersHandler := by
  intro s gid lane g t gr f pc h x hg ht hgr hf hpage hpoison hmask hh hlane
  have hu := State.takeFault_enter hg ht hgr hf (State.fateOf_enter hpage hpoison hmask hh) pc
  simp only [hu, State.setGroup_fibre?]
  refine ⟨f.enter lane pc h x, Group.find?_modFibre_same hf _, rfl, rfl, rfl,
    Fibre.enter_trapCause hmask hlane pc h x, trapInfoWord_low pc f.strand x,
    rfl, rfl, rfl, rfl, rfl, rfl, rfl, rfl, rfl, rfl, rfl, ?others, ?groups, s.sameMemory_setGroup gid _⟩
  case others => exact fun l hl => g.find?_modFibre_other hl _
  case groups => exact fun j hj => Tab.find?_insert_other _ hj _

end Sys2Proof.Machine

/-! Opcodes that R259 leaves unallocated, and instructions of the other stream (R38, R237, R248): what each comes to in
a batch and in a stream. -/

namespace Sys2Proof

/-! ## The opcodes outside the map -/

/-- The opcodes that R259 lists as unallocated. -/
def UnallocatedOp (op : Nat) : Prop :=
  0x010 ≤ op ∧ op ≤ 0x03F ∨ 0x055 ≤ op ∧ op ≤ 0x07F ∨ 0x088 ≤ op ∧ op ≤ 0x0BF ∨ 0x0DC ≤ op ∧ op ≤ 0x0FF ∨
    0x113 ≤ op ∧ op ≤ 0x13F ∨ 0x149 ≤ op ∧ op ≤ 0x17F ∨ 0x190 ≤ op ∧ op ≤ 0x1BF ∨ 0x1D1 ≤ op ∧ op ≤ 0x1FF ∨
    0x20A ≤ op ∧ op ≤ 0x240 ∨ 0x250 ≤ op ∧ op ≤ 0x27F ∨ 0x287 ≤ op ∧ op ≤ 0x2BF ∨ op = 0x2C8 ∨ op = 0x2C9 ∨
    op = 0x2CD ∨ 0x2D3 ≤ op ∧ op ≤ 0x2D5 ∨ 0x2DA ≤ op ∧ op ≤ 0x2FF ∨ 0x307 ≤ op ∧ op ≤ 0x30F ∨
    0x312 ≤ op ∧ op ≤ 0x3FF

theorem UnallocatedOp.lt {op : Nat} (h : UnallocatedOp op) : op < 2 ^ 10 := by
  unfold UnallocatedOp at h
  omega

/-- The opcode map has no row for these opcodes: it looks at the opcode alone, so each is evaluated with the fields
left open. -/
theorem UnallocatedOp.parse_eq {op : Nat} (h : UnallocatedOp op) (f : Nat) : parse op f = .unallocated := by
  rcases h with ⟨_, _⟩ | ⟨_, _⟩ | ⟨_, _⟩ | ⟨_, _⟩ | ⟨_, _⟩ | ⟨_, _⟩ | ⟨_, _⟩ | ⟨_, _⟩ | ⟨_, _⟩ | ⟨_, _⟩ | ⟨_, _⟩ |
    rfl | rfl | rfl | ⟨_, _⟩ | ⟨_, _⟩ | ⟨_, _⟩ | ⟨_, _⟩
  iterate 11 · interval_cases op <;> rfl
  iterate 3 · rfl
  iterate 4 · interval_cases op <;> rfl

theorem decode_of_parse_unallocated {w : Dword} (h : parse (opcodeOf w) (w.toNat % 2 ^ 54) = .unallocated) :
    decode w = .ok (.unallocatedOpcode w) := by
  simp only [decode, h]

theorem UnallocatedOp.decode_word {op f : Nat} (h : UnallocatedOp op) (hf : f < 2 ^ 54) :
    decode (word op f) = .ok (.unallocatedOpcode (word op f)) :=
  decode_of_parse_unallocated (by rw [opcodeOf_word h.lt hf]; exact h.parse_eq _)

end Sys2Proof

namespace Sys2Proof.Machine

/-! ## A fault in each lane of the effect -/

/-- The state in which each lane of the effect has taken a fault, and the other lanes of the batch have gone on. -/
def Ctx.faultEffect (c : Ctx) (f : LaneFault) : State :=
  (c.advance false (c.is.lanes.filter fun l => !c.is.eff.contains l)).takeFaults c.gid c.is.pc
    (c.is.eff.map fun l => (l, f))

theorem Ctx.markLost_cons (c : Ctx) (b : Nat × LaneFault) (bs : List (Nat × LaneFault)) (s : State) :
    c.markLost (b :: bs) s = c.markLost bs (c.markLost [b] s) := rfl

/-- A fault other than of lost or poisoned scratchpad data leaves nothing in the scratchpad. -/
theorem Ctx.markLost_of_code (c : Ctx) {f : LaneFault} (hl : f.code ≠ 0x19) (hp : f.code ≠ 0x0E) (ls : List Nat)
    (s : State) : c.markLost (ls.map fun l => (l, f)) s = s := by
  induction ls with
  | nil => rfl
  | cons l ls ih =>
    have hs : c.markLost [(l, f)] s = s := by
      simp at hl hp
      simp [Ctx.markLost, hl, hp]
    rw [List.map_cons, Ctx.markLost_cons, hs, ih]

/-- A plain instruction whose check raises one fault in every lane completes in no lane (R218, R219). -/
theorem groupStep_raise {s : State} {c : Ctx} {β : Type} (hc : s.ctx? = some c) (f : Ctx → LaneFault)
    (hl : (f c).code ≠ 0x19) (hp : (f c).code ≠ 0x0E) (effect : Ctx → List (Nat × β) → State → State) :
    groupStep s .plain (fun c _ => (raise (f c) : Except Stop β)) effect = .next (c.faultEffect (f c)) := by
  have hchecks : c.checks .plain (fun c _ => (raise (f c) : Except Stop β)) =
      c.is.eff.map fun l => (l, .error (.fault (f c))) := by simp [Ctx.checks, raise]
  have hout : (c.is.eff.map fun l => (l, f c)).map Prod.fst = c.is.eff := by simp [Function.comp_def]
  have hplain : (Kind.plain == Kind.closing) = false := rfl
  simp only [groupStep, Ctx.faultEffect, hc, hchecks, sortLanes_bad, Ctx.finish, hout, hplain, c.markLost_of_code hl hp,
    List.isEmpty_nil, Bool.not_true, Bool.false_eq_true, if_false, if_true]

theorem sctx?_of_ctx {s : State} {c : Ctx} (hc : s.ctx? = some c) : s.sctx? = none := by
  obtain ⟨hi, hp, -⟩ := ctx?_party hc
  simp [State.sctx?, hi, hp]

section Batch

variable {s : State} {c : Ctx} (hc : s.ctx? = some c)
include hc

theorem exec_unallocatedOpcode_of_ctx (w : Dword) :
    exec (.unallocatedOpcode w) s = .next (c.faultEffect (illegal w)) := by
  rw [← groupStep_raise hc (fun _ => illegal w) (by simp [illegal]) (by simp [illegal])
    fun _ (_ : List (Nat × Unit)) s => s]
  change execUnallocatedOpcode w s = _
  simp only [execUnallocatedOpcode, sctx?_of_ctx hc, hc]

theorem wrongForGroup_eq : wrongForGroup s = .next (c.faultEffect (wrongStream c.is.word)) :=
  groupStep_raise hc (fun c => wrongStream c.is.word) (by simp [wrongStream]) (by simp [wrongStream]) _

theorem stokerOnly_of_ctx {β : Type} (check : SCtx → Except Stop β) (effect : SCtx → β → State → State) :
    stokerOnly s check effect = wrongForGroup s := by
  simp [stokerOnly, stokerIssues_of_ctx hc]

theorem matStep_of_ctx (m : MmaArgs) (conv : Bool) : matStep m conv s = wrongForGroup s := by
  simp [matStep, stokerIssues_of_ctx hc]

theorem execSfin_of_ctx : execSfin s = wrongForGroup s := by
  simp [execSfin, stokerIssues_of_ctx hc]

/-- The instructions of Stoker code alone, in a batch (R38). -/
theorem exec_stokerCode_of_ctx (a : LoopArgs) (m : MmaArgs) (k : ShpldArgs) :
    ∀ i ∈ [Instr.sfin, .loop a, .mma m, .mconv m, .shpld k], exec i s = wrongForGroup s := by
  simp only [List.forall_mem_cons]
  exact ⟨execSfin_of_ctx hc, stokerOnly_of_ctx hc _ _, matStep_of_ctx hc m false, matStep_of_ctx hc m true,
    stokerOnly_of_ctx hc _ _, List.forall_mem_nil _⟩

end Batch

/-! ## A fault in a stream -/

theorem State.calm_malformedRecords (s : State) (t : Team) (gr : Grid) (core : Nat) (pc : Addr)
    (bad : List (Nat × LaneFault)) : s.Calm (s.malformedRecords t gr core pc bad) :=
  .foldl _ (fun s _ => s.calm_sendPacket gr.part _ _ _) _ s

/-- A fault stops its stream (R38): the record and the kill that follow leave the cores alone. -/
theorem SCtx.fault_stream (c : SCtx) (f : LaneFault) :
    ((c.fault f).core c.core).stream = some { c.st with stopped := true } := by
  have hkill : ∀ (s : State) (team : Nat) (recs : List Packet),
      (s.requestKill team recs).core c.core = s.core c.core := fun s team recs => by
    simp [State.core, State.requestKill]
  rw [SCtx.fault, hkill, (State.calm_malformedRecords _ c.t c.gr c.core c.is.pc _).stream]
  simp [State.core]

section Stream

variable {s : State} {c : SCtx} (hc : s.sctx? = some c)
include hc

theorem exec_unallocatedOpcode_of_sctx (w : Dword) : exec (.unallocatedOpcode w) s = .next (c.fault (illegal w)) := by
  change execUnallocatedOpcode w s = _
  simp only [execUnallocatedOpcode, hc]

theorem wrongForStoker_eq : wrongForStoker s = .next (c.fault (wrongStream c.is.word)) := by
  simp only [wrongForStoker, hc]

/-- An instruction of group code only takes the wrong stream fault in a stream, whatever its checks and its effect. -/
theorem groupOnly_of_sctx {β : Type} {kind : Kind} {check : Ctx → Nat → Except Stop β}
    {effect : Ctx → List (Nat × β) → State → State} {idle : Ctx → State → State} :
    groupOnly s kind check effect idle = .next (c.fault (wrongStream c.is.word)) := by
  rw [groupOnly, if_pos (stokerIssues_of_sctx hc), wrongForStoker_eq hc]

theorem execPmask_of_sctx (a : GArgs) : execPmask a s = .next (c.fault (wrongStream c.is.word)) := by
  unfold execPmask
  split
  · exact groupOnly_of_sctx hc
  · exact groupOnly_of_sctx hc

theorem execLdc_of_sctx (a : LdcArgs) : execLdc a s = .next (c.fault (wrongStream c.is.word)) := by
  unfold execLdc
  split
  · exact groupOnly_of_sctx hc
  · exact groupOnly_of_sctx hc

theorem execTlbinv_of_sctx (a : SImmArgs) : execTlbinv a s = .next (c.fault (wrongStream c.is.word)) := by
  rw [execTlbinv, if_pos (stokerIssues_of_sctx hc), wrongForStoker_eq hc]

/-- The vector instructions, in a stream (R38). -/
theorem exec_vector_of_sctx (a : VArgs) :
    ∀ v ∈
      [Instr.mov a, .add a, .sub a, .mul a, .mulh a, .mad a, .min a, .max a, .abs a, .neg a, .and a, .or a,
       .xor a, .not a, .shl a, .shr a, .sar a, .bfe a, .bfi a, .popc a, .clz a, .brev a, .sel a, .addc a,
       .dot4 a, .cmul a, .cmac a, .fadd a, .fsub a, .fmul a, .fma a, .fmin a, .fmax a, .frcp a, .frsq a,
       .fsqrt a, .fexp2 a, .flog2 a, .fsin a, .fcos a, .frnd a, .fclass a, .fscale a, .fdot2 a, .fcmul a, .cvt a,
       .cvtpk a, .unpk a, .tagset a, .tagget a, .shfl a, .bcast a, .vred a, .vscan a],
      exec v s = .next (c.fault (wrongStream c.is.word)) := by
  repeat refine List.forall_mem_cons.2 ⟨groupOnly_of_sctx hc, ?_⟩
  exact List.forall_mem_nil _

/-- The vector instructions with an immediate, the compares and the instructions on predicates, in a stream (R38). -/
theorem exec_immediate_of_sctx (b : VIArgs) (f : VFArgs) (p : CmpArgs) (q : CmpIArgs) (g : GArgs) :
    ∀ v ∈
      [Instr.movImm b, .addImm b, .subImm b, .mulImm b, .mulhImm b, .madImm b, .minImm b, .maxImm b, .andImm b,
       .orImm b, .xorImm b, .shlImm b, .shrImm b, .sarImm b, .bfeImm b, .bfiImm b, .addcImm b, .dot4Imm b,
       .faddImm b, .fsubImm b, .fmulImm b, .fmaImm b, .fminImm b, .fmaxImm b, .fscaleImm b, .fdot2Imm b,
       .selImm f, .cmp p, .fcmp p, .cmpImm q, .fcmpImm q, .pand g, .por g, .pxor g, .pnot g, .pmov g, .pvote g,
       .pfirst g, .pmask g],
      exec v s = .next (c.fault (wrongStream c.is.word)) := by
  iterate 38 refine List.forall_mem_cons.2 ⟨groupOnly_of_sctx hc, ?_⟩
  exact List.forall_mem_cons.2 ⟨execPmask_of_sctx hc g, List.forall_mem_nil _⟩

/-- Memory, tiles, special registers and control, in a stream (R38). -/
theorem exec_control_of_sctx (m : MArgs) (d : LdcArgs) (t : TArgs) (o : Opnd) (ty : Ty) (k : DImmArgs) (z : SImmArgs)
    (n : BitVec 16) (x : Scope) (i j : BitVec 4) (off : BitVec 44) :
    ∀ v ∈
      [Instr.ld m, .st m, .ldc d, .stc d, .pf m, .cwb m, .cinv m, .accrd t, .accwr t, .tstamp ty o, .ctrrd k,
       .srd k, .swr z, .tlbinv z, .sleep n, .trap n, .pause n, .brx o, .ret o, .rcv, .yield, .fend, .exit, .brk,
       .rte, .fence x, .barw i, .stoke off, .cmov (.cc i j), .cmov (.cq i o), .cmov (.qc o i)],
      exec v s = .next (c.fault (wrongStream c.is.word)) := by
  iterate 2 refine List.forall_mem_cons.2 ⟨groupOnly_of_sctx hc, ?_⟩
  refine List.forall_mem_cons.2 ⟨execLdc_of_sctx hc d, ?_⟩
  iterate 10 refine List.forall_mem_cons.2 ⟨groupOnly_of_sctx hc, ?_⟩
  refine List.forall_mem_cons.2 ⟨execTlbinv_of_sctx hc z, ?_⟩
  iterate 17 refine List.forall_mem_cons.2 ⟨groupOnly_of_sctx hc, ?_⟩
  exact List.forall_mem_nil _

end Stream

/-- Settles O28: the map has no row for the opcodes of R259; `groupStep_raise` gives the fault in a batch, and in a
stream each listed instruction is of group code only. -/
theorem wrongStreamAndIllegal : Obligations.WrongStreamAndIllegal := by
  refine ⟨fun op f hf hop => UnallocatedOp.decode_word hop hf, fun s => ⟨fun c hc => ⟨?unallocated, ?stokerCode⟩,
    fun c hc => ⟨exec_unallocatedOpcode_of_sctx hc, fun a b f p q g m d t o ty k z n x i j off => ?lists, ?others,
      fun x => ⟨_, c.fault_stream x, rfl⟩⟩⟩⟩
  case unallocated => exact exec_unallocatedOpcode_of_ctx hc
  case stokerCode => exact fun a m k i hi => (exec_stokerCode_of_ctx hc a m k i hi).trans (wrongForGroup_eq hc)
  case lists =>
    exact ⟨exec_vector_of_sctx hc a, exec_immediate_of_sctx hc b f p q g,
      exec_control_of_sctx hc m d t o ty k z n x i j off⟩
  case others =>
    have wrong {β : Type} {kind check effect idle} :
        groupOnly (β := β) s kind check effect idle = .next (c.fault { code := 0x18, addr := c.is.word }) :=
      groupOnly_of_sctx hc
    exact ⟨fun _ => wrong, fun _ => wrong, fun _ => wrong, fun _ => wrong, fun _ => wrong,
      fun _ => ⟨wrong, wrong, wrong⟩, fun _ => wrong, fun _ => wrong, fun _ => wrong, fun _ => wrong, fun _ => wrong,
      fun _ => ⟨wrong, wrong⟩, fun _ => wrong, fun _ => wrong, wrong, wrong⟩

end Sys2Proof.Machine

/-! Predicate instructions (R288 to R292): the fields that each entry allows, the lanes that write, and the lanes
that fault. -/

namespace Sys2Proof

/-! ## The fields of class 2 -/

theorem GArgs.unused_iff (a : GArgs) (ps1 ng1 two func reg pd : Bool) :
    a.unused ps1 ng1 two func reg pd = true ↔
      (ps1 = true → a.ps1 = 0) ∧ (ng1 = true → a.ng1 = false) ∧ (two = true → a.ps2 = 0 ∧ a.ng2 = false) ∧
        (func = true → a.func = 0) ∧ (reg = true → a.reg = .v 0) ∧ (pd = true → a.pd = 0) := by
  simp only [GArgs.unused, Bool.and_eq_true, Bool.or_eq_true, Bool.not_eq_true', beq_iff_eq, ← Bool.not_eq_true,
    ← imp_iff_not_or, and_assoc]

theorem legal_logic_iff (a : GArgs) :
    ∀ i ∈ [Instr.pand a, .por a, .pxor a], i.legal = true ↔ a.func = 0 ∧ a.reg = .v 0 := by
  simp [Instr.legal, GArgs.unused_iff]

theorem legal_pmov_iff (a : GArgs) :
    (Instr.pmov a).legal = true ↔ a.ps2 = 0 ∧ a.ng2 = false ∧ a.func = 0 ∧ a.reg = .v 0 := by
  simp [Instr.legal, GArgs.unused_iff, and_assoc]

theorem legal_pnot_iff (a : GArgs) :
    (Instr.pnot a).legal = true ↔ a.ng1 = false ∧ a.ps2 = 0 ∧ a.ng2 = false ∧ a.func = 0 ∧ a.reg = .v 0 := by
  simp [Instr.legal, GArgs.unused_iff, and_assoc]

theorem legal_pvote_iff (a : GArgs) :
    (Instr.pvote a).legal = true ↔ a.func.toNat < 4 ∧ a.ps2 = 0 ∧ a.ng2 = false ∧
      (a.func.toNat < 2 → a.reg = .v 0) ∧ (2 ≤ a.func.toNat → a.pd = 0) := by
  simp [Instr.legal, GArgs.unused_iff, Nat.lt_succ_iff (n := 3), Nat.lt_succ_iff (n := 1), and_assoc]

theorem legal_pfirst_iff (a : GArgs) :
    (Instr.pfirst a).legal = true ↔ a.func.toNat < 2 ∧ a.ps2 = 0 ∧ a.ng2 = false ∧ a.reg = .v 0 := by
  simp [Instr.legal, GArgs.unused_iff, and_assoc]

theorem legal_pmask_iff (a : GArgs) :
    (Instr.pmask a).legal = true ↔ a.func.toNat < 2 ∧ a.pd = 0 ∧ a.ps1 = 0 ∧ a.ng1 = false ∧ a.ps2 = 0 ∧
      a.ng2 = false := by
  simp only [Instr.legal, GArgs.unused_iff, Bool.and_eq_true, decide_eq_true_eq, Nat.lt_succ_iff]
  tauto

/-! ## Modes that do not exist -/

/-- FUNC stands in bits 39:36 of a word of the G format (R250). -/
theorem ofGArgs_func {w : Dword} {a : GArgs} (h : ofGArgs (split gFmt (w.toNat % 2 ^ 54)) = some a) :
    a.func.toNat = w.toNat / 2 ^ 36 % 16 := by
  simp only [gFmt, split, ofGArgs, Option.ite_none_right_eq_some, Option.some.injEq] at h
  obtain ⟨-, rfl⟩ := h
  simp only [BitVec.toNat_ofNat]
  omega

/-- A word of the G format whose FUNC the entry of its opcode does not allow decodes to nothing. -/
theorem decode_error_of_func {w : Dword} {mk : GArgs → Instr} {n : Nat}
    (hparse : ∀ f, parse (opcodeOf w) f = .ofOption ((ofGArgs (split gFmt f)).map mk))
    (hmodes : ∀ a : GArgs, (mk a).legal = true → a.func.toNat < n) (hn : n ≤ w.toNat / 2 ^ 36 % 16) :
    ∃ e, decode w = .error e := by
  rw [decode, hparse]
  cases h : ofGArgs (split gFmt (w.toNat % 2 ^ 54)) with
  | none => exact ⟨_, rfl⟩
  | some a =>
    have hfunc := ofGArgs_func h
    exact ⟨_, if_neg fun hl => absurd (hmodes a hl) (by omega)⟩

end Sys2Proof

namespace Sys2Proof.Machine

theorem encodingFault_of_func {w : Dword} {op n : Nat} {mk : GArgs → Instr} (hop : opcodeOf w = op)
    (hparse : ∀ f, parse op f = .ofOption ((ofGArgs (split gFmt f)).map mk)) (hgroup : stokerOnlyOpcode op = false)
    (hmodes : ∀ a : GArgs, (mk a).legal = true → a.func.toNat < n) (hn : n ≤ w.toNat / 2 ^ 36 % 16) :
    encodingFault false w = some (illegal w) := by
  subst hop
  obtain ⟨e, he⟩ := decode_error_of_func hparse hmodes hn
  simp [encodingFault, he, hgroup]

/-- The modes of `pvote`, `pfirst` and `pmask` beyond those of R290 to R292 are illegal instructions. -/
theorem encodingFault_of_mode {w : Dword}
    (h : (opcodeOf w = 0x085 ∧ 4 ≤ w.toNat / 2 ^ 36 % 16) ∨
      ((opcodeOf w = 0x086 ∨ opcodeOf w = 0x087) ∧ 2 ≤ w.toNat / 2 ^ 36 % 16)) :
    encodingFault false w = some (illegal w) := by
  rcases h with ⟨hop, hmode⟩ | ⟨hop | hop, hmode⟩
  · exact encodingFault_of_func hop (fun _ => rfl) rfl (fun a hl => ((legal_pvote_iff a).1 hl).1) hmode
  · exact encodingFault_of_func hop (fun _ => rfl) rfl (fun a hl => ((legal_pfirst_iff a).1 hl).1) hmode
  · exact encodingFault_of_func hop (fun _ => rfl) rfl (fun a hl => ((legal_pmask_iff a).1 hl).1) hmode

/-! ## Destinations of class 2 -/

@[simp] theorem require_false (f : LaneFault) : require false f = .error (.fault f) := rfl

theorem Ctx.predSurvivor_ok {c : Ctx} {l : Nat} {i : BitVec 4} (h : c.mayWritePred l i = true) :
    c.predSurvivor l i = .ok () := by
  unfold Ctx.predSurvivor
  unfold Ctx.mayWritePred at h
  cases hf : c.fibre? l with
  | none => rfl
  | some f => exact require_of _ (by simpa [hf] using h)

theorem Ctx.survivor_ok {c : Ctx} {l n : Nat} {o : Opnd} (h : c.mayWrite l o n = true) : c.survivor l o n = .ok () := by
  unfold Ctx.survivor
  unfold Ctx.mayWrite at h
  cases hf : c.fibre? l with
  | none => rfl
  | some f => exact require_of _ (by simpa [hf] using h)

theorem Ctx.predRegOk_ok {c : Ctx} {l n : Nat} {o : Opnd} (h : c.regReady l o n = true) : c.predRegOk l o n = .ok () := by
  simp only [Ctx.regReady, Bool.and_eq_true] at h
  obtain ⟨⟨hreg, hin⟩, hsurv⟩ := h
  simp [Ctx.predRegOk, hreg, hin, Ctx.survivor_ok hsurv, bind, Except.bind]

theorem Ctx.predRegOk_of_not_reg {o : Opnd} (h : o.isReg = false) (c : Ctx) (l n : Nat) :
    c.predRegOk l o n = .error (.fault (badOperand fDst)) := by
  simp [Ctx.predRegOk, h, bind, Except.bind]

/-! ## Logic -/

/-- A plain instruction whose checks pass in every lane of its effect completes. -/
theorem groupOnly_plain_ok {β : Type} {s : State} {c : Ctx} {check : Ctx → Nat → Except Stop β}
    {effect : Ctx → List (Nat × β) → State → State} {idle : Ctx → State → State} {r : Nat → β} (hc : s.RunsIn c)
    (h : ∀ l ∈ c.is.eff, check c l = .ok (r l)) :
    groupOnly s .plain check effect idle =
      .next (effect c (c.is.eff.map fun l => (l, r l)) (c.advance false c.is.lanes)) :=
  groupOnly_ok hc.1 (.inl rfl) hc.2 h

/-- An instruction that writes a predicate, no survivor, completes in each lane of its effect. -/
theorem predStep_ok {s : State} {c : Ctx} {pd : BitVec 4} (hc : s.RunsIn c)
    (h : ∀ l ∈ c.is.eff, c.mayWritePred l pd = true) (f : Ctx → Nat → Bool) :
    predStep s pd f = .next ((c.advance false c.is.lanes).setPreds c.gid pd (c.is.eff.map fun l => (l, f c l))) :=
  groupOnly_plain_ok hc fun l hl => by simp [Ctx.predSurvivor_ok (h l hl), bind, Except.bind, pure, Except.pure]

/-- Settles O14: `unused_iff` gives the reserved fields, and each of the five instructions is a `predStep`. -/
theorem predicateLogicResults : Obligations.PredicateLogicResults := by
  refine ⟨fun a => ⟨legal_logic_iff a, legal_pmov_iff a, legal_pnot_iff a⟩, by decide, rfl, fun s c a hc h => ?_⟩
  have hstep := predStep_ok hc h
  simp only [List.forall_mem_cons]
  exact ⟨hstep fun c l => c.g1 a l && c.g2 a l, hstep fun c l => c.g1 a l || c.g2 a l,
    hstep fun c l => c.g1 a l != c.g2 a l, hstep fun c l => !c.pred l a.ps1, hstep fun c l => c.g1 a l,
    List.forall_mem_nil _⟩

end Sys2Proof.Machine

/-! Reductions over the lanes of a batch (R290, R291), and moves of the predicate word (R292). -/

namespace Sys2Proof.Machine

variable {s : State} {c : Ctx}

/-! ## Lanes that fault beside lanes that complete -/

/-- `Ctx.faultEffect` with a fault of its own for each lane of the effect. -/
def Ctx.faultLanes (c : Ctx) (f : Nat → LaneFault) : State :=
  (c.advance false (c.is.lanes.filter fun l => !c.is.eff.contains l)).takeFaults c.gid c.is.pc
    (c.is.eff.map fun l => (l, f l))

/-- The state in which the lanes of the effect that pass have had the effect `e`, and all lanes but the faulting ones
`bad` have gone on. -/
def Ctx.afterChecks {β : Type} (c : Ctx) (bad : List Nat) (good : List (Nat × β)) (e : List (Nat × β) → State → State) :
    State :=
  let t := c.advance false (c.is.lanes.filter fun l => !bad.contains l)
  if good.isEmpty then t else e good t

/-- A fault of anything but lost or poisoned scratchpad data. -/
def LaneFault.OffPad (f : LaneFault) : Prop := f.code ≠ 0x19 ∧ (f.code = 0x0E → f.space ≠ 2)

theorem Ctx.markLost_of_offPad (c : Ctx) {f : Nat → LaneFault} (h : ∀ l, (f l).OffPad) (ls : List Nat) (s : State) :
    c.markLost (ls.map fun l => (l, f l)) s = s := by
  induction ls with
  | nil => rfl
  | cons l ls ih =>
    have hs : c.markLost [(l, f l)] s = s := by
      obtain ⟨hl, hp⟩ := h l
      simp only [Ctx.markLost, List.foldl_cons, List.foldl_nil, if_neg hl]
      refine if_neg ?_
      simp only [Bool.and_eq_true, decide_eq_true_eq]
      exact fun ⟨⟨⟨hcode, hspace⟩, _⟩, _⟩ => hp hcode hspace
    rw [List.map_cons, Ctx.markLost_cons, hs, ih]

theorem sortLanes_ok_or_fault {β : Type} (p : Nat → Bool) (f : Nat → LaneFault) (r : Nat → β) (ls : List Nat) :
    sortLanes (ls.map fun l => (l, if p l then (.error (.fault (f l)) : Except Stop β) else .ok (r l))) =
      { good := (ls.filter fun l => !p l).map fun l => (l, r l), bad := (ls.filter p).map fun l => (l, f l)
        again := [], pages := [], dead := [] } := by
  induction ls with
  | nil => rfl
  | cons l ls ih => cases hp : p l <;> simp [sortLanes, ih, hp]

theorem Ctx.finish_ok_or_fault {β : Type} (c : Ctx) (good : List (Nat × β)) (bad : List Nat) {f : Nat → LaneFault}
    (hpad : ∀ l, (f l).OffPad) (effect : List (Nat × β) → State → State) :
    c.finish false { good, bad := bad.map fun l => (l, f l), again := [], pages := [], dead := [] } effect =
      .next ((c.afterChecks bad good effect).takeFaults c.gid c.is.pc (bad.map fun l => (l, f l))) := by
  have hout : (bad.map fun l => (l, f l)).map Prod.fst = bad := by simp [Function.comp_def]
  simp only [Ctx.finish, hout, c.markLost_of_offPad hpad, Ctx.afterChecks, List.isEmpty_nil, Bool.not_true,
    Bool.false_eq_true, if_false, if_true, id]

section Faults

variable {β : Type} {check : Ctx → Nat → Except Stop β} {effect : Ctx → List (Nat × β) → State → State}
  (f : Nat → LaneFault) (hc : s.ctx? = some c) (hpad : ∀ l, (f l).OffPad)
include hc hpad

/-- The course of a plain instruction that faults in some lanes of its effect and passes in the others (R218,
R219). -/
theorem groupOnly_ok_or_fault (p : Nat → Bool) (r : Nat → β)
    (h : ∀ l ∈ c.is.eff, check c l = if p l then .error (.fault (f l)) else .ok (r l)) :
    groupOnly s .plain check effect =
      .next ((c.afterChecks (c.is.eff.filter p) ((c.is.eff.filter fun l => !p l).map fun l => (l, r l))
        (effect c)).takeFaults c.gid c.is.pc ((c.is.eff.filter p).map fun l => (l, f l))) := by
  have hchecks : c.checks .plain check =
      c.is.eff.map fun l => (l, if p l then (.error (.fault (f l)) : Except Stop β) else .ok (r l)) :=
    (if_pos rfl).trans (List.map_congr_left fun l hl => by rw [h l hl])
  rw [groupOnly_eq _ _ _ _ hc]
  simp only [groupStep, hc, hchecks, sortLanes_ok_or_fault]
  exact c.finish_ok_or_fault _ _ hpad _

/-- A plain instruction that faults in every lane of its effect. -/
theorem groupOnly_faults (h : ∀ l ∈ c.is.eff, check c l = .error (.fault (f l))) :
    groupOnly s .plain check effect = .next (c.faultLanes f) := by
  have hchecks : c.checks .plain check = c.is.eff.map fun l => (l, (.error (.fault (f l)) : Except Stop β)) :=
    (if_pos rfl).trans (List.map_congr_left fun l hl => by rw [h l hl])
  rw [groupOnly_eq _ _ _ _ hc]
  simp only [groupStep, hc, hchecks, sortLanes_bad]
  exact c.finish_ok_or_fault [] _ hpad _

end Faults

/-! ## Fibres of a batch that goes on -/

theorem Group.find?_modFibres (g : Group) (ls : List Nat) (k : Nat → Fibre → Fibre) (l : Nat) :
    (g.modFibres ls k).fibres.find? l = (g.fibres.find? l).map fun f => if l ∈ ls then k l f else f := by
  simp only [Group.modFibres, Tab.find?]
  induction g.fibres.cells with
  | nil => rfl
  | cons x xs ih =>
    obtain ⟨i, f⟩ := x
    by_cases hi : i = l
    · subst hi
      by_cases hl : i ∈ ls <;> simp [Tab.find?.go, hl]
    · rw [List.map_cons, Tab.find?.go, Tab.find?.go, if_neg hi, ← ih]
      by_cases hl : i ∈ ls <;> simp [hl, hi]

theorem Ctx.advance_fibre? (c : Ctx) (closing : Bool) (ls : List Nat) (l : Nat) :
    (c.advance closing ls).fibre? c.gid l =
      (c.fibre? l).map fun f => if l ∈ ls then f.advance c.is.pc closing else f :=
  (State.setGroup_fibre? _ _ _ _).trans (c.g.find?_modFibres ls (fun _ f => f.advance c.is.pc closing) l)

theorem Ctx.advance_fibre?_of_mem {ls : List Nat} {l : Nat} {f : Fibre} (hf : c.fibre? l = some f) (hl : l ∈ ls)
    (closing : Bool) : (c.advance closing ls).fibre? c.gid l = some (f.advance c.is.pc closing) := by
  simp [Ctx.advance_fibre?, hf, hl]

theorem Ctx.advance_fibre?_of_notMem {ls : List Nat} {l : Nat} (hl : l ∉ ls) (c : Ctx) (closing : Bool) :
    (c.advance closing ls).fibre? c.gid l = c.fibre? l := by
  simp [Ctx.advance_fibre?, hl]

/-! ## Reductions -/

section Reductions

variable {a : GArgs} (hc : s.RunsIn c)
include hc

/-- `pvote.any` (R290). -/
theorem exec_pvote_any (h : ∀ l ∈ c.is.eff, c.mayWritePred l a.pd = true) (hfunc : a.func = 0) :
    exec (.pvote a) s = .next ((c.advance false c.is.lanes).setPreds c.gid a.pd
      (c.is.eff.map fun l => (l, decide (∃ k ∈ c.is.eff, c.g1 a k = true)))) := by
  have hany : (!(c.voters a).isEmpty) = decide (∃ k ∈ c.is.eff, c.g1 a k = true) := by
    rw [Bool.eq_iff_iff]
    simp [Ctx.voters]
  refine (groupOnly_plain_ok hc (r := fun _ => ()) fun l hl => ?_).trans ?_
  · simp [hfunc, Ctx.predSurvivor_ok (h l hl)]
  · simp [hfunc, hany, Function.comp_def]

/-- `pvote.all` (R290). -/
theorem exec_pvote_all (h : ∀ l ∈ c.is.eff, c.mayWritePred l a.pd = true) (hfunc : a.func = 1) :
    exec (.pvote a) s = .next ((c.advance false c.is.lanes).setPreds c.gid a.pd
      (c.is.eff.map fun l => (l, decide (∀ k ∈ c.is.eff, c.g1 a k = true)))) := by
  have hall : ((c.voters a).length == c.is.eff.length) = decide (∀ k ∈ c.is.eff, c.g1 a k = true) := by
    rw [Bool.eq_iff_iff, beq_iff_eq, decide_eq_true_iff]
    exact List.length_filter_eq_length_iff
  refine (groupOnly_plain_ok hc (r := fun _ => ()) fun l hl => ?_).trans ?_
  · simp [hfunc, Ctx.predSurvivor_ok (h l hl)]
  · simp [hfunc, hall, Function.comp_def]

/-- `pvote.ballot` (R290). -/
theorem exec_pvote_ballot (h : ∀ l ∈ c.is.eff, c.regReady l a.reg 2 = true) (hfunc : a.func = 2) :
    exec (.pvote a) s = .next (c.regDone a.reg fun _ =>
      VRes.of .b64 (BitVec.ofNat 64 (ballot (c.voters a))) false (Tag.of .b64)) := by
  refine (groupOnly_plain_ok hc (r := fun _ => ()) fun l hl => ?_).trans ?_
  · simp [hfunc, Ctx.predRegOk_ok (h l hl)]
  · simp [hfunc, Ctx.regDone, Function.comp_def]

/-- `pvote.cnt` (R290). -/
theorem exec_pvote_cnt (h : ∀ l ∈ c.is.eff, c.regReady l a.reg 1 = true) (hfunc : 2 < a.func.toNat) :
    exec (.pvote a) s = .next (c.regDone a.reg fun _ => VRes.one (c.voters a).length false (Tag.of .n32)) := by
  obtain ⟨k, hk⟩ : ∃ k, a.func.toNat = k + 3 := Nat.exists_eq_add_of_le' hfunc
  refine (groupOnly_plain_ok hc (r := fun _ => ()) fun l hl => ?_).trans ?_
  · rw [if_neg (by omega), if_neg fun h2 => absurd hfunc (by rw [h2]; decide)]
    exact Ctx.predRegOk_ok (h l hl)
  · simp [hk, Ctx.regDone, Function.comp_def]

/-- `pfirst` (R291). -/
theorem exec_pfirst (h : ∀ l ∈ c.is.eff, c.mayWritePred l a.pd = true) :
    exec (.pfirst a) s = .next ((c.advance false c.is.lanes).setPreds c.gid a.pd (c.is.eff.map fun l =>
      (l, (if a.func = 0 then (c.voters a).head? else (c.voters a).getLast?) == some l))) :=
  (groupOnly_plain_ok hc (r := fun _ => ()) fun l hl => Ctx.predSurvivor_ok (h l hl)).trans
    (by simp [Function.comp_def])

/-- `pfirst.lo` (R291). -/
theorem exec_pfirst_lo (h : ∀ l ∈ c.is.eff, c.mayWritePred l a.pd = true) (hfunc : a.func = 0) :
    exec (.pfirst a) s = .next ((c.advance false c.is.lanes).setPreds c.gid a.pd
      (c.is.eff.map fun l => (l, (c.voters a).head? == some l))) := by
  simpa only [if_pos hfunc] using exec_pfirst hc h

/-- `pfirst.hi` (R291). -/
theorem exec_pfirst_hi (h : ∀ l ∈ c.is.eff, c.mayWritePred l a.pd = true) (hfunc : a.func ≠ 0) :
    exec (.pfirst a) s = .next ((c.advance false c.is.lanes).setPreds c.gid a.pd
      (c.is.eff.map fun l => (l, (c.voters a).getLast? == some l))) := by
  simpa only [if_neg hfunc] using exec_pfirst hc h

/-- `pmask.get` (R292). -/
theorem exec_pmask_get (h : ∀ l ∈ c.is.eff, c.regReady l a.reg 1 = true) (hfunc : a.func = 0) :
    exec (.pmask a) s = .next (c.regDone a.reg fun l =>
      VRes.one ((c.fibre? l).elim 0 fun f => f.pred.toNat) false (Tag.of .n32)) := by
  refine (if_pos hfunc).trans ((groupOnly_plain_ok hc
    (r := fun l => (c.fibre? l).elim 0 fun f => f.pred.toNat) fun l hl => ?_).trans ?_)
  · simp [Ctx.predRegOk_ok (h l hl), bind, Except.bind, pure, Except.pure]
  · simp [Ctx.regDone, Function.comp_def]

end Reductions

/-! ## The element of `pmask.set` -/

/-- A tag under which an index, and the element of `pmask.set`, is read (R99, R292). -/
def Tag.isIndex (t : Tag) : Bool := t.valid && (t.fmt == .s32 || t.fmt == .n32 || t.fmt == .b32)

/-- The register element that `pmask.set` reads in a lane. -/
def Ctx.maskSrc (c : Ctx) (a : GArgs) (l : Nat) : Src := c.operand l a.reg 1 0

/-- One register has its one tag, unless it is uniform. -/
theorem Ctx.maskSrc_tags_of_isReg {a : GArgs} (h : a.reg.isReg = true) (c : Ctx) (l : Nat) :
    (a.reg.isUniform = true ∧ (c.maskSrc a l).tags = []) ∨
      (a.reg.isUniform = false ∧ ∃ t, (c.maskSrc a l).tags = [t]) := by
  unfold Ctx.maskSrc
  cases hreg : a.reg with
  | v i | n i => exact .inr ⟨rfl, _, rfl⟩
  | u i => exact .inl ⟨rfl, rfl⟩
  | _ => simp [hreg, Opnd.isReg] at h

theorem Ctx.maskSrc_tags_all_isIndex_iff {a : GArgs} (h : a.reg.isReg = true) (c : Ctx) (l : Nat) :
    (c.maskSrc a l).tags.all Tag.isIndex = true ↔ a.reg.isUniform = true ∨
      (((c.maskSrc a l).tags.headD Tag.start).valid = true ∧
        ((c.maskSrc a l).tags.headD Tag.start).fmt ∈ [Ty.n32, .s32, .b32]) := by
  rcases Ctx.maskSrc_tags_of_isReg h c l with ⟨hu, ht⟩ | ⟨hu, t, ht⟩
  · simp [hu, ht]
  · simp [hu, ht, Tag.isIndex, or_assoc, or_left_comm]

/-- The element of `pmask.set` is found in a lane: a register within its bounds that can be read. -/
def Ctx.maskFound (c : Ctx) (a : GArgs) (l : Nat) : Prop :=
  a.reg.isReg = true ∧ c.inBounds l a.reg 1 = true ∧ c.readable l a.reg 1 = true

theorem Ctx.index_ok {l : Nat} {o : Opnd} (hr : c.readable l o 1 = true)
    (ht : (c.operand l o 1 0).tags.all Tag.isIndex = true) (field : Nat) :
    c.index l o field = .ok (c.operand l o 1 0) := by
  rw [Ctx.index, read_ok c l o 1 field 0 hr]
  cases htags : (c.operand l o 1 0).tags with
  | nil =>
    simp only [bind, Except.bind, htags]
    rfl
  | cons t ts =>
    have hindex : t.isIndex = true := List.all_eq_true.1 ht t (htags ▸ List.mem_cons_self)
    unfold Tag.isIndex at hindex
    simp only [bind, Except.bind, htags, require_of _ hindex]
    rfl

theorem Ctx.index_mismatch {l : Nat} {o : Opnd} {t : Tag} {ts : List Tag} (hr : c.readable l o 1 = true)
    (htags : (c.operand l o 1 0).tags = t :: ts) (ht : t.isIndex = false) (field : Nat) :
    c.index l o field = .error (.fault { code := 0x03, addr := tagWord t, operand := field }) := by
  unfold Tag.isIndex at ht
  simp only [Ctx.index, read_ok c l o 1 field 0 hr, bind, Except.bind, htags, ht, require_false]

section MaskWord

variable {a : GArgs} {l : Nat}

theorem Ctx.maskWord_of_not_reg (h : a.reg.isReg = false) (c : Ctx) (l : Nat) :
    c.maskWord a l = .error (.fault (badOperand fDst)) := by
  simp [Ctx.maskWord, h, bind, Except.bind]

theorem Ctx.maskWord_mismatch (h : c.maskFound a l) (ht : (c.maskSrc a l).tags.all Tag.isIndex = false) :
    c.maskWord a l = .error (.fault
      { code := 0x03, addr := tagWord ((c.maskSrc a l).tags.headD Tag.start), operand := fDst }) := by
  obtain ⟨hreg, hin, hread⟩ := h
  rcases Ctx.maskSrc_tags_of_isReg hreg c l with ⟨-, htags⟩ | ⟨-, t, htags⟩
  · rw [htags] at ht
    cases ht
  · rw [htags, List.all_cons, List.all_nil, Bool.and_true] at ht
    rw [htags, Ctx.maskWord, hreg, hin, Ctx.index_mismatch hread htags ht]
    rfl

/-- The fault of `pmask.set` that consumes poison. -/
def Ctx.maskPoison (c : Ctx) (a : GArgs) (l : Nat) : LaneFault :=
  { code := 0x0E, detail := 4, operand := fDst, observed := (c.maskSrc a l).poisoned }

theorem Ctx.maskWord_eq (h : c.maskFound a l) (ht : (c.maskSrc a l).tags.all Tag.isIndex = true) :
    c.maskWord a l = if (c.maskSrc a l).poison
      then .error (.fault (c.maskPoison a l)) else .ok (c.maskSrc a l).low.bits := by
  obtain ⟨hreg, hin, hread⟩ := h
  have hindex : c.index l a.reg fDst = .ok (c.maskSrc a l) := Ctx.index_ok hread ht fDst
  simp only [Ctx.maskWord, hreg, hin, hindex, bind, Except.bind, Bool.and_self, require_true]
  cases (c.maskSrc a l).poison <;> simp [Ctx.maskPoison, pure, Except.pure]

theorem Ctx.maskWord_ok (h : c.maskFound a l) (ht : (c.maskSrc a l).tags.all Tag.isIndex = true)
    (hp : (c.maskSrc a l).poison = false) : c.maskWord a l = .ok (c.maskSrc a l).low.bits :=
  (Ctx.maskWord_eq h ht).trans (if_neg (Bool.eq_false_iff.1 hp))

end MaskWord

/-! ## The survivors that `pmask.set` covers -/

/-- The survivors of a lane that a write mask covers (R29). -/
def Ctx.coveredSurvivors (c : Ctx) (l : Nat) (x : Word) : BitVec 16 :=
  (x >>> 16).setWidth 16 &&& ((c.fibre? l).bind fun f => f.surv).elim 0#16 fun h => h.pmask

theorem Ctx.maskCover_eq_zero_iff (c : Ctx) (a : GArgs) :
    c.maskCover a = 0 ↔ ∀ l ∈ c.is.eff, ∀ x, c.maskWord a l = .ok x → c.coveredSurvivors l x = 0 := by
  have hfold : ∀ (ls : List Nat) (m : BitVec 16),
      ls.foldl (fun m l => match c.maskWord a l with
        | .ok x => m ||| c.coveredSurvivors l x
        | .error _ => m) m = 0 ↔
      m = 0 ∧ ∀ l ∈ ls, ∀ x, c.maskWord a l = .ok x → c.coveredSurvivors l x = 0 := by
    intro ls
    induction ls with
    | nil => simp
    | cons l ls ih =>
      intro m
      rw [List.foldl_cons, ih]
      cases hx : c.maskWord a l <;> simp [hx, and_assoc]
  exact (hfold c.is.eff 0).trans (by simp)

/-! ## Writing the predicate words -/

/-- Masked writes of the predicate words of some lanes. -/
def Group.writeMasks (g : Group) (rs : List (Nat × Word)) : Group :=
  rs.foldl (fun g r => g.modFibre r.1 fun f => { f with pred := maskPreds f.pred r.2 }) g

theorem Group.find?_writeMasks_of_notMem {rs : List (Nat × Word)} {l : Nat} (h : l ∉ rs.map Prod.fst) (g : Group) :
    (g.writeMasks rs).fibres.find? l = g.fibres.find? l := by
  induction rs generalizing g with
  | nil => rfl
  | cons r rs ih =>
    rw [List.map_cons, List.mem_cons, not_or] at h
    obtain ⟨hr, hrs⟩ := h
    exact (ih hrs _).trans (g.find?_modFibre_other hr _)

theorem Group.find?_writeMasks_of_mem {rs : List (Nat × Word)} {l : Nat} {x : Word} {g : Group} {f : Fibre}
    (hn : (rs.map Prod.fst).Nodup) (h : (l, x) ∈ rs) (hf : g.fibres.find? l = some f) :
    (g.writeMasks rs).fibres.find? l = some { f with pred := maskPreds f.pred x } := by
  induction rs generalizing g with
  | nil => cases h
  | cons r rs ih =>
    rw [List.map_cons, List.nodup_cons] at hn
    obtain ⟨hr, hrs⟩ := hn
    rcases List.mem_cons.1 h with rfl | htail
    · exact (Group.find?_writeMasks_of_notMem hr _).trans (Group.find?_modFibre_same hf _)
    · have hne : l ≠ r.1 := fun he => hr (he ▸ List.mem_map_of_mem htail)
      exact ih hrs htail ((g.find?_modFibre_other hne _).trans hf)

theorem State.writeMasks_fibre?_of_notMem {rs : List (Nat × Word)} {l : Nat} (h : l ∉ rs.map Prod.fst) (s : State)
    (gid : Nat) : (s.modGroup gid fun g => g.writeMasks rs).fibre? gid l = s.fibre? gid l := by
  simp only [State.fibre?, State.modGroup_find, if_true]
  cases s.groups.find? gid with
  | none => rfl
  | some g => exact Group.find?_writeMasks_of_notMem h g

theorem State.writeMasks_fibre?_of_mem {rs : List (Nat × Word)} {l gid : Nat} {x : Word} {f : Fibre}
    (hn : (rs.map Prod.fst).Nodup) (h : (l, x) ∈ rs) (hf : s.fibre? gid l = some f) :
    (s.modGroup gid fun g => g.writeMasks rs).fibre? gid l = some { f with pred := maskPreds f.pred x } := by
  obtain ⟨g, hg, hl⟩ := Option.bind_eq_some_iff.1 hf
  simp only [State.fibre?, State.modGroup_find, if_true, hg, Option.map_some, Option.bind_some]
  exact Group.find?_writeMasks_of_mem hn h hl

/-- A masked write takes the low bits of the register where its mask is set (R292). -/
theorem getLsbD_maskPreds (old : BitVec 16) (x : Word) {i : Nat} (hi : i < 16) :
    (maskPreds old x).getLsbD i = if x.getLsbD (16 + i) then x.getLsbD i else old.getLsbD i := by
  simp only [maskPreds, BitVec.getLsbD_or, BitVec.getLsbD_and, BitVec.getLsbD_not, BitVec.getLsbD_setWidth,
    BitVec.getLsbD_ushiftRight, hi, decide_true, Bool.true_and]
  cases x.getLsbD (16 + i) <;> simp

/-! ## `pmask.set` -/

/-- The check of `pmask.set` in a lane. -/
def Ctx.maskCheck (c : Ctx) (a : GArgs) (l : Nat) : Except Stop Word := do
  let x ← c.maskWord a l
  require (c.maskCover a == 0)
    { code := 0x04, operand := fDst
      addr := BitVec.ofNat 64 (((List.range 16).find? fun i => (c.maskCover a).getLsbD i).getD 0) }
  return x

theorem exec_pmask_set {a : GArgs} (h : a.func ≠ 0) (s : State) :
    exec (.pmask a) s = groupOnly s .plain (fun c l => c.maskCheck a l)
      fun c rs s => s.modGroup c.gid fun g => g.writeMasks rs :=
  if_neg h

theorem Ctx.maskCheck_of_error {a : GArgs} {l : Nat} {e : Stop} (h : c.maskWord a l = .error e) :
    c.maskCheck a l = .error e := by
  simp [Ctx.maskCheck, h, bind, Except.bind]

theorem Ctx.maskCheck_of_maskCover {a : GArgs} (h : c.maskCover a = 0) (l : Nat) :
    c.maskCheck a l = c.maskWord a l := by
  cases hx : c.maskWord a l <;> simp [Ctx.maskCheck, hx, h, bind, Except.bind, pure, Except.pure]

/-- A covered survivor is named by its number among the sixteen predicates. -/
theorem Ctx.maskCheck_survivor {a : GArgs} (h : c.maskCover a ≠ 0) :
    ∃ n < 16, ∀ l x, c.maskWord a l = .ok x → c.maskCheck a l =
      .error (.fault { code := 0x04, addr := BitVec.ofNat 64 n, operand := fDst }) := by
  refine ⟨((List.range 16).find? fun i => (c.maskCover a).getLsbD i).getD 0, ?_, fun l x hx => ?_⟩
  · cases hf : (List.range 16).find? fun i => (c.maskCover a).getLsbD i with
    | none => decide
    | some n => exact List.mem_range.1 (List.mem_of_find?_eq_some hf)
  · rw [Ctx.maskCheck, hx, beq_eq_false_iff_ne.2 h]
    rfl

/-- `pmask` with an operand that is no register (R292). -/
theorem exec_pmask_of_not_reg {a : GArgs} (hc : s.ctx? = some c) (h : a.reg.isReg = false) :
    exec (.pmask a) s = .next (c.faultLanes fun _ => badOperand fDst) := by
  have hpad : (badOperand fDst).OffPad := ⟨by decide, by decide⟩
  by_cases hget : a.func = 0
  · exact (if_pos hget).trans (groupOnly_faults _ hc (fun _ => hpad) fun l _ => by
      rw [Ctx.predRegOk_of_not_reg h]; rfl)
  · exact (exec_pmask_set hget s).trans (groupOnly_faults _ hc (fun _ => hpad) fun l _ =>
      Ctx.maskCheck_of_error (Ctx.maskWord_of_not_reg h c l))

/-- The lanes in which `pmask.set` consumes poison. -/
def Ctx.maskBad (c : Ctx) (a : GArgs) : List Nat := c.is.eff.filter fun l => (c.maskSrc a l).poison

/-- The other lanes, with what they write. -/
def Ctx.maskGood (c : Ctx) (a : GArgs) : List (Nat × Word) :=
  (c.is.eff.filter fun l => !(c.maskSrc a l).poison).map fun l => (l, (c.maskSrc a l).low.bits)

theorem Ctx.fst_maskGood (c : Ctx) (a : GArgs) :
    (c.maskGood a).map Prod.fst = c.is.eff.filter fun l => !(c.maskSrc a l).poison := by
  simp [Ctx.maskGood, Function.comp_def]

/-- The state after masked writes in the lanes that pass. -/
def Ctx.masked (c : Ctx) (bad : List Nat) (good : List (Nat × Word)) : State :=
  c.afterChecks bad good fun rs s => s.modGroup c.gid fun g => g.writeMasks rs

theorem Ctx.masked_fibre?_of_bad {bad : List Nat} {good : List (Nat × Word)} {l : Nat} (hbad : l ∈ bad)
    (hgood : l ∉ good.map Prod.fst) (c : Ctx) : (c.masked bad good).fibre? c.gid l = c.fibre? l := by
  have hadv := c.advance_fibre?_of_notMem (ls := c.is.lanes.filter fun l => !bad.contains l) (l := l)
    (by simp [hbad]) false
  unfold Ctx.masked Ctx.afterChecks
  split
  · exact hadv
  · exact (State.writeMasks_fibre?_of_notMem hgood _ _).trans hadv

theorem Ctx.masked_fibre?_of_good {bad : List Nat} {good : List (Nat × Word)} {l : Nat} {x : Word} {f : Fibre}
    (hn : (good.map Prod.fst).Nodup) (hgood : (l, x) ∈ good) (hbad : l ∉ bad) (hl : l ∈ c.is.lanes)
    (hf : c.fibre? l = some f) :
    (c.masked bad good).fibre? c.gid l =
      some { f.advance c.is.pc false with pred := maskPreds f.pred x } := by
  have hadv := Ctx.advance_fibre?_of_mem (ls := c.is.lanes.filter fun l => !bad.contains l) hf
    (by simp [hl, hbad]) false
  unfold Ctx.masked Ctx.afterChecks
  rw [if_neg fun he => List.not_mem_nil (List.isEmpty_iff.1 he ▸ hgood)]
  exact State.writeMasks_fibre?_of_mem hn hgood hadv

section Set

variable {a : GArgs} (hfunc : a.func ≠ 0) (hc : s.ctx? = some c)
include hfunc hc

/-- `pmask.set` with a register of another type (R292). -/
theorem exec_pmask_mismatch
    (h : ∀ l ∈ c.is.eff, c.maskFound a l ∧ (c.maskSrc a l).tags.all Tag.isIndex = false) :
    exec (.pmask a) s = .next (c.faultLanes fun l =>
      { code := 0x03, addr := tagWord ((c.maskSrc a l).tags.headD Tag.start), operand := fDst }) :=
  (exec_pmask_set hfunc s).trans <| groupOnly_faults _ hc (fun l => by simp [LaneFault.OffPad]) fun l hl =>
    Ctx.maskCheck_of_error (Ctx.maskWord_mismatch (h l hl).1 (h l hl).2)

/-- `pmask.set` whose write mask covers a survivor in some lane faults in every lane (R29, R292). -/
theorem exec_pmask_survivor (h : ∀ l ∈ c.is.eff, c.maskWord a l = .ok (c.maskSrc a l).low.bits)
    (hcover : ∃ l ∈ c.is.eff, c.coveredSurvivors l (c.maskSrc a l).low.bits ≠ 0) :
    ∃ n < 16, exec (.pmask a) s =
      .next (c.faultLanes fun _ => { code := 0x04, addr := BitVec.ofNat 64 n, operand := fDst }) := by
  obtain ⟨l, hl, hcov⟩ := hcover
  have hne : c.maskCover a ≠ 0 := fun h0 => hcov ((c.maskCover_eq_zero_iff a).1 h0 l hl _ (h l hl))
  obtain ⟨n, hn, hcheck⟩ := Ctx.maskCheck_survivor hne
  exact ⟨n, hn, (exec_pmask_set hfunc s).trans <| groupOnly_faults _ hc (fun l => by simp [LaneFault.OffPad])
    fun l hl => hcheck l _ (h l hl)⟩

section Fibres

variable (h : ∀ l ∈ c.is.eff, c.maskFound a l ∧ (c.maskSrc a l).tags.all Tag.isIndex = true ∧
  ((c.maskSrc a l).poison = true ∨ c.coveredSurvivors l (c.maskSrc a l).low.bits = 0))
include h

/-- `pmask.set` that covers no survivor: the lanes with poison consume it, the others write their predicate word
(R292). -/
theorem exec_pmask_ok_or_poison :
    exec (.pmask a) s = .next ((c.masked (c.maskBad a) (c.maskGood a)).takeFaults c.gid c.is.pc
      ((c.maskBad a).map fun l => (l, c.maskPoison a l))) := by
  have hword : ∀ l ∈ c.is.eff, c.maskWord a l = if (c.maskSrc a l).poison
      then .error (.fault (c.maskPoison a l)) else .ok (c.maskSrc a l).low.bits := fun l hl => by
    obtain ⟨hfound, htyped, -⟩ := h l hl
    exact Ctx.maskWord_eq hfound htyped
  have hzero : c.maskCover a = 0 := (c.maskCover_eq_zero_iff a).2 fun l hl x hx => by
    obtain ⟨-, -, hcov⟩ := h l hl
    rw [hword l hl] at hx
    split at hx
    · cases hx
    · cases hx
      exact hcov.resolve_left ‹_›
  exact (exec_pmask_set hfunc s).trans <| groupOnly_ok_or_fault _ hc
    (fun l => by simp [LaneFault.OffPad, Ctx.maskPoison]) _ _ fun l hl =>
      (Ctx.maskCheck_of_maskCover hzero l).trans (hword l hl)

/-- The fibres after `pmask.set`: a lane that consumes poison keeps its own, the others have the masked predicate
word. -/
theorem exec_pmask_fibres (hn : c.is.eff.Nodup) :
    ∃ t : State, exec (.pmask a) s = .next (t.takeFaults c.gid c.is.pc
        ((c.maskBad a).map fun l => (l, c.maskPoison a l))) ∧
      (∀ l ∈ c.maskBad a, t.fibre? c.gid l = c.fibre? l) ∧
      ∀ l ∈ c.is.eff, l ∉ c.maskBad a → ∀ f, c.fibre? l = some f → l ∈ c.is.lanes →
        t.fibre? c.gid l = some { f.advance c.is.pc false with
          pred := maskPreds f.pred (c.maskSrc a l).low.bits } := by
  refine ⟨_, exec_pmask_ok_or_poison hfunc hc h, fun l hl => ?keeps, fun l hl hbad f hf hlane => ?writes⟩
  case keeps =>
    have hpoison := (List.mem_filter.1 hl).2
    exact c.masked_fibre?_of_bad hl (by simp [Ctx.fst_maskGood, hpoison])
  case writes =>
    have hclean : (!(c.maskSrc a l).poison) = true := by simpa [Ctx.maskBad, hl] using hbad
    exact Ctx.masked_fibre?_of_good (by rw [Ctx.fst_maskGood]; exact hn.filter _)
      (List.mem_map_of_mem (List.mem_filter.2 ⟨hl, hclean⟩)) hbad hlane hf

end Fibres

end Set

/-- Settles O15: each mode is a `groupOnly` whose checks pass, or fault, in every lane of the effect; `pmask.set` may do
the one in some lanes and the other in the rest. -/
theorem predicateReductions : Obligations.PredicateReductions := by
  refine ⟨fun a => ⟨legal_pvote_iff a, legal_pfirst_iff a, legal_pmask_iff a⟩, fun w => encodingFault_of_mode,
    by decide, rfl, fun s c a hc => ?_⟩
  refine ⟨fun h => ⟨exec_pvote_any hc h, exec_pvote_all hc h, exec_pfirst_lo hc h, exec_pfirst_hi hc h⟩,
    exec_pvote_ballot hc, fun h => ⟨exec_pvote_cnt hc h, exec_pmask_get hc h⟩, fun h hfunc hn => ?set,
    fun old x i hi => getLsbD_maskPreds old x hi, exec_pmask_of_not_reg hc.1, fun hfunc h => ?mismatch,
    fun hfunc hn h => ?poison, fun hfunc h hcover => ?survivor⟩
  case set =>
    have hbad : c.maskBad a = [] :=
      List.filter_eq_nil_iff.2 fun l hl => by
        obtain ⟨-, -, -, -, hpoison, -⟩ := h l hl
        exact Bool.eq_false_iff.1 hpoison
    obtain ⟨t, hexec, -, hwrites⟩ := exec_pmask_fibres hfunc hc.1 (fun l hl => by
      obtain ⟨hreg, hin, hread, htags, -, hcov⟩ := h l hl
      exact ⟨⟨hreg, hin, hread⟩, htags, .inr hcov⟩) hn
    rw [hbad] at hexec hwrites
    exact ⟨t, hexec, fun l hl => hwrites l hl List.not_mem_nil⟩
  case mismatch =>
    refine exec_pmask_mismatch hfunc hc.1 fun l hl => ?_
    obtain ⟨hfound, htyped⟩ := h l hl
    exact ⟨hfound, Bool.eq_false_iff.2 fun ht => htyped ((Ctx.maskSrc_tags_all_isIndex_iff hfound.1 c l).1 ht)⟩
  case poison =>
    refine exec_pmask_fibres hfunc hc.1 (fun l hl => ?_) hn
    obtain ⟨hfound, htyped, hcov⟩ := h l hl
    exact ⟨hfound, (Ctx.maskSrc_tags_all_isIndex_iff hfound.1 c l).2 htyped, hcov.imp_right not_not.1⟩
  case survivor =>
    refine exec_pmask_survivor hfunc hc.1 (fun l hl => ?_) hcover
    obtain ⟨hfound, htyped, hpoison⟩ := h l hl
    exact Ctx.maskWord_ok hfound ((Ctx.maskSrc_tags_all_isIndex_iff hfound.1 c l).2 htyped) hpoison

end Sys2Proof.Machine
